-- ==== Sys2Proof/Word.lean ====
section
/-! DEFINITION. The word types of the Dentenan Y4 and their plainest arithmetic (R7, R57). -/

namespace Sys2Proof

/-- The smallest addressable unit of every storage level (R7). -/
abbrev Byte := BitVec 8

/-- A sequencer register, and a 64-bit address (R37, R39). -/
abbrev Word := BitVec 64

/-- A token value, an op word, a sequencer word (R23, R57, R67). -/
abbrev W32 := BitVec 32

/-- Sparse data by key. A key that is not listed reads as a default of the reader's. -/
abbrev Assoc (κ α : Type) := List (κ × α)

end Sys2Proof
end

