-- ==== Sys2Proof/Syntax.lean ====
section
/-! DEFINITION. The instructions and events of the Dentenan Y4: one constructor of `Instr` for each row of
spec/opcode_table.json (R57–R69, R78; the event rows as spec/95_what_each_step_holds.md lists them), with the types of
their operands. A row that is an event of the device, of the host or of the world around the package takes what that
event brings from outside as its operands. -/

namespace Sys2Proof

/-- A general register number g0–g31 (R58). -/
abbrev Reg := BitVec 5

/-- An operand code of an op word: 0–3 in0–in3, 4–7 k0–k3 (R67). -/
abbrev Src := BitVec 3

/-- A destination code of an op word: 0–3 out0–out3, 4–7 k0–k3 (R67). -/
abbrev Dst := BitVec 3

/-- Width of a memory pair (R62). -/
inductive Width where
  | b | h | w | d
  deriving DecidableEq, Repr

/-- Ordering modifier of a memory pair (R62). -/
inductive MemOrd where
  | plain | acq | rel
  deriving DecidableEq, Repr

/-- The five scopes (R62, R214). -/
inductive Scope where
  | tile | sheet | bh | dev | sys
  deriving DecidableEq, Repr

/-- The functions of `amo` and `amox` (R62, R69). -/
inductive AmoFn where
  | add | min | max | and | or | xchg
  deriving DecidableEq, Repr

/-- The node classes that run op words (R68). -/
inductive NodeClass where
  | element | ag | cv | pa | fe
  deriving DecidableEq, Repr

/-- A node of the package: sheet index s, tile index and element index (R9); the element index is 0 for the nodes of
which a tile holds one. -/
structure NodeId where
  cls : NodeClass
  sheet : Nat
  tile : Nat
  elem : Nat
  deriving DecidableEq, Repr

/-- What a remote package answers to a link-engine operation (R180). -/
inductive RemoteAnswer where
  | accepted | access | xlate | align | lost
  deriving DecidableEq, Repr

/-- A link-engine request that arrives from another package (R180, R348). -/
inductive SpanOp where
  | put (addr : BitVec 48) (blocks : List Byte) (length : Nat)
  | get (addr : BitVec 48) (length : Nat)
  | lamo (addr : BitVec 48) (wide : Bool) (fn : BitVec 3) (operand : Word)
  | lsig (addr : BitVec 48) (increment : W32)
  deriving DecidableEq, Repr

/-- The request with the identity it carries: the package it is for, the sender's package and tag, and the tag it names (R347, R348). -/
structure SpanRequest where
  toPackage : BitVec 12
  fromPackage : BitVec 12
  senderTag : BitVec 7
  rtag : BitVec 7
  op : SpanOp
  deriving DecidableEq, Repr

/-- The host AtomicOps the device completes (R332). -/
inductive HostAtomicOp where
  | fetchAdd | swap | cas
  deriving DecidableEq, Repr

/-- How a host request comes: inside the tenant's IDE stream or not (R299), on which of the host links (R332), and with Relaxed
Ordering or not (R333). -/
structure HostPath where
  ide : Bool
  link : Nat
  relaxed : Bool
  deriving DecidableEq, Repr

/-- A flit of a transfer (R347): of a link-engine operation, or of a packet that carries an answer or passes through, by its number. -/
structure SpanFlit where
  op : Nat
  flit : Nat
  deriving DecidableEq, Repr

/-- Where a hardware fault strikes (R314, R319, R328). -/
inductive FaultSite where
  | node (n : NodeId)
  | tileSwitch (sheet tile : Nat)
  | edgePort (sheet : Nat) (side : Nat)
  | widePort (sheet : Nat) (port : Nat)
  | saveLine (bh : Nat) (line : Nat)
  | proofBuffer (bh : Nat)
  deriving DecidableEq, Repr

/-- The shared units of R296. -/
inductive SharedUnit where
  | hbmStack (stack : Nat)
  | cxlPort (port : Nat)
  | expander (port half : Nat)
  | copyEngine (die index : Nat)
  | compositor (die index : Nat)
  | linkEngine (die index : Nat)
  | spanPort (port : Nat)
  | spineRouter (bh : Nat)
  | spineLink (bh : Nat) (dir : Nat)
  | secondaryDrover (die : Nat)
  | primaryDrover
  | hostLink (link : Nat)
  deriving DecidableEq, Repr

/-- What a scrubber finds in a line (R325, R326): nothing, a single-bit error, or an uncorrectable one, with whether the line's
read-back fails; or that one has arisen in it, which the next agent to read the line meets. -/
inductive ScrubFind where
  | clean
  | single
  | lost (readBackFails : Bool)
  | arises (readBackFails : Bool)
  deriving DecidableEq, Repr

/-- What trains at bring-up (R346, R351): an HBM stack, or one of the two expanders behind a CXL port with its first FM frame and its
count of frames. -/
inductive TrainedUnit where
  | stack (stack : Nat)
  | expander (port half firstFrame frames : Nat)
  deriving DecidableEq, Repr

/-- The verified images of R297, in the order in which each stage verifies the next. -/
inductive ImageKind where
  | stage1 | drover | engine | estimator
  deriving DecidableEq, Repr

/-- A firmware image as it is received: its security version, whether each of the two signatures verifies (R5), and
its SHA-384 measurement (R297). Whether a signature verifies is a fact about the image that arrives with it. -/
structure FirmwareImage where
  kind : ImageKind
  version : Nat
  ed25519 : Bool
  mldsa65 : Bool
  measurement : BitVec 384
  deriving DecidableEq, Repr

/-- TDISP messages of the host (R299). -/
inductive TdispMsg where
  | lock | start | stop
  deriving DecidableEq, Repr

/-- One instruction, op word, engine operation or event: one constructor per row of spec/opcode_table.json. -/
inductive Instr where
  -- the register ALU, major 0x01 (R60, R86)
  | add (d a b : Reg)
  | sub (d a b : Reg)
  | and (d a b : Reg)
  | or (d a b : Reg)
  | xor (d a b : Reg)
  | shl (d a b : Reg)
  | shr (d a b : Reg)
  | sra (d a b : Reg)
  | mul (d a b : Reg)
  | mulh (d a b : Reg)
  | mulhu (d a b : Reg)
  | div (d a b : Reg)
  | divu (d a b : Reg)
  | rem (d a b : Reg)
  | remu (d a b : Reg)
  | min (d a b : Reg)
  | max (d a b : Reg)
  | minu (d a b : Reg)
  | maxu (d a b : Reg)
  | slt (d a b : Reg)
  | sltu (d a b : Reg)
  | clz (d a : Reg)
  | popc (d a : Reg)
  -- immediates (R58, R87)
  | addi (d a : Reg) (i : BitVec 16)
  | andi (d a : Reg) (i : BitVec 16)
  | ori (d a : Reg) (i : BitVec 16)
  | xori (d a : Reg) (i : BitVec 16)
  | slti (d a : Reg) (i : BitVec 16)
  | shli (d a : Reg) (sh : BitVec 6)
  | shri (d a : Reg) (sh : BitVec 6)
  | srai (d a : Reg) (sh : BitVec 6)
  | lui (d : Reg) (i : BitVec 16)
  -- branches, jumps, calls (R88, R89)
  | beq (a b : Reg) (o : BitVec 16)
  | bne (a b : Reg) (o : BitVec 16)
  | blt (a b : Reg) (o : BitVec 16)
  | bge (a b : Reg) (o : BitVec 16)
  | bltu (a b : Reg) (o : BitVec 16)
  | bgeu (a b : Reg) (o : BitVec 16)
  | jmp (o : BitVec 26)
  | jr (a : Reg)
  | call (o : BitVec 26)
  | callr (a : Reg)
  | loop (a : Reg) (o : BitVec 16)
  -- memory pairs (R62, R91) and the fence (R94)
  | ld (d a : Reg) (off : BitVec 16) (wd : Width) (ord : MemOrd) (sc : Scope)
  | st (d a : Reg) (off : BitVec 16) (wd : Width) (ord : MemOrd) (sc : Scope)
  | amo (d a b : Reg) (off : BitVec 16) (wd : Width) (ord : MemOrd) (sc : Scope) (fn : AmoFn)
  | cas (d a b : Reg) (off : BitVec 16) (wd : Width) (ord : MemOrd) (sc : Scope)
  | fence (sc : Scope)
  -- streams (R64, R96–R102)
  | dset (n : BitVec 5) (a : Reg)
  | strin (k n x : BitVec 5)
  | strout (k n x : BitVec 5)
  | bsel (a : Reg)
  | scancel (x : BitVec 5)
  -- engine messages (R103, R104)
  | amsg (a : Reg) (f : BitVec 11)
  | await (d a : Reg)
  | apoll (d a : Reg)
  -- queues (R105–R109)
  | qpush (k : BitVec 5) (a b : Reg)
  | qpop (d : Reg) (k : BitVec 5)
  | qcnt (d : Reg) (k : BitVec 5)
  | qctl (k : BitVec 5) (a b : Reg)
  | qbind (k : BitVec 5) (o : BitVec 16)
  | xq (d a b : Reg)
  -- forme control (R110, R111)
  | fload (d a : Reg)
  | fplace (d a b : Reg)
  | frun (a : Reg)
  | flay (d a : Reg)
  -- barriers and events (R112)
  | bar (a : Reg)
  | evsig (a b : Reg)
  | evwait (d a : Reg)
  -- control registers and system (R113, R114)
  | csrr (d : Reg) (c : BitVec 16)
  | csrw (a : Reg) (c : BitVec 16)
  | trap (c : BitVec 16)
  -- sequencer events
  | waitingInstructionRetire (sheet ctx : Nat)
  | handlerInvocation (sheet ctx : Nat)
  | queuePushAccept (sheet q : Nat)
  | galleyRefill (sheet q : Nat)
  -- element op words (R67–R69, R124–R140)
  | elemAdd (a b : Src) (d : Dst) (n : BitVec 4) (sat e : Bool)
  | elemSub (a b : Src) (d : Dst) (n : BitVec 4) (sat e : Bool)
  | elemMul (a b : Src) (d : Dst) (n : BitVec 4) (sat e : Bool)
  | fma (a b c : Src) (d : Dst) (n : BitVec 4) (sat e : Bool)
  | elemMin (a b : Src) (d : Dst) (n : BitVec 4) (e : Bool)
  | elemMax (a b : Src) (d : Dst) (n : BitVec 4) (e : Bool)
  | abs (a : Src) (d : Dst) (n : BitVec 4) (e : Bool)
  | neg (a : Src) (d : Dst) (n : BitVec 4) (e : Bool)
  | elemShl (a b : Src) (d : Dst) (n : BitVec 4) (sat e : Bool)
  | elemShr (a b : Src) (d : Dst) (n : BitVec 4) (e : Bool)
  | elemSra (a b : Src) (d : Dst) (n : BitVec 4) (e : Bool)
  | elemAnd (a b : Src) (d : Dst) (n : BitVec 4) (e : Bool)
  | elemOr (a b : Src) (d : Dst) (n : BitVec 4) (e : Bool)
  | elemXor (a b : Src) (d : Dst) (n : BitVec 4) (e : Bool)
  | not (a : Src) (d : Dst) (n : BitVec 4) (e : Bool)
  | cmp (a b : Src) (d : Dst) (n : BitVec 4) (cc : BitVec 3) (e : Bool)
  | sel (a b c : Src) (d : Dst) (n : BitVec 4) (e : Bool)
  | mov (a : Src) (d : Dst) (n : BitVec 4) (e : Bool)
  | const (d : Dst) (n : BitVec 4) (tag : BitVec 3) (e : Bool) (imm : W32)
  | exp2 (a : Src) (d : Dst) (n : BitVec 4) (e : Bool)
  | log2 (a : Src) (d : Dst) (n : BitVec 4) (e : Bool)
  | rcp (a : Src) (d : Dst) (n : BitVec 4) (e : Bool)
  | rsq (a : Src) (d : Dst) (n : BitVec 4) (e : Bool)
  | sqrt (a : Src) (d : Dst) (n : BitVec 4) (e : Bool)
  | pack (a b : Src) (d : Dst) (n : BitVec 4) (e : Bool)
  | unpack (a b : Src) (d : Dst) (n : BitVec 4) (e : Bool)
  | lane (a : Src) (d : Dst) (n : BitVec 4) (l : BitVec 2) (e : Bool)
  | bcast (a : Src) (d : Dst) (n : BitVec 4) (e : Bool)
  | ctxalloc (a : Src) (d : Dst) (n : BitVec 4) (e : Bool)
  | ctxfree (a : Src) (d : Dst) (n : BitVec 4) (e : Bool)
  | colourWidthChange (inst : Nat) (colour : BitVec 8)
  | itin (a : Src) (d : Dst) (n : BitVec 4) (e : Bool)
  | itnext (a : Src) (d : Dst) (n : BitVec 4) (e : Bool)
  | itout (a : Src) (d : Dst) (n : BitVec 4) (e : Bool)
  | loUpdateArrival (sheet tile ctx : Nat) (colour : BitVec 8)
  | tcall (a b : Src) (d : Dst) (n : BitVec 4) (e : Bool)
  | tret (a b : Src) (d : Dst) (n : BitVec 4) (e : Bool)
  | setslot (a b : Src) (d : Dst) (e : Bool)
  | steer (a b : Src) (d : Dst) (n : BitVec 4) (e : Bool)
  | merge (a b : Src) (d : Dst) (n : BitVec 4) (e : Bool)
  | omerge (a b : Src) (d : Dst) (n : BitVec 4) (e : Bool)
  | gate (a b : Src) (d : Dst) (n : BitVec 4) (e : Bool)
  | fan (a : Src) (n : BitVec 4) (e : Bool)
  | sink (a : Src) (e : Bool)
  | acc (a b : Src) (d : Dst) (n : BitVec 4) (e : Bool)
  | scan (a b : Src) (d : Dst) (n : BitVec 4) (e : Bool)
  | delay (a b : Src) (e : Bool)
  | rowms (a b c : Src) (d : Dst) (n : BitVec 4) (e : Bool)
  | rowfin (a b : Src) (d : Dst) (n : BitVec 4) (e : Bool)
  | rowscl (a b c : Src) (d : Dst) (n : BitVec 4) (e : Bool)
  -- address generator (R141–R145)
  | ldt (a : Src) (d : Dst) (n : BitVec 4) (tag : BitVec 3) (e : Bool)
  | stt (a b : Src) (e : Bool)
  | ldx (a b : Src) (d : Dst) (n : BitVec 4) (tag : BitVec 3) (e : Bool)
  | stx (a b c : Src) (e : Bool)
  | amox (a b c : Src) (d : Dst) (n : BitVec 4) (fn : AmoFn) (e : Bool)
  | tmove (a : Src) (d : Dst) (n : BitVec 4) (e : Bool)
  | bndry (a : Src) (d : Dst) (n : BitVec 4) (sc : Scope) (e : Bool)
  -- converter (R147–R149)
  | cvt (a : Src) (d : Dst) (n : BitVec 4) (sat : Bool) (tag : BitVec 3) (e : Bool)
  | cvtq (a : Src) (d : Dst) (n : BitVec 4) (target : BitVec 3) (e : Bool)
  | cvts (a : Src) (d : Dst) (n : BitVec 4) (sat : Bool) (tag : BitVec 3) (e : Bool)
  -- plane array (R155–R163)
  | wsload (a : Src) (e : Bool)
  | mm (a b : Src) (d : Dst) (n : BitVec 4) (e : Bool)
  | accrd (a : Src) (d : Dst) (n : BitVec 4) (sat e : Bool)
  | acczero (a : Src) (e : Bool)
  | mmInterrupt (n : NodeId)
  | mmResume (n : NodeId)
  -- front element (R164–R171)
  | fcfg (a : Src) (e : Bool)
  | fins (a b c : Src) (e : Bool)
  | fprobe (a b c : Src) (d : Dst) (n : BitVec 4) (e : Bool)
  | fmrg (a : Src) (e : Bool)
  | fdrain (a : Src) (d : Dst) (n : BitVec 4) (e : Bool)
  | fcnt (d : Dst) (n : BitVec 4) (e : Bool)
  | fclr (e : Bool)
  -- fabric events
  | tokenArrival (inst edge : Nat)
  | matchingStoreAdmit (n : NodeId) (ctx port place : Nat)
  | firingStart (n : NodeId)
  | streamPoint (stream : Nat)
  | wakeTokenArrival (tag : BitVec 16)
  -- engine operations (R176–R180): the operation, and how many of its units move now
  | ceCopy (op units : Nat)
  | ceCopyc (op units : Nat)
  | ceFill (op units : Nat)
  | cePlane (op units : Nat)
  | ceGather (op units : Nat)
  | ceScatter (op units : Nat)
  | coCompose (op units : Nat)
  | lePut (op units : Nat) (answer : RemoteAnswer)
  | leGet (op : Nat) (data : List Byte) (answer : RemoteAnswer)
  | leLamo (op : Nat) (old : Word) (answer : RemoteAnswer)
  | leLsig (op : Nat) (answer : RemoteAnswer)
  | engineCompletion (op : Nat)
  | spanRequestArrival (r : SpanRequest)
  | spanFlitError (port : Nat) (f : SpanFlit)
  | spanVcEscape (packet : Nat)
  -- host and drover registers (R335–R342)
  | kick (vf : Nat) (v : Word)
  | launchSlotReread (vf : Nat)
  | wakeMapped (vf : Nat) (tag : BitVec 16)
  | wakeInvalid (vf : Nat) (tag : BitVec 16)
  | superGrant (vf : Nat) (stamp : BitVec 16) (units : BitVec 47)
  | superEnd (vf : Nat) (stamp : BitVec 16) (units : BitVec 47)
  | tlbinvVa (vf : Nat) (v : Word)
  | tlbinvAll (vf : Nat)
  | tlbinvDone (vf : Nat)
  | lrbaseWrite (vf : Nat) (v : Word)
  | crbaseWrite (vf : Nat) (v : Word)
  | erbaseWrite (vf : Nat) (v : Word)
  | statusRead (vf : Nat)
  | registerWrite (fn off : Nat) (v : Word)
  | tenantRecordWrite (tag : Nat) (v : BitVec 512)
  | windowEntryWrite (bank entry : Nat) (v : BitVec 16)
  | filterEntryWrite (entry : Nat) (v : BitVec 128)
  | frameTableWrite (frame : Nat) (v : Byte)
  -- bulkheads (R276–R289, R294)
  | bulkheadAssign (bh tag : Nat)
  | pllRelockDone (bh : Nat)
  | bulkheadRelease (bh : Nat)
  | bulkheadReleaseDone (bh : Nat)
  | bulkheadReset (bh : Nat) (release : Bool)
  | resetLineRelease (bh : Nat)
  | zeroisationDone (bh : Nat) (readBackFails : Bool)
  | timeSliceExpiry (bh : Nat)
  | bulkheadSwitch (bh : Nat)
  -- host accesses (R332–R334)
  | hostRead (fn bar off size : Nat) (path : HostPath)
  | hostWrite (fn bar off : Nat) (data : List Byte) (path : HostPath)
  | hostAtomic (fn bar off size : Nat) (op : HostAtomicOp) (operand compare : Word) (path : HostPath)
  | vfFlr (vf : Nat)
  | hostLinkRetrain (link : Nat) (up : Bool)
  -- bring-up and far memory (R346, R351)
  | powerGood (images : List FirmwareImage)
  | memoryTrained (u : TrainedUnit)
  | bulkheadBringup (bh : Nat)
  | cxlFrameResident (frame : Nat)
  | cxlFrameLost (firstFrame frames : Nat) (lasting : Bool)
  -- power (R352, R353)
  | capMessage (m : Word)
  | capScaleTick (millivolts : List Nat)
  | sensorSample (bh : Nat) (temps currents : List Int)
  -- management (R298, R354)
  | spdmGetMeasurements (vf index : Nat)
  | pldmSensorRead (sensor : Nat)
  | pldmFirmwareUpdate (image : FirmwareImage)
  -- scheduling (R19, R236–R243, R263–R269)
  | rankRefresh (inst : Nat)
  | phasePlace (die : Nat)
  | tileConfigComplete (inst sheet tile : Nat)
  | phaseEnd (inst : Nat)
  | completionRecordPost (vf : Nat)
  | eventRecordPost (vf : Nat)
  | backfillLimit (die : Nat)
  | quantumExhausted (slice : Nat)
  | workAllowanceDraw (sheet ctx : Nat)
  | budgetReport (inst : Nat)
  | energyRefresh (inst : Nat)
  | allowanceWindow (sheet : Nat)
  | rateWindowEnd (inst : Nat)
  | slugTaken (inst change : Nat)
  | watchdogExpiry (inst : Nat)
  -- recovery (R305–R328)
  | cutTimer (inst : Nat)
  | nodeSave (inst : Nat) (n : NodeId)
  | cutComplete (inst : Nat) (failingLine : Option Nat)
  | tokenParityError (inst : Nat) (site : FaultSite)
  | nodeMachineCheck (site : FaultSite)
  | rollbackRestoreDone (inst : Nat) (areaFails : Bool)
  | reportDelivery (inst : Nat)
  | thawArrival (inst sheet : Nat)
  | scrubLine (addr : Nat) (find : ScrubFind)
  | illegalInstruction (w : Word)
  | sharedUnitFault (u : SharedUnit) (again : Bool)
  | parkComplete (bh : Nat)
  | restoreComplete (bh : Nat)
  | tdispRequest (vf : Nat) (m : TdispMsg)
  -- rows without operands
  | ret
  | stbar
  | fhalt
  | bell
  | eret
  | wfi
  | yield
  | brk
  | nop
  | pferrRead
  | perstDeassert
  | capHorizonExpiry
  | pldmBaseDiscovery
  | instructionFetchFault
  | configurationRequest
  deriving DecidableEq, Repr

end Sys2Proof
end

