-- ==== Sys2Proof/Config.lean ====
section
/-! DEFINITION. What an implementation fixes and the spec leaves open: constants without a body, so that nothing can be
proved of a value (log entry 2). Each is applied to the operands it depends on, or to the counter `State.free`. -/

namespace Sys2Proof.Config

/-- A 64-bit value the spec leaves open, fresh for each count. -/
opaque freeWord : Nat → Word

/-- A byte the spec leaves open, fresh for each count: bytes of a SPILL extension while the front holds tuples (R166). -/
opaque freeByte : Nat → Byte

/-- Weight of activity event i in units of 0.25 pJ, 8 bits (R262: fused, no value given). -/
opaque energyWeight : Nat → BitVec 8

/-- Weight of activity event i that an estimator image of a measurement brings; none where it leaves the fused one (R262). -/
opaque imageWeight : BitVec 384 → Nat → Option (BitVec 8)

/-- The SHA-384 measurement of the fused configuration with a security version, SPDM index 5 (R298: part number and fused cap are
not given in a measurable form). -/
opaque fusedMeasurement : Nat → BitVec 512

/-- How a measurement is made of what indices 6 and 16 to 20 cover, as a list of numbers (R298: the encoding is not given). -/
opaque measureOf : List Nat → BitVec 512

/-- A signature over a report, under one of the two algorithms (R5, R298: the device key is not given). -/
opaque signature : Bool → Nat → Word

/-- A signature over a report verifies under one of the two algorithms (R5: the keys are not given). -/
opaque signatureVerifies : Bool → Nat → Word → Bool

/-- The security version in the fuses at power-up (R297: fused, no value given). -/
opaque fusedVersion : Nat

/-- How far above 360 mV the rail of a bulkhead stands at a clock above 700 MHz (R2: a window of 360 to 460; no rule gives the
voltage for a clock). -/
opaque railMillivolts : Nat → Nat → Nat

/-- Whether a side (0 N, 1 E, 2 S, 3 W) of a die carries Span ports, or HBM (R13: a forme may ask for either; which side
carries which is not given). -/
opaque edgeCarries : Nat → Nat → Bool → Bool

/-- Bytes of forme images that the pinned DS forme area of a slice has room for (R110: `fload` answers that there is no
room, and the size of the area is not given). -/
opaque formeArea : Nat

/-- Which of the fault kinds of R300 the event record of a stall in place carries (R345 gives the field, no rule the kind). -/
opaque stallChoice : Nat

/-- Which of the fault kinds of R300 a launch ends with when its bulkhead is reset or its TDI is in ERROR (R295, R299: the launch
ends under R303, and no kind is given). -/
opaque resetChoice : Nat

/-- Which of the twelve routers at the edge of its die a shared unit attaches to, and of a Span port the die (R258: no rule says which). -/
opaque routerOf : SharedUnit → Nat

/-- The number of this package among those of the Span network, 0 to 4,095 (R347, R348: not given). -/
opaque packageNumber : BitVec 12

/-- The slot owner tables that the drover writes, per link and per controller, fresh for each count (R258, R261: what it writes is
not given). -/
opaque slotPlan : Nat → List ((Nat × Nat × Nat) × BitVec 16) × List ((Nat × Nat) × BitVec 16)

/-- The bytes in which a park image holds the queues of a bulkhead, fresh for each count (R289: 32 KiB; no layout is given). -/
opaque parkedQueues : Nat → Nat → Byte

/-- How far above 700 MHz the fabric clock of a bulkhead is raised while one tenant holds the package (R3: up to 860). -/
opaque clockAbove : Nat → Nat

/-- How many tokens of an edge wait in the fabric between its inject buffer and its eject buffer (R222, R255: switch
buffers hold tokens; no size is given). -/
opaque linkRoom : Nat → Nat

/-- Energy in nJ of a window that the counted activity events do not cover (R262). -/
opaque otherEnergy : Nat → Nat

end Sys2Proof.Config
end

