-- ==== Sys2Proof/Machine/State.lean ====
section
/-! DEFINITION. The state of the device as plain data: everything the spec gives the machine (INVENTORY.md lists it),
the reasons a step can stop, and the state after reset. Units are held in records by name; units of which there are
many are held in lists keyed by their number, and a unit that is not listed is as it is at reset. -/

namespace Sys2Proof.Machine

/-- Four of a kind: contexts, ports, outputs, keep registers, actor headers. -/
structure Quad (α : Type) where
  q0 : α
  q1 : α
  q2 : α
  q3 : α
  deriving DecidableEq, Repr

/-- The k-th of the four (the last for any index above 2). -/
def Quad.get {α : Type} (q : Quad α) (k : Nat) : α :=
  match k with
  | 0 => q.q0
  | 1 => q.q1
  | 2 => q.q2
  | _ => q.q3

/-- The four with the k-th replaced. -/
def Quad.set {α : Type} (q : Quad α) (k : Nat) (v : α) : Quad α :=
  match k with
  | 0 => { q with q0 := v }
  | 1 => { q with q1 := v }
  | 2 => { q with q2 := v }
  | _ => { q with q3 := v }

/-- Four equal values. -/
def Quad.all {α : Type} (v : α) : Quad α := ⟨v, v, v, v⟩

/-- A value with its format tag: a keep register, a result (R24, R31). -/
structure Val where
  tag : BitVec 3
  value : W32
  deriving DecidableEq, Repr

/-- A token (R23). -/
structure Token where
  width : BitVec 5
  ctx : BitVec 2
  colour : BitVec 8
  iter : BitVec 8
  slot : BitVec 4
  port : BitVec 2
  fmt : BitVec 3
  value : W32
  deriving DecidableEq, Repr

/-- Memory: address and byte, addresses strictly rising, no byte zero (Memory.wf). -/
abbrev Memory := List Host.Cell

/-! ### Sequencer -/

/-- A stream descriptor (R95). -/
structure Desc where
  base : Word
  c0 : BitVec 24
  fmt : BitVec 3
  slot : BitVec 4
  s0 : W32
  c1 : W32
  colour : BitVec 8
  s1 : W32
  c2 : BitVec 24
  iter : BitVec 8
  s2 : W32
  deriving DecidableEq, Repr

/-- Why an access of a thread has not been made yet (R41, R92, R225, R226, R346). -/
inductive Hold where
  | miss (tag : BitVec 16)   -- waits for the wake token of this fault tag (R307)
  | range                    -- overlaps a held range of the scoreboard (R41)
  | proofFull                -- needs a line in a full proof buffer (R225)
  | heldLine                 -- a line held by another forme (R226)
  deriving DecidableEq, Repr

/-- What a thread waits for (R84), with what its instruction read at issue. -/
inductive Wait where
  | await (d a : Reg)                                    -- R104
  | qpop (d : Reg) (k : Nat)                             -- R106
  | bar (b : BitVec 3)                                   -- R112
  | evwait (d : Reg) (mask : BitVec 16)                  -- R112
  | wfi                                                  -- R114
  | stbar (streams : List Nat)                           -- R102
  | port (inbound : Bool) (k n x : BitVec 5)             -- R97: the port is occupied
  | qpush                                                -- R105: the entry waits for room
  | amsg (f : Nat) (flits : List Word)                   -- R41, R103: the scoreboard is full
  | access (i : Instr) (h : Hold)                        -- R92, R41: made anew when the hold ends
  | publish (i : Instr) (read : List Byte)               -- R227: performed as part of the commit, with what it read at issue
  deriving DecidableEq, Repr

/-- Whether a thread exists and runs (R29, R111). -/
inductive RunState where
  | absent | running | halted
  deriving DecidableEq, Repr

/-- A sequencer thread (R37, R89, R98, R108, R112). -/
structure Thread where
  run : RunState
  regs : Vector Word 32        -- g0–g31 (R29, R37)
  pc : Word
  tvec : Word
  epc : Word
  cause : Word
  tval : Word
  rasBase : Word
  rasLim : Word
  ras : List Word              -- the return-address store, youngest first (R89)
  rasSpl : Nat                 -- RASSPL (R89)
  descs : Assoc Nat Desc       -- the filled descriptor slots (R96)
  events : BitVec 16           -- ev0–ev15 (R112)
  binds : Assoc Nat Word       -- queue to handler address (R108)
  laterBinds : List (Nat × Option Word)   -- `qbind`s of the invocation in progress, oldest first (R108)
  invocation : Option Word     -- the `wfi` an invocation returns to (R108)
  group : List Nat             -- streams of the open issue group (R98)
  held : List Nat              -- the held set (R98)
  wait : Option Wait
  entering : Bool              -- a trap or report has moved the pc to TVEC and its first fetch is not made (R306)
  invalid : Option Word        -- a wake said Invalid: the access made anew at this address faults XLATE (R307)
  sent : Assoc Nat Nat         -- per engine class: the operation it has issued last (R77)
  popless : Bool               -- the invocation in progress has popped nothing so far (R254)
  barren : Bool                -- the invocation before it ended without a pop (R254)
  deriving DecidableEq, Repr

/-- A thread after zeroisation and before any placement (R281, R31–R37; pc, RASBASE, RASLIM: log entry 10). -/
def Thread.reset : Thread :=
  { run := .absent, regs := Vector.replicate 32 0, pc := 0, tvec := 0, epc := 0, cause := 0, tval := 0, rasBase := 0,
    rasLim := 0, ras := [], rasSpl := 0, descs := [], events := 0, binds := [], laterBinds := [], invocation := none,
    group := [], held := [], wait := none, entering := false, invalid := none, sent := [], popless := false, barren := false }

/-- A queue entry of eight words, with the instance that pushed it (R105, R318), its number among all that the queue has accepted, and
the place in a galley from which it came: the number of the `qctl` and the entry's number in that ring (R271). -/
structure QEntry where
  bytes : List Byte
  inst : Nat
  num : Nat
  place : Option (Nat × Nat)
  deriving DecidableEq, Repr

/-- A push that has arrived and waits for room (R253): the pusher's sheet and context, none for the drover's. -/
structure Push where
  entry : QEntry
  pusher : Option (Nat × Nat)
  deriving DecidableEq, Repr

/-- An entry that a galley holds: the j-th that has gone to the galley since its `qctl`, so that it occupies slot j mod size (R271); the
instance that pushed it and its number in the queue (R318). -/
structure RingEntry where
  j : Nat
  inst : Nat
  num : Nat
  deriving DecidableEq, Repr

/-- A galley: a ring in memory whose head and count the queue keeps (R107, R271). -/
structure Galley where
  base : Word
  tenant : Nat
  size : Nat
  set : Nat                    -- which `qctl` of the queue has set it
  next : Nat                   -- entries that have gone to it since
  held : List RingEntry        -- head first
  owner : Nat                  -- the instance whose `qctl` set it
  deriving DecidableEq, Repr

/-- An entry that has been popped: its place among all pops of the queue, and the instance that popped it (R318). -/
structure Popped where
  seq : Nat
  inst : Nat
  entry : QEntry
  deriving DecidableEq, Repr

/-- A queue of a sheet (R105–R107, R253). -/
structure Queue where
  hw : List QEntry
  galley : Option Galley
  waiting : List Push
  pushes : Nat                 -- entries accepted so far
  pops : Nat                   -- entries popped so far
  popped : List Popped         -- what a rollback may put back (R318), oldest first
  settings : Nat               -- galleys set so far
  deriving DecidableEq, Repr

/-- A queue after zeroisation (R281). -/
def Queue.reset : Queue := { hw := [], galley := none, waiting := [], pushes := 0, pops := 0, popped := [], settings := 0 }

/-- An entry of the range scoreboard: an operation, or the AG node of a `tmove`, holds own-sheet scratch bytes
[first, last] (R41, R142, R175). -/
structure Range where
  op : Option Nat
  node : Option NodeId
  ctx : Nat                    -- context of the thread or firing that took it
  first : Nat
  last : Nat
  deriving DecidableEq, Repr

/-- A window of iterations of one colour (R131). -/
structure Window where
  lo : BitVec 8
  hi : BitVec 8
  live : BitVec 64             -- bit (iter mod 64): the iteration is live
  deriving DecidableEq, Repr

/-- The window at phase start (R131). -/
def Window.reset : Window := { lo := 0, hi := 0, live := 0 }

/-- What travels along an edge: a token with the cycle since which it waits there (R257), a slug (R27, R223), a bellwether (R309). -/
inductive Item where
  | token (t : Token) (since : Nat)
  | slug (change : Nat)
  | bell (cut : Nat)
  deriving DecidableEq, Repr

/-- A sheet (R30, R31, R41, R131, R242, R246, R263). -/
structure Sheet where
  threads : Quad Thread
  rank : Quad (BitVec 16)      -- R19, R31
  valid : Quad Bool            -- R31
  units : Quad Nat             -- units of the allowance in hand (R242)
  workBase : Quad Nat          -- WORKLEFT's base: the budget just before this sheet's last grant (R242)
  taken : Quad Nat             -- units taken since that grant
  issued : List Nat            -- contexts in the order of their last issue, the latest first (R246)
  turn : Quad Nat              -- instructions of each context's turn; 16 where it has ended (R246)
  queues : Assoc Nat Queue
  board : List Range
  windows : Quad (Assoc Nat Window)
  wide : Assoc (Nat × Nat) (List Item)    -- (port, context): what waits at the port for its outbound stream (R97)
  wideAllow : Assoc Nat Nat    -- A of each wide port (R263)
  wideUsed : Assoc Nat Nat     -- tokens injected in this window
  edgeAllow : Quad Nat
  edgeUsed : Quad Nat
  wideLast : Assoc Nat Nat     -- per wide port: the context that injected last (R263)
  edgeLast : Quad Nat          -- per edge port: the context whose token passed last (R263)
  dividers : Quad Nat          -- per tile row (R21, R264)
  energy : Nat                 -- the estimate of the last window in 0.25 pJ (R262)
  activity : Quad (Assoc Nat Nat)         -- the 48 counters per context (R262)
  past : List (Nat × Nat)      -- events of this window of contexts that have been freed in it
  spent : Quad Nat             -- per context: energy of ended windows that its slice is not charged yet, in 0.25 pJ (R243)
  deriving DecidableEq, Repr

/-- A sheet after zeroisation. Allowances at their maximum: log entry 22. -/
def Sheet.reset : Sheet :=
  { threads := Quad.all Thread.reset, rank := Quad.all 0, valid := Quad.all false, units := Quad.all 0,
    workBase := Quad.all 0, taken := Quad.all 0, issued := [], turn := Quad.all 0, queues := [], board := [],
    windows := Quad.all [], wide := [], wideAllow := [], wideUsed := [], edgeAllow := Quad.all 256,
    edgeUsed := Quad.all 0, wideLast := [], edgeLast := Quad.all 3, dividers := Quad.all 1, energy := 0, activity := Quad.all [],
    past := [], spent := Quad.all 0 }

/-! ### Nodes and tiles -/

/-- A token in an input queue: with the cycle of its arrival and the edge it came by (R31, R135). -/
structure QToken where
  tok : Token
  arrived : Nat
  edge : Nat
  deriving DecidableEq, Repr

/-- An entry of the matching store: one waiting token with its target node (R32, R250). -/
structure StoreEntry where
  qt : QToken
  node : NodeId
  reserved : Bool
  deriving DecidableEq, Repr

/-- A ring of `delay` of one actor (R137): the descriptor that describes it, the operand codes of the keep registers under which it
was filled while it holds entries, the entry it starts at and how many it holds. -/
structure Ring where
  actor : Nat
  codes : List Nat
  desc : W32
  head : Nat
  count : Nat
  deriving DecidableEq, Repr

/-- The one partial group of a converter (R36, R146, R148, R149). -/
inductive Group where
  | none
  | lanes (colour iter : BitVec 8) (tag : BitVec 3) (ls : List W32)      -- `cvt`: converted lanes of the target tag
  | quant (colour iter : BitVec 8) (ls : List W32)                       -- `cvtq`: input lanes, widened exactly to FP32
  | scaled (scale : Option (BitVec 16)) (left : Nat) (waiting : List (BitVec 8 × BitVec 8 × BitVec 3 × W32))
      (colour iter : BitVec 8) (tag : BitVec 3) (out : List W32)   -- `cvts`: scale, lanes left of it, waiting lanes
                                                                   -- with their tag, output lanes held
  deriving DecidableEq, Repr

/-- A tuple of a front (R165). -/
structure Tuple where
  keys : List (BitVec 16)
  payload : Val
  deriving DecidableEq, Repr

/-- A configured front (R164). -/
structure FrontConfig where
  kt : Bool
  nk : Nat
  dir : BitVec 4
  cap : Nat
  keepAll : Bool
  ovf : BitVec 2
  ext : Nat
  deriving DecidableEq, Repr

/-- A front of one context (R36, R164–R171): tuples in the order of insertion, and the words of the tuple that `fmrg`
is building. -/
structure Front where
  config : Option FrontConfig
  tuples : List Tuple
  ovf : Bool
  nan : Bool
  building : List Val
  deriving DecidableEq, Repr

/-- A front that nothing has configured (R164). -/
def Front.reset : Front := { config := none, tuples := [], ovf := false, nan := false, building := [] }

/-- The tag of a firing (R15). -/
structure FireTag where
  colour : BitVec 8
  iter : BitVec 8
  slot : BitVec 4
  deriving DecidableEq, Repr

/-- What holds a firing at its op word. -/
inductive FireWait where
  | none
  | miss (tag : BitVec 16)     -- a stalled access (R143)
  | proofFull                  -- R225
  | publish                    -- `bndry.sys` waits for the next commit (R227)
  deriving DecidableEq, Repr

/-- A firing: running, or suspended on a plane array (R15–R17, R115, R150, R162). -/
structure Firing where
  ctx : Nat
  actor : Nat                  -- actor of the instance
  hdr : Nat                    -- header index on the node
  seq : Nat                    -- count of the actor's firings started before it (R194)
  pc : Nat                     -- slot of the next op word
  tag : FireTag
  operands : Quad (List Token) -- consumed tokens per port, oldest first
  heads : Quad Nat             -- which of them a read sees (R115)
  emitted : Quad Nat           -- tokens emitted per output (R17)
  itin : Option (BitVec 8)     -- the iteration its first `itin` took (R131)
  itnext : Option (BitVec 8)   -- the iteration its first `itnext` retired (R131)
  itout : Option (BitVec 8)    -- the iteration its first `itout` retired (R131)
  progress : Nat               -- steps of the op word in hand that are done
  lanes : List W32             -- decoded row lanes an `mm` has drawn for the row in progress, as tag ++ bits
  rows : Nat                   -- rows an `mm` has finished
  latched : List Token         -- what the op word in hand read when it began; it reads each operand once (R115)
  pending : List (Nat × Token) -- tokens a converter's op word has still to emit, with their outputs (R244)
  wait : FireWait
  invalid : Bool               -- a wake said Invalid (R307)
  ready : Nat                  -- cycle at which it became ready (R245)
  deriving DecidableEq, Repr

/-- What a node keeps for one context (R31, R33, R36, R116, R118, R135, R137, R150, R310). -/
structure NodeCtx where
  slots : Vector W32 16        -- op words (R31)
  headers : Quad (Option (W32 × BitVec 16))   -- header and extent (R70, R71)
  keeps : Quad Val
  queues : Quad (List QToken)
  params : Quad (Quad (Option QToken))   -- per header index and port: the token that a parameter port holds (R116)
  counters : Quad W32          -- firing counters (R31)
  stopped : List Nat           -- header indexes stopped by a report (R118)
  omerge : Quad Nat            -- per header index: firings of the cycle done, in0's first (R135)
  rings : List Ring
  inject : Quad (List (Nat × NodeId × Item))   -- per output: what waits to enter the fabric, with its actor and the node that
                               -- emitted it, in whose inject buffer it stands (R244)
  roomAt : Quad (Quad Nat)     -- per output and rate 1 to 4: the cycle since which its buffer has room for that rate (R244, R245)
  belled : List Nat            -- edges by which the bellwether of the cut in progress has arrived (R310)
  saved : Bool                 -- the node has saved for the cut in progress
  channel : List (Nat × Token) -- channel state of cycle ports (R310)
  held : Quad (List Token)     -- AG: held-address buffer (R33)
  faults : W32                 -- AG: fault counter (R33)
  group : Group                -- CV
  front : Front                -- FE
  records : Quad (Option (Nat × Nat))  -- PA: store record (TS offset, Q code) of ws0 and ws1 (R154)
  saveSlot : Nat               -- PA: TS offset of the save slot (R156)
  deriving DecidableEq, Repr

/-- A context that holds nothing (R31: keep registers 0 with tag 0). -/
def NodeCtx.reset : NodeCtx :=
  { slots := Vector.replicate 16 0, headers := Quad.all none, keeps := Quad.all ⟨0, 0⟩, queues := Quad.all [],
    params := Quad.all (Quad.all none), counters := Quad.all 0, stopped := [], omerge := Quad.all 0, rings := [], inject := Quad.all [], roomAt := Quad.all (Quad.all 0), belled := [],
    saved := false, channel := [], held := Quad.all [], faults := 0, group := .none, front := Front.reset,
    records := Quad.all none, saveSlot := 0 }

/-- A weight store: image bytes as loaded, TS offset, Q code, owner context (R34, R154). -/
structure WeightStore where
  bytes : List Byte
  img : Nat
  q : Nat
  owner : Nat
  deriving DecidableEq, Repr

/-- An accumulator bank: 64 rows of 128 entries in row order, FP32 or INT48 (R34, R154, R159). An entry is 48 bits; an
FP32 entry stands in its low 32. -/
structure Bank where
  int48 : Bool
  owner : Option Nat
  entries : List (BitVec 48)   -- an entry beyond the list is 0
  deriving DecidableEq, Repr

/-- A node with the units its contexts share (R16, R33, R34, R245). -/
structure Node where
  ctxs : Quad NodeCtx
  running : Option Firing
  suspended : List Firing      -- PA (R150, R162)
  last : Nat                   -- context that last started a firing (R245; reset: log entry 10)
  retries : W32                -- AG: retry counter (R33)
  ws0 : Option WeightStore
  ws1 : Option WeightStore
  acc0 : Bank
  acc1 : Bank
  deriving DecidableEq, Repr

/-- A bank that nobody owns (R154). -/
def Bank.reset : Bank := { int48 := false, owner := none, entries := [] }

/-- A node after zeroisation. -/
def Node.reset : Node :=
  { ctxs := Quad.all NodeCtx.reset, running := none, suspended := [], last := 3, retries := 0, ws0 := none, ws1 := none,
    acc0 := Bank.reset, acc1 := Bank.reset }

/-- A tile (R32, R249): matching store, copies of lo with the changes on their way, switch words, edge counters. -/
structure Tile where
  store : List StoreEntry
  lo : Assoc (Nat × Nat) (BitVec 8)          -- (context, colour)
  loComing : List ((Nat × Nat) × BitVec 8)   -- oldest first (R249)
  switch : Quad (List (BitVec 16))           -- R32, R73
  counters : Assoc (Nat × Nat) W32           -- (context, route): tokens passed in the rate window (R32)
  deriving DecidableEq, Repr

/-- A tile after zeroisation. -/
def Tile.reset : Tile := { store := [], lo := [], loComing := [], switch := Quad.all [], counters := [] }

/-! ### Streams, edges, engines -/

/-- Where a stream stands (R97–R101). -/
inductive StreamState where
  | group | held | live | drained | stopped | cancelled
  deriving DecidableEq, Repr

/-- A stream (R97): the cursor counts the points injected or written (R309). -/
structure Stream where
  inst : Nat
  sheet : Nat
  ctx : Nat
  inbound : Bool
  port : Nat
  bank : Nat
  desc : Desc
  cursor : Nat
  ahead : List W32             -- words of the next points of an inbound stream, read and not yet injected (R98)
  state : StreamState
  stall : Option (BitVec 16)
  invalid : Bool
  deriving DecidableEq, Repr

/-- One end of an edge (R53, R222). -/
inductive EdgeEnd where
  | actor (a port : Nat)       -- output or input of actor a of the instance
  | wide (sheet port : Nat)
  deriving DecidableEq, Repr

/-- An edge of an instance, with what is on its way (R222): behind a rewiring, `next` holds what came on the new
route before the slug was taken (R223); and its way: the sheets and tiles at whose switches its tokens pass (R32, R73, R355). -/
structure Edge where
  src : EdgeEnd
  dst : EdgeEnd
  laid : List (Nat × Nat)      -- the way that the image's switch words give it between its actors' places in the image
  way : List (Nat × Nat)       -- the way now
  hops : List (Nat × Nat × Nat)        -- sheet, tile and activity event of the switch hops on the way that no other edge of its
                               -- source has made for the same token (R73, R262)
  cycle : Bool                 -- its port lies on a cycle of the graph (R310)
  items : List Item
  next : List Item
  rewiring : Option Nat        -- the layout change whose slug the receiver still waits for
  passed : Nat
  deriving DecidableEq, Repr

/-- An engine operation (R173–R180). -/
structure EngineOp where
  inst : Nat
  tenant : Nat
  sheet : Nat
  ctx : Nat
  engine : Nat                 -- index of the engine of its class on the die
  die : Nat
  flits : List Word
  arrived : Option Nat         -- its place among the messages that engines have admitted, once it has arrived (R173, R290)
  started : Bool
  progress : Nat               -- units done, in the operation's own unit
  moved : Nat                  -- bytes of output written; of an atomic, the old value (R180)
  stage : List Byte            -- what has been read or computed and not yet written (R207)
  index : Option Nat           -- the index word of the element in hand (R177)
  status : Option (BitVec 4)   -- the status it ends with, once decided
  stall : Option (BitVec 16)
  invalid : Bool
  afterCommit : Bool           -- it starts after the first commit that follows its `amsg`, and its writes are not held (R228)
  released : Bool              -- that commit has been made
  stick : List W32             -- the stick a compositor has read (R178)
  cut : Nat                    -- number of cuts of its phase begun when it was issued
  prev : Option Nat            -- the operation its thread issued before it to the same engine (R77)
  deriving DecidableEq, Repr

/-! ### Formes -/

/-- The image of a forme for one accepted n, as the packets and routes it holds (R11, R14, R74, R75; container: log
entry 5): chase size, resource pattern, configuration packets (header and flits), sheets with code, routes, actors with
their numbers in the order of their headers, colour regions. -/
structure ImageActor where
  number : Nat
  cls : NodeClass
  sheet : Nat                  -- chase-relative index
  tile : Nat
  elem : Nat
  hdr : Nat
  deriving DecidableEq, Repr

/-- A route of the image between chase-relative ends (R53). -/
structure ImageRoute where
  src : EdgeEnd
  dst : EdgeEnd
  cycle : Bool
  deriving DecidableEq, Repr

/-- What a forme asks of one sheet of its chase (R12, R13). -/
structure SheetNeed where
  sheet : Nat
  span : Bool                  -- a Span port, otherwise HBM
  side : Nat
  deriving DecidableEq, Repr

/-- One accepted n of a forme. -/
structure ImageVariant where
  n : Nat
  w : Nat
  h : Nat
  packets : List (Word × List Word)
  code : List Nat              -- chase-relative sheets that hold sequencer code (R29)
  actors : List ImageActor
  routes : List ImageRoute
  regions : List (Nat × List Nat)   -- colour and the actors of its region (R22)
  deriving DecidableEq, Repr

/-- A forme image (R12, R26). -/
structure Image where
  pinned : Bool
  crossDie : Bool
  needs : List SheetNeed
  variants : List ImageVariant
  bytes : Nat                  -- its size, for `fload`'s room (R110)
  deriving DecidableEq, Repr

/-- What waits behind a clone set for its turn: a token of an output (R224), or the end of a block of a SCAN set with the last
local prefix of its member (R199, R234). -/
inductive SetItem where
  | out (k : Nat) (t : Token) (since : Nat)
  | block (p : Val)
  deriving DecidableEq, Repr

/-- The item is a token of an output. -/
def SetItem.isOut (x : SetItem) : Bool :=
  match x with
  | .out _ _ _ => true
  | .block _ => false

/-- An actor of an instance as laid out (R26, R28, R194, R199, R234, R265–R268). -/
structure Actor where
  number : Nat
  home : NodeId                -- its place in the image
  header : W32
  extent : BitVec 16
  members : List NodeId        -- clone 0 first; one member when it is not cloned
  started : Nat                -- firings started (R194)
  base : Nat                   -- firings started when the set's membership last changed
  replicas : List (Nat × List NodeId)   -- per wide colour: replica 0 first (R22)
  active : List Nat            -- seq of firings in progress
  outs : List (Nat × SetItem)  -- what waits for its turn behind the set, with the firing it came from (R224, R234)
  dealt : Nat                  -- firings of the splitters that have been charged for the firing due next (R224, R241)
  carry : Option Val           -- register C of a cloned SCAN actor (R199)
  eventWindow : Option Nat     -- rate window of its last event (R266)
  lowWindows : Nat             -- windows in a row at or below L (R267)
  firedAt : Nat                -- started at the start of the rate window
  inOcc : Quad Nat             -- occupancy of each port summed over the window (R265)
  folded : Option (NodeId × Nat)  -- of a folded actor: the element it came from and the actor it joined (R268)
  deriving DecidableEq, Repr

/-- An entry of the layout log (R28, R111). -/
structure LogEntry where
  time : Word
  tokens : Word
  after : NodeId
  before : NodeId
  actor : BitVec 16
  member : BitVec 3
  kind : BitVec 8
  version : W32
  deriving DecidableEq, Repr

/-- A call frame (R132). -/
structure Frame where
  colour : BitVec 8
  iter : BitVec 8
  link : W32
  deriving DecidableEq, Repr

/-- A width change asked for and not yet in effect, with what its result token carries (R130). -/
structure WidthChange where
  target : BitVec 8            -- the colour whose width changes
  width : Option Nat           -- the width requested; none for `ctxfree`
  seq : Nat                    -- the firing that asked: its tokens leave before the result token
  actor : Nat
  out : Nat
  slot : BitVec 4
  colour : BitVec 8
  iter : BitVec 8
  deriving DecidableEq, Repr

/-- The forme state a cut saves (R311): layout and its version, colour pool and frames, widths, rank. -/
structure FormeState where
  actors : Assoc Nat Actor
  layver : W32
  frames : Assoc Nat Frame     -- by colour: the colours `tcall` has taken
  widths : Assoc Nat Nat       -- granted widths above 1 (R22)
  widthChanges : List WidthChange
  rank : BitVec 16
  deriving DecidableEq, Repr

/-- A layout event on its way (R27, R223). -/
structure Change where
  id : Nat
  kind : BitVec 8              -- 0 clone, 1 unclone, 2 fold, 3 unfold
  actor : Nat
  before : NodeId
  after : NodeId
  other : Nat                  -- of a fold: the actor it joins
  deriving DecidableEq, Repr

/-- A report to the base thread (R301, R302, R305). -/
structure Report where
  kind : BitVec 8
  src : BitVec 4
  sub : BitVec 8
  sheet : Nat
  tile : Nat
  elem : Nat
  ctx : Nat
  slot : BitVec 4
  tval : Word
  record : List Byte           -- the 32 bytes of STALL, else empty (R257)
  node : Option (NodeId × Nat) -- the node and header that take firings again from the thaw (R118)
  discard : Option Token       -- the duplicate discarded when the report closes (R321)
  deriving DecidableEq, Repr

/-- What a cut saves of one node's context (R311). -/
structure NodeSave where
  node : NodeId
  saved : NodeCtx
  store : List StoreEntry      -- its entries of the matching store
  retries : W32
  acc0 : Option Bank
  acc1 : Option Bank
  running : Option Firing      -- a PA saves between rows: the `mm` in progress with the lanes drawn
  suspended : List Firing
  slotBytes : List (Nat × List Byte)  -- save slots of valid records, by TS offset (R161)
  deriving DecidableEq, Repr

/-- What a cut saves of one sheet (R311, R318). -/
structure SheetSave where
  sheet : Nat
  thread : Thread
  spill : List Word
  popBuffer : List Byte
  windows : Assoc Nat Window
  queues : Assoc Nat Queue
  rings : List (Nat × List Byte)   -- ring bytes of galleys in SS, by queue
  keep : List (Nat × List Byte)    -- keep ranges by memory location
  deriving DecidableEq, Repr

/-- A save area (R312): header and body. -/
structure Area where
  time : Word
  cut : Nat
  layver : W32
  crc : W32
  len : Nat                    -- of the body, in 64-byte units
  valid : Bool
  sheets : List SheetSave
  nodes : List NodeSave
  streams : Assoc Nat Stream
  forme : Option FormeState
  ops : List Nat               -- operations issued and held under R228
  wide : List (Nat × Nat × Token)      -- sheet, wide port and token: what came to a port ahead of the marker (log entry 61)
  rung : List Nat              -- edges by which the marker has come to a wide port (R313)
  incomplete : List Change     -- rewirings whose slugs were in flight: incomplete (R223)
  log : List LogEntry          -- the layout log with the events that the saved layout holds (R28, R223)
  deriving DecidableEq, Repr

/-- A placed forme instance (R12–R14, R28, R132, R225, R252, R255, R265, R305–R321). -/
structure Inst where
  slice : Nat
  tenant : Nat
  image : ImageVariant
  pinned : Bool
  base : Nat                   -- sheet index of the chase base
  w : Nat
  h : Nat
  n : Nat
  ctx : Nat
  forme : FormeState
  edges : Assoc Nat Edge
  regionMask : BitVec 256      -- R75 kind 0xC
  tcalls : List (NodeId × Nat × FireTag)       -- `tcall` firings waiting for a colour, oldest first (R252)
  grants : List (NodeId × Nat × FireTag × Nat) -- colours granted to waiting `tcall` firings: node, actor, tag, colour (R252)
  log : List LogEntry          -- oldest first (R28)
  overwritten : Nat
  changes : List Change        -- layout events decided and not yet taken
  keepRanges : List (Nat × Nat × Nat)  -- sheet, own-sheet scratch offset, size (R39, R47, R75)
  configured : List (Nat × Nat)        -- tiles whose configuration is complete (R11)
  cycle : Nat                  -- CYCLE (R37)
  held : Assoc Nat Byte        -- held writes by location (R225)
  heldLines : Assoc Nat Nat    -- 64-byte lines and the bulkhead whose proof buffer holds each
  late : Assoc Nat (Option Byte)       -- held bytes written after the injection of the cut in progress, with what that cut
                               -- commits there (R226, R231)
  cutsDone : Nat               -- cuts of this phase complete
  cutting : Option Area        -- the cut in progress, with what is saved so far
  cutWanted : Bool             -- a cut is requested and not begun
  cutClock : Nat               -- device time at which the 100 µs timer started (R308)
  areaA : Option Area
  areaB : Option Area
  rollbacks : Nat              -- rollbacks since a cut completed (R320)
  restoring : Bool             -- a rollback is between its steps 3 and 6
  dupSeen : List (NodeId × FireTag × Nat)   -- duplicates that have caused a rollback (R321)
  watchdog : Nat
  stalled : Bool               -- stopped under R257
  frozen : Bool
  reports : List Report        -- queued, oldest first
  together : Nat × Nat         -- the cycle of the latest detection, and how many queued reports were detected in it (R305)
  openReport : Option Report
  thawing : List Nat           -- sheets the thaw has not reached (R305)
  accepted : Option (Nat × Nat)        -- handle and n of the accepted `fplace` (R110)
  nextPhase : Option (Nat × Nat × List Word)         -- what `frun` committed: handle, n, %p0–%p7 (R110)
  window : Nat                 -- rate windows ended (R265)
  wideOcc : Assoc (Nat × Nat) Nat      -- tokens waiting at each wide port, summed over the window (R265)
  relaunched : Bool            -- cut 0 has been requested (R308)
  deriving DecidableEq, Repr

/-! ### Drover, tenants, bulkheads -/

/-- Where a slice stands (R237, R242). -/
inductive SliceState where
  | queued | placed | requeued
  deriving DecidableEq, Repr

/-- A job slice (R10, R19, R110, R237–R243, R339). -/
structure Slice where
  vf : Nat
  tenant : Nat
  die : Nat
  stamp : BitVec 16
  cookie : Word
  prio : BitVec 8
  deadline : Word
  work : Nat                   -- remaining work budget in units, granted units taken off (R242)
  workFree : Bool              -- no work budget
  energy : Nat                 -- ENERGYLEFT, nJ (R243)
  energyFree : Bool
  charged : Nat                -- work units charged (R241)
  energyUsed : Nat
  energyPart : Nat             -- what is charged below a whole nJ, in 0.25 pJ
  save : BitVec 48
  ptab : BitVec 48
  nph : Nat
  phase : Nat                  -- last table entry run, or the one to run
  phasesRun : Nat
  accepted : Nat               -- order of acceptance (R237)
  waitSince : Nat              -- device time since which it waits in the queue (R238)
  quantum : Nat                -- units used since its last placement (R239)
  sendBack : Bool              -- to be sent back at its next phase boundary (R239)
  handles : Assoc Nat Image    -- R110
  image : Option Image         -- of the phase to place
  n : Nat
  params : List Word
  rasBase : Word
  rasLim : Word
  inst : Option Nat
  state : SliceState
  heldForBudget : Bool
  lastCut : W32                -- last committed cut of the last phase (R303)
  rankTime : Nat               -- device time of the last rank write (R19)
  draining : Bool              -- a phase change waits for its conditions
  deriving DecidableEq, Repr

/-- The states of R276. -/
inductive BhState where
  | free | active | switching | reset | retired
  deriving DecidableEq, Repr

/-- What goes on in a bulkhead between its states (R276, R285, R288, R294). -/
inductive BhBusy where
  | no
  | releasing                  -- no new phase; FREE once every phase has ended
  | sliceEnded                 -- the holder's slice has expired (R288)
  | parking | zeroisingNext | restoring
  | resetLine                  -- the reset line is held
  | zeroising                  -- zeroisation after a reset
  deriving DecidableEq, Repr

/-- What the hypervisor has asked of a bulkhead and its state does not allow yet (R276). -/
inductive BhAsk where
  | assign (tenant : Nat)
  | release                    -- of the bulkhead as a whole
  | leave (tenant : Nat)       -- a tenant's bit in its bulkhead set is cleared (R272)
  | reset (free : Bool)        -- with or without a release (R294)
  deriving DecidableEq, Repr

/-- What a parked tenant left on a shared bulkhead (R289): the bytes of its scratch stand in its park area in DM; of its queues and
forme images, this. -/
structure Park where
  tenant : Nat
  base : Nat                   -- where its image starts in DM
  queues : List (Nat × Assoc Nat Queue)
  images : Assoc Nat Image     -- forme images in its DS bank (log entry 5)
  deriving DecidableEq, Repr

/-- A sensor (R353): its last reading, samples without change, samples good in a row since it was dropped. -/
structure Sensor where
  reading : Int
  unchanged : Nat
  valid : Bool
  good : Nat
  energy : Nat                 -- estimated energy when the reading last changed
  deriving DecidableEq, Repr

/-- A sensor at power-up: valid (log entry 23). -/
def Sensor.reset : Sensor := { reading := 0, unchanged := 0, valid := true, good := 0, energy := 0 }

/-- A bulkhead (R274–R289, R294, R353). -/
structure Bulkhead where
  state : BhState
  tag : BitVec 7
  nextTag : BitVec 7           -- the tag it gets when its zeroisation is done; 0 makes it FREE (R276, R281)
  mhz : BitVec 10
  degraded : Bool
  shared : Bool
  windows : List (BitVec 16)   -- four entries (R282)
  windowWrites : List (Nat × BitVec 16)   -- entry writes that wait for a phase boundary (R282)
  busy : BhBusy
  free : Bool                  -- the reset came with a release
  relocking : Bool             -- its PLL relocks: no cycle passes (R285)
  rotation : List Nat          -- tenants of a shared bulkhead, in the order in which they were assigned (R287)
  phaseEnded : Nat             -- device time at which the last phase on it ended (R288)
  sliceEnd : Nat
  parked : List Park
  temps : List Sensor
  currents : List Sensor
  validFor : Nat               -- samples with two valid sensors (R353)
  hot : Bool
  capFactor : Nat              -- 1,024ths of the scale of R352
  corrected : Nat              -- single-bit errors corrected (R325)
  started : Bool               -- it has come up (R351)
  rail : Nat                   -- its supply rail in mV, 0 when it is off (R2, R274)
  asks : List BhAsk            -- what waits until the state allows it, oldest first (R276)
  deriving DecidableEq, Repr

/-- A bulkhead before bring-up (R275). -/
def Bulkhead.reset : Bulkhead :=
  { state := .free, tag := 0, nextTag := 0, mhz := 700, degraded := false, shared := false, windows := [0, 0, 0, 0],
    windowWrites := [], busy := .no, free := false, relocking := false, rotation := [], phaseEnded := 0, sliceEnd := 0,
    parked := [], temps := List.replicate 3 Sensor.reset, currents := List.replicate 3 Sensor.reset, validFor := 0,
    hot := false, capFactor := 1024, corrected := 0, started := false, rail := 400, asks := [] }

/-- An event record that waits for its ring (R345): doubleword 0 without the phase, then B, C. -/
structure EventRec where
  kind : BitVec 8              -- type
  fault : BitVec 7
  tag : BitVec 16
  a : W32
  b : Word
  c : Word
  deriving DecidableEq, Repr

/-- A completion record that waits (R343): all but the phase and the time. -/
structure Completion where
  stamp : BitVec 16
  nphr : BitVec 8
  dmiss : Bool
  status : BitVec 4
  reason : BitVec 8
  kind : BitVec 8
  code : BitVec 16
  cut : W32
  energy : Word
  work : Word
  time : Word
  cookie : Word
  inst : Nat                   -- the instance of its last phase, whose engine operations must have joined (R232, R344)
  deriving DecidableEq, Repr

/-- TDISP states of a TDI (R299). -/
inductive Tdi where
  | unlocked | locked | run | error
  deriving DecidableEq, Repr

/-- The registers of a VF and what the drover keeps for it (R338, R341, R344, R345). -/
structure Vf where
  lrBase : Word
  lrSize : Word
  lrHead : Word
  lrTail : Word                -- the recorded tail of KICK
  expect : BitVec 16
  tries : Nat                  -- failed reads of the slot in hand (R341)
  crBase : Word
  crSize : Word
  crTail : Word
  crHead : Word
  crPhase : Bool
  erBase : Word
  erSize : Word
  erTail : Word
  erHead : Word
  erPhase : Bool
  tlbinv : Word
  ringIgnored : Bool           -- STATUS[1]
  kickIgnored : Bool           -- STATUS[5]
  completions : List Completion
  events : List EventRec
  signals : List Nat           -- vectors not signalled yet, since no link is up (R344, R345)
  tdi : Tdi
  deriving DecidableEq, Repr

/-- VF registers at reset (R338; expected stamp and phases: log entry 10). -/
def Vf.reset : Vf :=
  { lrBase := 0, lrSize := 0, lrHead := 0, lrTail := 0, expect := 1, tries := 0, crBase := 0, crSize := 0, crTail := 0,
    crHead := 0, crPhase := true, erBase := 0, erSize := 0, erTail := 0, erHead := 0, erPhase := true, tlbinv := 0,
    ringIgnored := false, kickIgnored := false, completions := [], events := [], signals := [], tdi := .unlocked }

/-- What waits for a wake token: who, and whether its launch still runs (R307). -/
inductive Staller where
  | thread (sheet ctx : Nat)
  | ag (n : NodeId)
  | stream (id : Nat)
  | engine (op : Nat)
  deriving DecidableEq, Repr

/-- A fault tag outstanding (R307, R338): answered once a verdict has been written. -/
structure FaultTag where
  vf : Nat
  tenant : Nat
  addr : Nat                   -- the address of the access
  who : Staller
  answered : Option Bool       -- some true: Mapped, some false: Invalid
  deriving DecidableEq, Repr

/-- A cached translation of a 64 KiB page of a tenant (R337): the leaf that maps it and the page's first location. -/
structure Cached where
  tenant : Nat
  vpage : Nat
  base : Nat
  leaf : Word
  deriving DecidableEq, Repr

/-- A fault at a node (R319): a machine check or a parity error, when, and the instances whose replay has not reached a cut. -/
structure NodeFault where
  site : FaultSite
  check : Bool
  time : Nat
  replay : List Nat
  deriving DecidableEq, Repr

/-- What the drover keeps (R258, R261, R272, R273, R280, R292, R293, R307, R328, R335, R348). -/
structure Drover where
  records : Assoc Nat (BitVec 512)
  recordWrites : List (Nat × BitVec 512 × BitVec 512)   -- writes that wait for a phase boundary (R273): tenant, the bits
                                             -- written, and their values
  frames : Assoc Nat Byte
  filters : Assoc Nat (BitVec 128)
  buckets : Assoc Nat Nat                    -- what each entry's bucket lacks, a record counted as 10^6 (R293)
  bindings : Assoc (Nat × Nat) W32           -- Span bindings (R348)
  routes : Assoc Nat (BitVec 16)             -- Span routes (R335)
  meters : Assoc (Nat × Nat) (BitVec 16)     -- ceiling meters (R261)
  slotOwners : Assoc (Nat × Nat × Nat) (BitVec 16)   -- router, direction, slot (R258)
  portOwners : Assoc (Nat × Nat) (BitVec 16)         -- controller slot tables (R261)
  slotsComing : Option (Assoc (Nat × Nat × Nat) (BitVec 16) × Assoc (Nat × Nat) (BitVec 16))   -- both tables as the
                                             -- drover has written them, in effect from the next frame (R258, R261)
  tags : Assoc Nat FaultTag                  -- by fault tag
  lastTag : Nat                              -- the fault tag given last (R338)
  cached : List Cached
  quanta : Assoc Nat Nat                     -- quantum per priority class (R239)
  served : Assoc (Nat × Nat × Nat) Nat       -- per engine: the tenant it has admitted a message of last (R290)
  backfill : List Nat                        -- heads of the queue that have waited 50 µs (R238)
  launched : List Nat                        -- tenants of which a launch has been placed since they were admitted (R285)
  lastVf : Nat                               -- the VF whose launch ring was served last (R291)
  nodeFaults : List NodeFault                -- R319
  unitFaults : Assoc SharedUnit (List Nat)   -- shared units: times in ns of their faults (R319, R328, R347)
  disabledEngines : List (Nat × Nat × Nat)   -- class, die, index (R328)
  disabledPorts : List Nat                   -- Span ports (R328)
  disabledRouters : List Nat
  disabledLinks : List (Nat × Nat)
  accepted : Nat                             -- launches accepted so far (R237)
  deriving DecidableEq, Repr

/-- How a host access completes (R334). -/
inductive HostStatus where
  | data (bs : List Byte) | done | ur | ca | poisoned (bs : List Byte)
  deriving DecidableEq, Repr

/-- Boot of the package (R351). -/
inductive Boot where
  | off | recovery | running
  deriving DecidableEq, Repr

/-- A sensor or message answer of the device to the outside: what has been sent, newest last. -/
inductive Sent where
  | msix (fn vector link : Nat)                                  -- R344, R345
  | host (st : HostStatus)                                       -- R334
  | register (v : Word)                                          -- a register read
  | config (retry : Bool)                                        -- R351
  | cap (seq cap : Nat)                                          -- R352
  | measurements (index : Nat) (value : BitVec 512) (s1 s2 : Word)   -- R298
  | refused                                                      -- a request that is not answered with data
  | pldmBase (types : List Nat)                                  -- R354
  | sensor (value : Int)
  | pldmFirmware (accepted : Bool)
  | tdisp (st : Tdi)
  | span (pkg own : BitVec 12) (tag rtag : BitVec 7) (op : SpanOp)   -- a link-engine request sent (R180, R348) with the sender's
                                                               -- package and tag; of a put, one block (R349)
  | forward (port : Nat) (r : SpanRequest)                       -- a request for another package, on by the route table (R347)
  | spanReply (status : BitVec 4) (count : Nat) (blocks : List Byte)    -- an answer to a request of another package
  | wake (tag : BitVec 16)                                       -- a wake token on its way
  | down (link : Nat)                                            -- the VFs of a host link, to the hypervisor (R328)
  | isolation (line : Nat) (tag agent : Nat)                     -- an isolation event to the hypervisor (R279)
  deriving DecidableEq, Repr

/-- A memory expander (R346): its CXL port, which of the two behind it, its first FM frame and its count of frames. -/
structure Expander where
  port : Nat
  half : Nat
  first : Nat
  frames : Nat
  deriving DecidableEq, Repr

/-- A packet on its way (R347): its number, the link-engine operation it is of, the port, the virtual channel that carries it, and of
one that only passes through this package, the package that is answered where it cannot be delivered. -/
structure Packet where
  id : Nat
  op : Option Nat
  port : Nat
  vc : Nat
  origin : Option Nat
  deriving DecidableEq, Repr

/-- A host request that waits for a held line, or behind a write that counts as made before it (R226, R333). -/
inductive HostRequest where
  | read (fn bar off size : Nat) (path : HostPath)
  | write (fn bar off : Nat) (data : List Byte) (path : HostPath)
  | atomic (fn bar off size : Nat) (op : HostAtomicOp) (operand compare : Word) (path : HostPath)
  deriving DecidableEq, Repr

/-- The package as the world sees it (R297, R325, R326, R332, R335, R346, R351–R354). -/
structure Package where
  boot : Boot
  perst : Bool                 -- PERST# has been deasserted
  linkUp : List Bool           -- the two host links (R332)
  images : List FirmwareImage  -- the running images
  nextImages : List FirmwareImage   -- verified, activated at the next device reset (R354)
  fuse : Option Nat            -- the fused counter once an image has raised it (R297)
  replace : Bool               -- HEALTH[0]
  retired : List Nat           -- bulkheads retired
  pferr : Word
  resident : List Nat          -- FM frames resident (R346)
  expander : List Expander     -- the expanders attached, at most two behind each of two ports (R280, R346)
  capSeq : Nat
  cap : Option (Nat × Nat)     -- an accepted cap in watts and the device time its horizon ends (R352)
  poisoned : List Nat          -- 256-byte lines of DM and FM (R326)
  faulty : List (Nat × Bool)   -- 256-byte lines with an uncorrectable error that nothing has read yet, and whether the
                               -- line's read-back would fail (R326)
  met : List (Nat × Bool)      -- those that an agent has read and that are still to be treated as lost (R326)
  stackErrors : Assoc Nat Nat  -- errors corrected per HBM stack 0-11 and CXL port 12-13 (R325)
  lostStacks : List Nat
  lostFm : List (Nat × Nat)         -- FM frames behind a lost expander: first and count (R328)
  retries : Assoc (Nat × Nat × Nat) Nat   -- flit retries per port, operation and flit (R347)
  packets : List Packet        -- packets on their way, in order (R347)
  escaped : List Nat           -- packets moved to VC 3 (R347)
  hostWaits : List HostRequest -- host requests that wait, oldest first (R226, R333)
  msix : Assoc (Nat × Nat) Byte     -- MSI-X tables: function, offset (R332, R334)
  sent : List Sent
  deriving DecidableEq, Repr

/-! ### The whole -/

/-- The arrays of R279 that no address names. -/
inductive SramArray where
  | proof | store | slots | headers | keeps | switch | weights | banks | tuples | queues
  deriving DecidableEq, Repr

/-- A 256-byte line of one of these arrays, as far as the model tells them apart (log entry 130): of a sheet, the array and the unit of
the sheet whose part of it the line holds, a node's or tile's number or a queue's. -/
structure SramLine where
  sheet : Nat
  array : SramArray
  part : Nat
  deriving DecidableEq, Repr

/-- Who moves next. The model is one deterministic machine: the order in which the units of the device act is data of
its state (log entry 1). -/
inductive Turn where
  | issue (sheet : Nat)                -- the sequencer of the sheet issues one instruction (R84, R246)
  | node (n : NodeId)                  -- the node runs its next op word, or starts a firing (R17)
  | event (i : Instr)                  -- an event happens
  | transit (n : NodeId) (ctx out : Nat)   -- what waits first at an output enters the fabric (R222, R244)
  | time (ns cycles : Nat)             -- time passes
  deriving DecidableEq, Repr

/-- The device. -/
structure State where
  mem : Memory
  images : Assoc Nat Image             -- forme images in memory, by location of their first byte (log entry 5)
  sheets : Assoc Nat Sheet
  tiles : Assoc (Nat × Nat) Tile       -- sheet index, tile index
  nodes : Assoc NodeId Node
  streams : Assoc Nat Stream
  ops : Assoc Nat EngineOp
  insts : Assoc Nat Inst
  slices : Assoc Nat Slice
  bulkheads : Assoc Nat Bulkhead
  ownerTags : Assoc Nat (BitVec 7)     -- 256-byte lines whose tag is not their bulkhead's (R279)
  arrayTags : Assoc SramLine (BitVec 7)   -- the same of the other arrays of a bulkhead (R279)
  vfs : Assoc Nat Vf
  drover : Drover
  package : Package
  time : Nat                           -- device time, ns (R8)
  cycle : Nat                          -- fabric cycles since power-up, for arrival order
  curSheet : Nat                       -- the thread or node that acts (the model's own)
  curCtx : Nat
  curNode : NodeId
  agenda : List Turn                   -- the model's own
  free : Nat                           -- counter of free values (the model's own, log entry 2)
  nextId : Nat                         -- next number for a stream, operation, instance, slice or layout change
  deriving DecidableEq, Repr

/-- Why a run stops with a fault. -/
inductive Fault where
  | noSuchUnit                         -- raised by `step` where the agenda names a sheet, context or node that the
                                       -- package does not have (R9); safe: it only stops a run
  deriving DecidableEq, Repr

/-- Why a run stops with a refusal. -/
inductive Refusal where
  | notModelled (mnemonic : String)    -- raised by an arm of `exec` without a meaning; safe
  deriving DecidableEq, Repr

/-- The drover at reset (R273, R280, R292, R258, R348: tables 0). -/
def Drover.reset : Drover :=
  { records := [], recordWrites := [], frames := [], filters := [], buckets := [], bindings := [], routes := [],
    meters := [], slotOwners := [], portOwners := [], slotsComing := none, tags := [], lastTag := 65535, cached := [], quanta := [],
    served := [], backfill := [], launched := [], lastVf := 95,
    nodeFaults := [], unitFaults := [], disabledEngines := [], disabledPorts := [], disabledRouters := [],
    disabledLinks := [], accepted := 0 }

/-- The package before power-good (R335, R351, R352; the last accepted seq before any message, DESIGN CHOICE, log entry 10). -/
def Package.reset : Package :=
  { boot := .off, perst := false, linkUp := [false, false], images := [], nextImages := [], fuse := none,
    replace := false, retired := [], pferr := 0, resident := [], expander := [], capSeq := 0, cap := none,
    poisoned := [], faulty := [], met := [], stackErrors := [], lostStacks := [], lostFm := [], retries := [], packets := [], escaped := [],
    hostWaits := [], msix := [], sent := [] }

/-- The machine right after reset: nothing listed, every register at its reset value (R31–R37, R273–R282, R335, R338). -/
def State.reset : State :=
  { mem := [], images := [], sheets := [], tiles := [], nodes := [], streams := [], ops := [], insts := [],
    slices := [], bulkheads := [], ownerTags := [], arrayTags := [], vfs := [], drover := Drover.reset, package := Package.reset,
    time := 0, cycle := 0, curSheet := 0, curCtx := 0, curNode := ⟨.element, 0, 0, 0⟩, agenda := [], free := 0,
    nextId := 1 }

end Sys2Proof.Machine
end

