-- ==== Sys2Proof/Machine/Data.lean ====
section
/-! DEFINITION. Lists keyed by number, bytes and words, and memory as one list in canonical form: reading and writing,
little-endian everywhere (R7). -/

namespace Sys2Proof.Machine

/-! ### Keyed lists -/

/-- The value at a key, if it is listed. -/
def aget? {κ α : Type} [DecidableEq κ] (l : Assoc κ α) (k : κ) : Option α :=
  match l with
  | [] => none
  | (k', v) :: r => if k = k' then some v else aget? r k

/-- The value at a key, `d` where it is not listed. -/
def agetD {κ α : Type} [DecidableEq κ] (l : Assoc κ α) (k : κ) (d : α) : α := (aget? l k).getD d

/-- The list with the value at one key replaced or added. -/
def aset {κ α : Type} [DecidableEq κ] (l : Assoc κ α) (k : κ) (v : α) : Assoc κ α :=
  match l with
  | [] => [(k, v)]
  | (k', v') :: r => if k = k' then (k, v) :: r else (k', v') :: aset r k v

/-- The list without a key. -/
def adel {κ α : Type} [DecidableEq κ] (l : Assoc κ α) (k : κ) : Assoc κ α := l.filter fun p => decide (p.1 ≠ k)

/-- The list with every value changed. -/
def amap {κ α : Type} (l : Assoc κ α) (f : κ → α → α) : Assoc κ α := l.map fun p => (p.1, f p.1 p.2)

/-! ### Bytes and words -/

/-- The number a list of bytes stands for, lowest address first (R7). -/
def leNat : List Byte → Nat
  | [] => 0
  | b :: r => b.toNat + 256 * leNat r

/-- The low n bytes of a number, lowest first (R7). -/
def natBytes (n v : Nat) : List Byte := (List.range n).map fun k => BitVec.ofNat 8 (v / 2 ^ (8 * k))

/-- The low n bytes of a word. -/
def wordBytes (n : Nat) (w : Word) : List Byte := natBytes n w.toNat

/-- The word of at most eight bytes, zero-extended. -/
def bytesWord (bs : List Byte) : Word := BitVec.ofNat 64 (leNat bs)

/-- Bits [lo + w − 1 : lo] of a number. -/
def bitsOf (v lo w : Nat) : Nat := v / 2 ^ lo % 2 ^ w

/-- The first n of a list, zero bytes after its end. -/
def padBytes (n : Nat) (bs : List Byte) : List Byte := (List.range n).map fun k => bs.getD k 0

/-! ### Memory -/

/-- The byte at a location; 0 where nothing is listed (R280, R281). -/
def Memory.get (m : Memory) (a : Nat) : Byte :=
  match m with
  | [] => 0
  | (b, v) :: r => if a = b then v else if a < b then 0 else Memory.get r a

/-- A location and a byte in front of a memory, unless the byte is zero. -/
def Memory.cons (a : Nat) (v : Byte) (m : Memory) : Memory := if v = 0 then m else (a, v) :: m

/-- Memory with the byte at one location replaced, in canonical form. -/
def Memory.set (m : Memory) (a : Nat) (v : Byte) : Memory :=
  match m with
  | [] => Memory.cons a v []
  | (b, w) :: r => if a < b then Memory.cons a v ((b, w) :: r)
      else if a = b then Memory.cons a v r
      else (b, w) :: Memory.set r a v

/-- The n bytes from a location on. -/
def Memory.read (m : Memory) (a n : Nat) : List Byte := (List.range n).map fun k => Memory.get m (a + k)

/-- Memory with the bytes from a location on replaced. -/
def Memory.write (m : Memory) (a : Nat) (bs : List Byte) : Memory :=
  match bs with
  | [] => m
  | b :: r => Memory.write (Memory.set m a b) (a + 1) r

/-- Every location of the list is above `lo`, strictly rising, and holds no zero byte. -/
def Memory.wfFrom (lo : Nat) (m : Memory) : Bool :=
  match m with
  | [] => true
  | (a, v) :: r => decide (lo ≤ a) && decide (v ≠ 0) && Memory.wfFrom (a + 1) r

/-- The canonical form: locations strictly rising, no zero byte. -/
def Memory.wf (m : Memory) : Bool := Memory.wfFrom 0 m

/-- Memory without the bytes of [first, last). -/
def Memory.clear (m : Memory) (first last : Nat) : Memory := m.filter fun c => decide (c.1 < first) || decide (last ≤ c.1)

end Sys2Proof.Machine
end

