-- ==== Sys2Proof/Machine/Fp.lean ====
section
/-! DEFINITION. Floating-point values computed exactly and rounded once, to nearest, ties to even (R122, R127, R182,
R183, R186–R188). A finite value is a sign, a natural number and a power of two; nothing here is approximate but the two
transcendental functions, which carry many more bits than their result keeps. -/

namespace Sys2Proof.Machine

/-- A decoded value: a finite one is (−1)^neg · m · 2^e, so that the two zeros stay apart (R182). -/
inductive FpNum where
  | nan
  | inf (neg : Bool)
  | fin (neg : Bool) (m : Nat) (e : Int)
  deriving DecidableEq, Repr

/-- A floating-point format (R182): widths of exponent and mantissa, bias, whether it has infinities, and the patterns of
its largest finite and its canonical NaN. -/
structure FpFormat where
  ebits : Nat
  mbits : Nat
  bias : Nat
  hasInf : Bool
  maxFinite : Nat
  nan : Nat
  deriving DecidableEq, Repr

def fp32 : FpFormat := ⟨8, 23, 127, true, 0x7F7FFFFF, 0x7FC00000⟩
def bf16 : FpFormat := ⟨8, 7, 127, true, 0x7F7F, 0x7FC0⟩
def fp16 : FpFormat := ⟨5, 10, 15, true, 0x7BFF, 0x7E00⟩
def e4m3 : FpFormat := ⟨4, 3, 7, false, 0x7E, 0x7F⟩
def e5m2 : FpFormat := ⟨5, 2, 15, true, 0x7B, 0x7E⟩

/-- Bits of a value of the format. -/
def FpFormat.width (f : FpFormat) : Nat := 1 + f.ebits + f.mbits

/-- The sign bit. -/
def FpFormat.sign (f : FpFormat) (v : Nat) : Bool := decide (bitsOf v (f.ebits + f.mbits) 1 = 1)

/-- The exponent of the least significant bit of a subnormal (R182). -/
def FpFormat.qmin (f : FpFormat) : Int := 1 - (f.bias : Int) - (f.mbits : Int)

/-- The value of a pattern (R182). -/
def FpFormat.decode (f : FpFormat) (v : Nat) : FpNum :=
  let mag := v % 2 ^ (f.ebits + f.mbits)
  let neg := f.sign v
  let ex := mag / 2 ^ f.mbits
  let mant := mag % 2 ^ f.mbits
  if f.maxFinite < mag then
    if f.hasInf && decide (mag = f.maxFinite + 1) then .inf neg else .nan
  else if ex = 0 then .fin neg mant f.qmin
  else .fin neg (2 ^ f.mbits + mant) (f.qmin + (ex : Int) - 1)

/-- m / 2^k rounded to nearest, ties to even (R186). -/
def rneShift (m k : Nat) : Nat :=
  let q := m / 2 ^ k
  let r := m % 2 ^ k
  if 2 ^ k < 2 * r ∨ (2 ^ k = 2 * r ∧ q % 2 = 1) then q + 1 else q

/-- m · 2^e as a whole number of units 2^q, rounded to nearest even. -/
def rneUnits (m : Nat) (e q : Int) : Nat :=
  if e ≥ q then m * 2 ^ (e - q).toNat else rneShift m (q - e).toNat

/-- Number of bits of m; 0 for 0. -/
def bitLen (m : Nat) : Nat := if m = 0 then 0 else Nat.log2 m + 1

/-- The magnitude pattern of m · 2^e rounded as if the exponent range were unbounded above (R186). -/
def FpFormat.roundMag (f : FpFormat) (m : Nat) (e : Int) : Nat :=
  if m = 0 then 0
  else
    let q := max ((bitLen m : Int) - 1 + e - (f.mbits : Int)) f.qmin
    rneUnits m e q + (q - f.qmin).toNat * 2 ^ f.mbits

/-- A pattern with its sign. -/
def FpFormat.signed (f : FpFormat) (neg : Bool) (mag : Nat) : Nat :=
  if neg then 2 ^ (f.ebits + f.mbits) + mag else mag

/-- What an overflow gives: the largest finite under `.sat`, else an infinity, or the NaN of a format that has none
(R147, R186). -/
def FpFormat.overflow (f : FpFormat) (sat neg : Bool) : Nat :=
  if sat then f.signed neg f.maxFinite
  else if f.hasInf then f.signed neg (f.maxFinite + 1)
  else f.nan

/-- The pattern of a value, rounded once (R122, R147, R186, R187). -/
def FpFormat.encode (f : FpFormat) (sat : Bool) (x : FpNum) : Nat :=
  match x with
  | .nan => f.nan
  | .inf neg => f.overflow sat neg
  | .fin neg m e =>
    let mag := f.roundMag m e
    if f.maxFinite < mag then f.overflow sat neg else f.signed neg mag

/-! ### Exact arithmetic -/

/-- The signed whole number a finite value is at a given unit not above its own. -/
def signedUnits (neg : Bool) (m : Nat) (e q : Int) : Int :=
  let v : Int := (m * 2 ^ (e - q).toNat : Nat)
  if neg then -v else v

/-- The value of a signed number of units; zero takes the sign given. -/
def ofUnits (v : Int) (q : Int) (zeroNeg : Bool) : FpNum :=
  if v = 0 then .fin zeroNeg 0 0 else .fin (decide (v < 0)) v.natAbs q

/-- Negation; a NaN stays a NaN. -/
def FpNum.neg : FpNum → FpNum
  | .nan => .nan
  | .inf n => .inf (!n)
  | .fin n m e => .fin (!n) m e

/-- The sum (R122): −0 only of two negative zeros. -/
def FpNum.add : FpNum → FpNum → FpNum
  | .nan, _ => .nan
  | _, .nan => .nan
  | .inf a, .inf b => if a = b then .inf a else .nan
  | .inf a, .fin _ _ _ => .inf a
  | .fin _ _ _, .inf b => .inf b
  | .fin a m e, .fin b n g =>
    let q := min e g
    ofUnits (signedUnits a m e q + signedUnits b n g q) q (a && b)

/-- The product (R122): an infinity times zero is a NaN. -/
def FpNum.mul : FpNum → FpNum → FpNum
  | .nan, _ => .nan
  | _, .nan => .nan
  | .inf a, .inf b => .inf (a != b)
  | .inf a, .fin b n _ => if n = 0 then .nan else .inf (a != b)
  | .fin a m _, .inf b => if m = 0 then .nan else .inf (a != b)
  | .fin a m e, .fin b n g => .fin (a != b) (m * n) (e + g)

/-- Less than, by value; false with a NaN. -/
def FpNum.lt : FpNum → FpNum → Bool
  | .nan, _ => false
  | _, .nan => false
  | .inf a, .inf b => a && !b
  | .inf a, .fin _ _ _ => a
  | .fin _ _ _, .inf b => !b
  | .fin a m e, .fin b n g =>
    let q := min e g
    decide (signedUnits a m e q < signedUnits b n g q)

/-- Equal, by value: −0 equals +0; false with a NaN (R125). -/
def FpNum.eq : FpNum → FpNum → Bool
  | .nan, _ => false
  | _, .nan => false
  | .inf a, .inf b => decide (a = b)
  | .inf _, .fin _ _ _ => false
  | .fin _ _ _, .inf _ => false
  | .fin a m e, .fin b n g =>
    let q := min e g
    decide (signedUnits a m e q = signedUnits b n g q)

/-- The sign of a value. -/
def FpNum.isNeg : FpNum → Bool
  | .nan => false
  | .inf n => n
  | .fin n _ _ => n

/-- Below in the order of `min` and `max`, in which −0 is below +0 (R124). -/
def FpNum.below (a b : FpNum) : Bool := a.lt b || (a.eq b && a.isNeg && !b.isNeg)

/-- The value is a zero of either sign. -/
def FpNum.isZero : FpNum → Bool
  | .fin _ m _ => decide (m = 0)
  | _ => false

/-! ### Quotients and roots: a truncated result with one sticky bit below it -/

/-- A truncated magnitude t · 2^e whose true value lies in [t, t + 1) units: the sticky bit says whether it is t. -/
def sticky (neg : Bool) (t : Nat) (exact : Bool) (e : Int) : FpNum :=
  .fin neg (2 * t + (if exact then 0 else 1)) (e - 1)

/-- The quotient of two magnitudes m · 2^e and n · 2^g, n not 0, to well over 64 bits. -/
def divMag (neg : Bool) (m : Nat) (e : Int) (n : Nat) (g : Int) : FpNum :=
  let k := bitLen n + 80
  let t := m * 2 ^ k / n
  sticky neg t (decide (m * 2 ^ k % n = 0)) (e - g - (k : Int))

/-- 1/x with the special values of R127. -/
def FpNum.rcp : FpNum → FpNum
  | .nan => .nan
  | .inf n => .fin n 0 0
  | .fin n m e => if m = 0 then .inf n else divMag n 1 0 m e

/-- The largest r with r² ≤ n among those below 2^(k + 1) above r. -/
def isqrtFrom (n : Nat) (k r : Nat) : Nat :=
  let r' := if (r + 2 ^ k) * (r + 2 ^ k) ≤ n then r + 2 ^ k else r
  match k with
  | 0 => r'
  | k + 1 => isqrtFrom n k r'

/-- The integer square root. -/
def isqrt (n : Nat) : Nat := isqrtFrom n (bitLen n / 2 + 1) 0

/-- √x with the special values of R127. -/
def FpNum.sqrt : FpNum → FpNum
  | .nan => .nan
  | .inf n => if n then .nan else .inf false
  | .fin n m e =>
    if m = 0 then .fin n 0 0
    else if n then .nan
    else
      let odd : Nat := (e % 2).toNat
      let v := m * 2 ^ (odd + 160)
      let t := isqrt v
      sticky false t (decide (t * t = v)) ((e - (odd : Int) - 160) / 2)

/-- 1/√x with the special values of R127. -/
def FpNum.rsq : FpNum → FpNum
  | .nan => .nan
  | .inf n => if n then .nan else .fin false 0 0
  | .fin n m e =>
    if m = 0 then .inf n
    else if n then .nan
    else
      -- x = v · 2^(2h), v = m or 2m; 1/√x = √(2^(2k)/v) · 2^(−k−h)
      let odd : Nat := (e % 2).toNat
      let v := m * 2 ^ odd
      let h := (e - (odd : Int)) / 2
      let k := bitLen v + 100
      let t := isqrt (2 ^ (2 * k) / v)
      sticky false t (decide (t * t * v = 2 ^ (2 * k))) (-(k : Int) - h)

/-- Product of 2^(2^−i) over the set bits of a fraction, most significant first; `root` is 2^(2^−i) and `acc` the product
so far, both in units of 2^−128. -/
def exp2Frac (frac bits root acc : Nat) : Nat :=
  match bits with
  | 0 => acc
  | bits + 1 =>
    let root := isqrt (root * 2 ^ 128)
    exp2Frac frac bits root (if frac / 2 ^ bits % 2 = 1 then acc * root / 2 ^ 128 else acc)

/-- 2^x with the special values of R127. Below 2^−30 in magnitude every format gives 1; above 2^10 it overflows or
underflows. -/
def FpNum.exp2 : FpNum → FpNum
  | .nan => .nan
  | .inf n => if n then .fin false 0 0 else .inf false
  | .fin n m e =>
    if m = 0 then .fin false 1 0
    else
      let top := (bitLen m : Int) + e
      if top ≤ -30 then sticky false (if n then 2 ^ 60 - 1 else 2 ^ 60) false (-60)
      else if 11 ≤ top then (if n then .fin false 1 (-4096) else .fin false 1 4096)
      else
        let k := (-e).toNat
        let v : Int := if n then -(m : Int) else m
        let whole := if 0 ≤ e then v * 2 ^ e.toNat else v / 2 ^ k
        let frac := if 0 ≤ e then 0 else (v % 2 ^ k).toNat
        if frac = 0 then .fin false 1 whole
        else sticky false (exp2Frac frac k (2 * 2 ^ 128) (2 ^ 128)) false (whole - 128)

/-- Bits of log2 of u · 2^−256 in [1, 2), most significant first. -/
def log2Frac (n u acc : Nat) : Nat :=
  match n with
  | 0 => acc
  | n + 1 =>
    let w := u * u / 2 ^ 256
    if 2 ^ 257 ≤ w then log2Frac n (w / 2) (2 * acc + 1) else log2Frac n w (2 * acc)

/-- log2 x with the special values of R127. -/
def FpNum.log2 : FpNum → FpNum
  | .nan => .nan
  | .inf n => if n then .nan else .inf false
  | .fin n m e =>
    if m = 0 then .inf true
    else if n then .nan
    else
      let len := bitLen m
      let whole : Int := (len : Int) - 1 + e
      if m = 2 ^ (len - 1) then ofUnits whole 0 false
      else
        let v : Int := whole * 2 ^ 120 + (log2Frac 120 (m * 2 ^ (257 - len)) 0 : Nat)
        if 0 ≤ v then sticky false v.toNat false (-120) else sticky true (-v - 1).toNat false (-120)

/-! ### Integers and scales -/

/-- The value of an integer. -/
def FpNum.ofInt (v : Int) : FpNum := ofUnits v 0 false

/-- The integer nearest to a value, ties to even, clamped to a range; a NaN gives 0 (R147). -/
def FpNum.toInt (x : FpNum) (lo hi : Int) : Int :=
  match x with
  | .nan => 0
  | .inf n => if n then lo else hi
  | .fin n m e =>
    let r : Int := rneUnits m e 0
    max lo (min hi (if n then -r else r))

/-- The value of an S16 scale: none where it is invalid (R183). -/
def s16Value (sc : Nat) : FpNum :=
  let e := bitsOf sc 8 8
  if e = 0 then .fin false 0 0
  else if e = 255 then .nan
  else .fin false (256 + bitsOf sc 0 8) ((e : Int) - 135)

/-- The smallest S16 pattern whose value is at or above num/den · 2^0, at least 0x0100 (R148): num = m · 2^e, den a
natural number. Searched over the 65,279 − 255 patterns by binary digits. -/
def s16AtLeast (m : Nat) (e : Int) (den : Nat) (k lo : Nat) : Nat :=
  -- the largest pattern below which every pattern is too small is built bit by bit
  let cand := lo + 2 ^ k
  let small := match s16Value (cand - 1) with
    | .fin _ sm se =>
      let q := min e se
      decide (sm * den * 2 ^ (se - q).toNat < m * 2 ^ (e - q).toNat)
    | _ => false
  let lo' := if small && decide (cand ≤ 0xFEFF) then cand else lo
  match k with
  | 0 => lo'
  | k + 1 => s16AtLeast m e den k lo'

end Sys2Proof.Machine
end

