-- ==== Sys2Proof/Machine/Flags.lean ====
section
/-! DEFINITION. The conditions the device computes. It has no condition flags: a branch compares two registers (R88), a
`cmp` writes a mask per lane (R125), and `steer` and `gate` test a whole value (R134). -/

namespace Sys2Proof.Machine

/-- s(a) < s(b). -/
def condLt (a b : Word) : Bool := a.slt b

/-- s(a) ≥ s(b). -/
def condGe (a b : Word) : Bool := !(a.slt b)

/-- u(a) < u(b). -/
def condLtu (a b : Word) : Bool := a.ult b

/-- u(a) ≥ u(b). -/
def condGeu (a b : Word) : Bool := !(a.ult b)

/-- 1 where the condition holds, 0 where it does not (R86, R87). -/
def boolWord (c : Bool) : Word := if c then 1 else 0

/-- The condition of a `cmp` on two signed integers: 0 eq, 1 ne, 2 lt, 3 le, 4 gt, 5 ge (R69, R125). -/
def cmpInt (cc : Nat) (a b : Int) : Bool :=
  match cc with
  | 0 => decide (a = b)
  | 1 => decide (a ≠ b)
  | 2 => decide (a < b)
  | 3 => decide (a ≤ b)
  | 4 => decide (b < a)
  | _ => decide (b ≤ a)

/-- The condition of a `cmp` on two floating-point values: −0 equals +0, and with a NaN every condition is false but
`.ne` (R125). -/
def cmpNum (cc : Nat) (a b : FpNum) : Bool :=
  match cc with
  | 0 => a.eq b
  | 1 => !(a.eq b)
  | 2 => a.lt b
  | 3 => a.lt b || a.eq b
  | 4 => b.lt a
  | _ => b.lt a || a.eq b

/-- The predicate of `steer` and `gate`: the 32-bit value is not zero, whatever its tag (R134). -/
def predicate (v : W32) : Bool := decide (v ≠ 0)

/-- Iteration a is older than b (R245). -/
def iterOlder (a b : BitVec 8) : Bool :=
  let d := (b - a).toNat
  decide (1 ≤ d) && decide (d ≤ 127)

end Sys2Proof.Machine
end

