-- ==== Sys2Proof/Machine/Lanes.lean ====
section
/-! DEFINITION. Lanes: what each format tag holds (R24, R121, R181, R182), integer and floating-point arithmetic lane by
lane (R122–R125, R127, R128), the row softmax steps (R138–R140), the combines (R136) and the conversions (R147–R149). -/

namespace Sys2Proof.Machine

/-- Lanes of a format tag (R24). -/
def laneCount (tag : BitVec 3) : Nat :=
  match tag.toNat with
  | 0 | 1 => 1
  | 2 | 3 | 7 => 2
  | _ => 4

/-- Bits of a lane (R24). -/
def laneBits (tag : BitVec 3) : Nat := 32 / laneCount tag

/-- The tag is an integer format (R24). -/
def isIntTag (tag : BitVec 3) : Bool := decide (tag = 0#3) || decide (tag = 6#3) || decide (tag = 7#3)

/-- The floating-point format of a tag (R24, R182). -/
def fpOf (tag : BitVec 3) : Option FpFormat :=
  match tag.toNat with
  | 1 => some fp32
  | 2 => some bf16
  | 3 => some fp16
  | 4 => some e4m3
  | 5 => some e5m2
  | _ => none

/-- The floating-point format of a tag an element computes on (R121). -/
def fpCompute (tag : BitVec 3) : Option FpFormat :=
  match tag.toNat with
  | 1 => some fp32
  | 2 => some bf16
  | 3 => some fp16
  | _ => none

/-- Lane i of a value (R7, R181). -/
def laneOf (bits : Nat) (v : W32) (i : Nat) : Nat := bitsOf v.toNat (bits * i) bits

/-- The lanes of a value, lane 0 first. -/
def lanesOf (tag : BitVec 3) (v : W32) : List Nat :=
  (List.range (laneCount tag)).map fun i => laneOf (laneBits tag) v i

/-- A value from its lanes, lane 0 first; lanes beyond the list are zero. -/
def packLanes (bits : Nat) (ls : List Nat) : Nat :=
  match ls with
  | [] => 0
  | l :: r => l % 2 ^ bits + 2 ^ bits * packLanes bits r

/-- The value with the given lanes. -/
def ofLanes (bits : Nat) (ls : List Nat) : W32 := BitVec.ofNat 32 (packLanes bits ls)

/-- A lane read as signed (R123, R181). -/
def signedLane (bits v : Nat) : Int := if 2 ^ (bits - 1) ≤ v then (v : Int) - 2 ^ bits else v

/-- An exact integer result reduced modulo 2^n, or clamped under `.sat` (R123). -/
def intLane (bits : Nat) (sat : Bool) (v : Int) : Nat :=
  let lo : Int := -(2 ^ (bits - 1))
  let hi : Int := 2 ^ (bits - 1) - 1
  (((if sat then max lo (min hi v) else v) % 2 ^ bits).toNat)

/-- A function on lanes applied to every lane of one value. -/
def map1 (tag : BitVec 3) (f : Nat → Nat) (a : W32) : W32 := ofLanes (laneBits tag) ((lanesOf tag a).map f)

/-- A function on lanes applied to the lanes of two values. -/
def map2 (tag : BitVec 3) (f : Nat → Nat → Nat) (a b : W32) : W32 :=
  ofLanes (laneBits tag) (List.zipWith f (lanesOf tag a) (lanesOf tag b))

/-- A function on lanes applied to the lanes of three values. -/
def map3 (tag : BitVec 3) (f : Nat → Nat → Nat → Nat) (a b c : W32) : W32 :=
  ofLanes (laneBits tag) ((List.zip (lanesOf tag a) (List.zip (lanesOf tag b) (lanesOf tag c))).map fun p => f p.1 p.2.1 p.2.2)

/-! ### Two and three operands of one tag -/

/-- An arithmetic operation on lanes: the exact integer function and the exact floating-point function; none where the
tag is not accepted (R121–R123). -/
def arith2 (tag : BitVec 3) (sat : Bool) (fi : Int → Int → Int) (ff : FpNum → FpNum → FpNum) (a b : W32) : Option W32 :=
  if isIntTag tag then
    some (map2 tag (fun x y => intLane (laneBits tag) sat (fi (signedLane (laneBits tag) x) (signedLane (laneBits tag) y))) a b)
  else match fpCompute tag with
    | some f => some (map2 tag (fun x y => f.encode false (ff (f.decode x) (f.decode y))) a b)
    | none => none

/-- a·b + c, rounded, wrapped or clamped once (R123, R124). -/
def fmaLanes (tag : BitVec 3) (sat : Bool) (a b c : W32) : Option W32 :=
  if isIntTag tag then
    let n := laneBits tag
    some (map3 tag (fun x y z => intLane n sat (signedLane n x * signedLane n y + signedLane n z)) a b c)
  else match fpCompute tag with
    | some f => some (map3 tag (fun x y z => f.encode false (((f.decode x).mul (f.decode y)).add (f.decode z))) a b c)
    | none => none

/-- The smaller of two floating-point values; a NaN in either gives the canonical NaN (R124). -/
def minNum (a b : FpNum) : FpNum :=
  match a, b with
  | .nan, _ => .nan
  | _, .nan => .nan
  | a, b => if b.below a then b else a

/-- The larger of two floating-point values (R124). -/
def maxNum (a b : FpNum) : FpNum :=
  match a, b with
  | .nan, _ => .nan
  | _, .nan => .nan
  | a, b => if a.below b then b else a

/-- `abs` (R122–R124): integers wrap, floating-point lanes lose their sign bit. -/
def absLanes (tag : BitVec 3) (a : W32) : Option W32 :=
  let n := laneBits tag
  if isIntTag tag then some (map1 tag (fun x => intLane n false (signedLane n x).natAbs) a)
  else match fpCompute tag with
    | some _ => some (map1 tag (fun x => x % 2 ^ (n - 1)) a)
    | none => none

/-- `neg` (R122–R124): integers wrap, floating-point lanes change their sign bit. -/
def negLanes (tag : BitVec 3) (a : W32) : Option W32 :=
  let n := laneBits tag
  if isIntTag tag then some (map1 tag (fun x => intLane n false (-(signedLane n x))) a)
  else match fpCompute tag with
    | some _ => some (map1 tag (fun x => (x + 2 ^ (n - 1)) % 2 ^ n) a)
    | none => none

/-- a·2^k for a lane, k unsigned; from k = n on the exact result is 0 modulo 2^n and clamps by the sign of a (R124). -/
def shlLane (n : Nat) (sat : Bool) (x k : Nat) : Nat :=
  intLane n sat (signedLane n x * 2 ^ (min k n))

/-- `shl` (R121, R124). -/
def shlLanes (tag : BitVec 3) (sat : Bool) (a b : W32) : Option W32 :=
  if isIntTag tag then some (map2 tag (shlLane (laneBits tag) sat) a b) else none

/-- `shr`: from k = n on, 0 (R124). -/
def shrLanes (tag : BitVec 3) (a b : W32) : Option W32 :=
  if isIntTag tag then some (map2 tag (fun x k => x / 2 ^ (min k (laneBits tag))) a b) else none

/-- `sra`: from k = n on, the sign (R124). -/
def sraLanes (tag : BitVec 3) (a b : W32) : Option W32 :=
  let n := laneBits tag
  if isIntTag tag then some (map2 tag (fun x k => intLane n false (signedLane n x / 2 ^ (min k n))) a b) else none

/-- The tag of a `cmp` result (R125). -/
def cmpTag (tag : BitVec 3) : BitVec 3 :=
  match laneCount tag with
  | 1 => 0
  | 2 => 7
  | _ => 6

/-- `cmp`: all ones in a lane where the condition holds (R125). -/
def cmpLanes (tag : BitVec 3) (cc : Nat) (a b : W32) : Option W32 :=
  let n := laneBits tag
  let mask (c : Bool) : Nat := if c then 2 ^ n - 1 else 0
  if isIntTag tag then some (map2 tag (fun x y => mask (cmpInt cc (signedLane n x) (signedLane n y))) a b)
  else match fpCompute tag with
    | some f => some (map2 tag (fun x y => mask (cmpNum cc (f.decode x) (f.decode y))) a b)
    | none => none

/-- `sel`: the lane of b where the lane of a is not zero, else the lane of c (R125). -/
def selLanes (tag : BitVec 3) (a b c : W32) : W32 := map3 tag (fun x y z => if x = 0 then z else y) a b c

/-- A special function on every lane (R127). -/
def special (tag : BitVec 3) (fn : FpNum → FpNum) (a : W32) : Option W32 :=
  match fpCompute tag with
  | some f => some (map1 tag (fun x => f.encode false (fn (f.decode x))) a)
  | none => none

/-- `lane`: lane N moved to lane 0, every other lane zero; none at or beyond the lane count (R128). -/
def laneMove (tag : BitVec 3) (k : Nat) (a : W32) : Option W32 :=
  if k < laneCount tag then some (BitVec.ofNat 32 (laneOf (laneBits tag) a k)) else none

/-- `bcast`: lane 0 in every lane (R128). -/
def bcastLanes (tag : BitVec 3) (a : W32) : W32 := map1 tag (fun _ => laneOf (laneBits tag) a 0) a

/-! ### FP32 steps -/

/-- The FP32 value of a pattern. -/
def f32 (v : W32) : FpNum := fp32.decode v.toNat

/-- A value rounded to FP32. -/
def rne32 (x : FpNum) : W32 := BitVec.ofNat 32 (fp32.encode false x)

/-- The difference of two values; inf − inf is a NaN. -/
def FpNum.sub (a b : FpNum) : FpNum := a.add b.neg

/-- rne32(2^(x − m)) with the rules of `rowms` for equal infinities: 0 where both are −Inf, 1 where both are +Inf (R138,
R140). -/
def expDiff (x m : FpNum) : W32 :=
  if x = .inf true ∧ m = .inf true then 0
  else if x = .inf false ∧ m = .inf false then rne32 (.fin false 1 0)
  else rne32 (x.sub m).exp2

/-- One lane of `rowms` (R138): the running maximum and sum. -/
def rowmsLane (m s : W32) (x : FpNum) : W32 × W32 :=
  let nan : W32 := 0x7FC00000
  match x, f32 m with
  | .nan, _ => (nan, nan)
  | _, .nan => (nan, nan)
  | x, mv =>
    let mn := maxNum mv x
    let f : W32 := if mv = mn ∨ mv.eq mn then rne32 (.fin false 1 0) else rne32 (mv.sub mn).exp2
    let e := expDiff x mn
    (rne32 mn, rne32 ((f32 (rne32 ((f32 s).mul (f32 f)))).add (f32 e)))

/-- `rowms` over the lanes of a token, lane 0 first (R138). -/
def rowms (f : FpFormat) (ls : List Nat) (m s : W32) : W32 × W32 :=
  match ls with
  | [] => (m, s)
  | l :: r => let p := rowmsLane m s (f.decode l); rowms f r p.1 p.2

/-- `rowfin`: rne32(1/s), a NaN where m is one (R139). -/
def rowfin (m s : W32) : W32 := if f32 m = .nan then 0x7FC00000 else rne32 (f32 s).rcp

/-- One lane of `rowscl` (R140). -/
def rowsclLane (f : FpFormat) (x : Nat) (m r : W32) : Nat :=
  let xv := f.decode x
  let p : W32 := match xv, f32 m with
    | .nan, _ => 0x7FC00000
    | _, .nan => 0x7FC00000
    | xv, mv => expDiff xv mv
  f.encode false (f32 (rne32 ((f32 p).mul (f32 r))))

/-- `rowscl` of one entry; none where its tag is not one of the three (R140). -/
def rowscl (x : Val) (m r : W32) : Option W32 :=
  match fpCompute x.tag with
  | some f => some (map1 x.tag (fun l => rowsclLane f l m r) x.value)
  | none => none

/-! ### Combines (R136) -/

/-- The identity of a combine for a tag: none where the combine has none (R136). comb: 0 iadd, 1 fadd, 2 min, 3 max,
4 and, 5 or, 6 xor, 7 fmrg. -/
def combIdentity (comb : Nat) (tag : BitVec 3) : Option W32 :=
  match comb, tag.toNat with
  | 0, 0 => some 0
  | 1, 1 => some 0x80000000
  | 2, 0 => some 0x7FFFFFFF
  | 2, 1 => some 0x7F800000
  | 3, 0 => some 0x80000000
  | 3, 1 => some 0xFF800000
  | 4, 0 | 4, 1 => some 0xFFFFFFFF
  | 5, 0 | 5, 1 | 6, 0 | 6, 1 => some 0
  | _, _ => none

/-- b ⊕ a under a combine, both of one tag; none where FMT is reported (R136). -/
def combine (comb : Nat) (tag : BitVec 3) (b a : W32) : Option W32 :=
  if (combIdentity comb tag).isNone then none
  else match comb with
    | 0 | 1 => arith2 tag false (· + ·) FpNum.add b a
    | 2 => arith2 tag false min minNum b a
    | 3 => arith2 tag false max maxNum b a
    | 4 => some (b &&& a)
    | 5 => some (b ||| a)
    | _ => some (b ^^^ a)

/-! ### Conversions (R147–R149) -/

/-- The value of a lane of any tag (R188). -/
def laneNum (tag : BitVec 3) (x : Nat) : FpNum :=
  match fpOf tag with
  | some f => f.decode x
  | none => FpNum.ofInt (signedLane (laneBits tag) x)

/-- A value converted to a lane of a tag: rounded to nearest even, clamped for an integer target (R147). -/
def numLane (tag : BitVec 3) (sat : Bool) (x : FpNum) : Nat :=
  match fpOf tag with
  | some f => f.encode sat x
  | none =>
    let n := laneBits tag
    intLane n false (x.toInt (-(2 ^ (n - 1))) (2 ^ (n - 1) - 1))

/-- One lane converted from a tag to another (R147): an integer goes to a narrower integer by its low bits, or clamped. -/
def convertLane (src dst : BitVec 3) (sat : Bool) (x : Nat) : Nat :=
  if isIntTag src && isIntTag dst then intLane (laneBits dst) sat (signedLane (laneBits src) x)
  else numLane dst sat (laneNum src x)

/-- Fmax and the clamp range of a `cvtq` target: 4 E4M3, 5 E5M2, 6 INT8, 7 WI4 (R148). -/
def quantMax (target : Nat) : Nat :=
  match target with
  | 4 => 448
  | 5 => 57344
  | 6 => 127
  | _ => 7

/-- The magnitude m · 2^e of the larger of two finite values. -/
def maxMag (a b : FpNum) : FpNum :=
  let x : FpNum := match a with
    | .fin _ m e => .fin false m e
    | v => v
  let y : FpNum := match b with
    | .fin _ m e => .fin false m e
    | v => v
  if x.lt y then y else x

/-- The scale of a group of lanes (R148). -/
def quantScale (target : Nat) (ls : List FpNum) : Nat :=
  if ls.any fun x => match x with
      | .fin _ _ _ => false
      | _ => true then 0xFF00
  else match ls.foldl maxMag (.fin false 0 0) with
    | .fin _ m e => if m = 0 then 0x7F00 else s16AtLeast m e (quantMax target) 15 0x100
    | _ => 0xFF00

/-- A finite quotient to well over the bits any target keeps: x / value(scale) (R148). -/
def quantQuotient (x : FpNum) (scale : Nat) : FpNum :=
  match x, s16Value scale with
  | .fin n m e, .fin _ sm se => if m = 0 then .fin n 0 0 else divMag n m e sm se
  | _, _ => .nan

/-- One lane of `cvtq` under a scale: rounded, clamped; the target's NaN or 0 under an invalid scale (R148). -/
def quantLane (target scale : Nat) (x : FpNum) : Nat :=
  let q := quantQuotient x scale
  match target with
  | 4 => if scale = 0xFF00 then 0x7F else e4m3.encode true q
  | 5 => if scale = 0xFF00 then 0x7E else e5m2.encode true q
  | 6 => if scale = 0xFF00 then 0 else intLane 8 false (q.toInt (-128) 127)
  | _ => if scale = 0xFF00 then 0 else intLane 8 false (q.toInt (-8) 7)

/-- The tag a `cvtq` target packs to: INT8×4 for INT8 and WI4 (R148). -/
def quantTag (target : Nat) : BitVec 3 :=
  match target with
  | 4 => 4
  | 5 => 5
  | _ => 6

/-- One lane of `cvts`: x · value(scale), computed exactly, then converted (R149). -/
def scaleLane (src dst : BitVec 3) (sat : Bool) (scale x : Nat) : Nat :=
  let xv := laneNum src x
  if bitsOf scale 8 8 = 255 then numLane dst sat .nan
  else if bitsOf scale 8 8 = 0 then
    match xv with
    | .nan => numLane dst sat .nan
    | v => numLane dst sat (.fin v.isNeg 0 0)
  else numLane dst sat (xv.mul (s16Value scale))

end Sys2Proof.Machine
end

