-- ==== Sys2Proof/WellFormed.lean ====
section
/-! DEFINITION. Which terms of `Instr` stand for a word the device assigns (R58–R69) or for an event of a unit the
package has (R6, R9, R272, R292, R332). The decoder answers well-formed terms only. -/

namespace Sys2Proof

/-- `sc` is 0 when `ord` names no ordering (R62). -/
def plainScope (ord : MemOrd) (sc : Scope) : Bool :=
  decide (ord ≠ .plain) || decide (sc = .tile)

/-- `amo` and `cas` take `.w` and `.d` only (R62). -/
def wordOrDouble (wd : Width) : Bool :=
  decide (wd = .w) || decide (wd = .d)

/-- nslot is zero when dst names a keep register (R67). -/
def keepSlot (d : Dst) (n : BitVec 4) : Bool :=
  decide (d.toNat < 4) || decide (n = 0#4)

/-- The node is one of the package (R9, R36): converters stand in tiles t(1,1) and t(2,2) only. -/
def NodeId.exists (n : NodeId) : Bool :=
  decide (n.sheet < 256) && decide (n.tile < 16) &&
    (match n.cls with
     | .element => decide (n.elem < 16)
     | .cv => decide (n.elem = 0) && (decide (n.tile = 5) || decide (n.tile = 10))
     | .ag | .pa | .fe => decide (n.elem = 0))

/-- The site of a fault is one of the package (R2, R6, R319). -/
def FaultSite.exists : FaultSite → Bool
  | .node n => n.exists
  | .tileSwitch sheet tile => decide (sheet < 256) && decide (tile < 16)
  | .edgePort sheet side => decide (sheet < 256) && decide (side < 4)
  | .widePort sheet port => decide (sheet < 256) && decide (port < 8)
  | .saveLine bh _ => decide (bh < 64)
  | .proofBuffer bh => decide (bh < 64)

/-- The shared unit is one of the package (R2, R6, R296). -/
def SharedUnit.exists : SharedUnit → Bool
  | .hbmStack k => decide (k < 12)
  | .cxlPort p => decide (p < 2)
  | .expander p half => decide (p < 2) && decide (half < 2)
  | .copyEngine die k => decide (die < 4) && decide (k < 8)
  | .compositor die k => decide (die < 4) && decide (k < 4)
  | .linkEngine die k => decide (die < 4) && decide (k < 4)
  | .spanPort p => decide (p < 16)
  | .spineRouter bh => decide (bh < 64)
  | .spineLink bh dir => decide (bh < 64) && decide (dir < 4)
  | .secondaryDrover die => decide (die < 4)
  | .primaryDrover => true
  | .hostLink k => decide (k < 2)

/-- Frames of FM (R334). -/
def farFrames (first n : Nat) : Bool := decide (1024 ≤ first) && decide (first + n ≤ 5120)

/-- The term is well formed. -/
def Instr.wf : Instr → Bool
  | .ld _ _ _ _ ord sc => decide (ord ≠ .rel) && plainScope ord sc
  | .st _ _ _ _ ord sc => decide (ord ≠ .acq) && plainScope ord sc
  | .amo _ _ _ _ wd ord sc _ => wordOrDouble wd && plainScope ord sc
  | .cas _ _ _ _ wd ord sc => wordOrDouble wd && plainScope ord sc
  | .dset n _ => decide (n.toNat < 16)
  | .strin k n x => decide (k.toNat < 8) && decide (n.toNat < 16) && decide (x.toNat < 2)
  | .strout k n x => decide (k.toNat < 8) && decide (n.toNat < 16) && decide (x.toNat < 2)
  | .scancel x => decide (x.toNat < 2)
  | .amsg _ f => decide (1 ≤ f.toNat) && decide (f.toNat ≤ 16)
  | .qpush k _ _ => decide (k.toNat < 8)
  | .qpop _ k => decide (k.toNat < 8)
  | .qcnt _ k => decide (k.toNat < 8)
  | .qctl k _ _ => decide (k.toNat < 8)
  | .qbind k _ => decide (k.toNat < 8)
  | .waitingInstructionRetire sheet ctx => decide (sheet < 256) && decide (ctx < 4)
  | .handlerInvocation sheet ctx => decide (sheet < 256) && decide (ctx < 4)
  | .queuePushAccept sheet q => decide (sheet < 256) && decide (q < 8)
  | .galleyRefill sheet q => decide (sheet < 256) && decide (q < 8)
  | .elemAdd _ _ d n _ _ => keepSlot d n
  | .elemSub _ _ d n _ _ => keepSlot d n
  | .elemMul _ _ d n _ _ => keepSlot d n
  | .fma _ _ _ d n _ _ => keepSlot d n
  | .elemMin _ _ d n _ => keepSlot d n
  | .elemMax _ _ d n _ => keepSlot d n
  | .abs _ d n _ => keepSlot d n
  | .neg _ d n _ => keepSlot d n
  | .elemShl _ _ d n _ _ => keepSlot d n
  | .elemShr _ _ d n _ => keepSlot d n
  | .elemSra _ _ d n _ => keepSlot d n
  | .elemAnd _ _ d n _ => keepSlot d n
  | .elemOr _ _ d n _ => keepSlot d n
  | .elemXor _ _ d n _ => keepSlot d n
  | .not _ d n _ => keepSlot d n
  | .cmp _ _ d n cc _ => decide (cc.toNat ≤ 5) && keepSlot d n
  | .sel _ _ _ d n _ => keepSlot d n
  | .mov _ d n _ => keepSlot d n
  | .const d n _ _ _ => keepSlot d n
  | .exp2 _ d n _ => keepSlot d n
  | .log2 _ d n _ => keepSlot d n
  | .rcp _ d n _ => keepSlot d n
  | .rsq _ d n _ => keepSlot d n
  | .sqrt _ d n _ => keepSlot d n
  | .pack _ _ d n _ => keepSlot d n
  | .unpack _ _ d n _ => keepSlot d n
  | .lane _ d n _ _ => keepSlot d n
  | .bcast _ d n _ => keepSlot d n
  | .ctxalloc _ d n _ => keepSlot d n
  | .ctxfree _ d n _ => keepSlot d n
  | .itin _ d n _ => keepSlot d n
  | .itnext _ d n _ => keepSlot d n
  | .itout _ d n _ => keepSlot d n
  | .loUpdateArrival sheet tile ctx _ => decide (sheet < 256) && decide (tile < 16) && decide (ctx < 4)
  | .tcall _ _ d n _ => keepSlot d n
  | .tret _ _ d n _ => keepSlot d n
  | .steer _ _ d n _ => keepSlot d n
  | .merge _ _ d n _ => keepSlot d n
  | .omerge _ _ d n _ => keepSlot d n
  | .gate _ _ d n _ => keepSlot d n
  | .acc _ _ d n _ => keepSlot d n
  | .scan _ _ d n _ => keepSlot d n
  | .rowms _ _ _ d n _ => keepSlot d n
  | .rowfin _ _ d n _ => keepSlot d n
  | .rowscl _ _ _ d n _ => keepSlot d n
  | .ldt _ d n _ _ => keepSlot d n
  | .ldx _ _ d n _ _ => keepSlot d n
  | .amox _ _ _ d n _ _ => keepSlot d n
  | .tmove _ d n _ => keepSlot d n
  | .bndry _ d n _ _ => keepSlot d n
  | .cvt _ d n _ _ _ => keepSlot d n
  | .cvtq _ d n target _ => decide (4 ≤ target.toNat) && keepSlot d n
  | .cvts _ d n _ _ _ => keepSlot d n
  | .mm _ _ d n _ => keepSlot d n
  | .accrd _ d n _ _ => keepSlot d n
  | .mmInterrupt n => n.exists
  | .mmResume n => n.exists
  | .fprobe _ _ _ d n _ => keepSlot d n
  | .fdrain _ d n _ => keepSlot d n
  | .fcnt d n _ => keepSlot d n
  | .matchingStoreAdmit n ctx port _ => n.exists && decide (ctx < 4) && decide (port < 4)
  | .firingStart n => n.exists
  | .kick vf _ => decide (vf < 96)
  | .launchSlotReread vf => decide (vf < 96)
  | .wakeMapped vf _ => decide (vf < 96)
  | .wakeInvalid vf _ => decide (vf < 96)
  | .superGrant vf _ _ => decide (vf < 96)
  | .superEnd vf _ _ => decide (vf < 96)
  | .tlbinvVa vf _ => decide (vf < 96)
  | .tlbinvAll vf => decide (vf < 96)
  | .tlbinvDone vf => decide (vf < 96)
  | .lrbaseWrite vf _ => decide (vf < 96)
  | .crbaseWrite vf _ => decide (vf < 96)
  | .erbaseWrite vf _ => decide (vf < 96)
  | .statusRead vf => decide (vf < 96)
  | .registerWrite fn _ _ => decide (fn ≤ 96)
  | .tenantRecordWrite tag _ => decide (1 ≤ tag) && decide (tag ≤ 126)
  | .windowEntryWrite bank entry _ => decide (bank < 64) && decide (entry < 4)
  | .filterEntryWrite entry _ => decide (entry < 256)
  | .bulkheadAssign bh _ => decide (bh < 64)
  | .pllRelockDone bh => decide (bh < 64)
  | .bulkheadRelease bh => decide (bh < 64)
  | .bulkheadReleaseDone bh => decide (bh < 64)
  | .bulkheadReset bh _ => decide (bh < 64)
  | .resetLineRelease bh => decide (bh < 64)
  | .zeroisationDone bh _ => decide (bh < 64)
  | .timeSliceExpiry bh => decide (bh < 64)
  | .bulkheadSwitch bh => decide (bh < 64)
  | .hostRead fn _ _ _ path => decide (fn ≤ 96) && decide (path.link < 2)
  | .hostWrite fn _ _ _ path => decide (fn ≤ 96) && decide (path.link < 2)
  | .hostAtomic fn _ _ _ _ _ _ path => decide (fn ≤ 96) && decide (path.link < 2)
  | .vfFlr vf => decide (vf < 96)
  | .bulkheadBringup bh => decide (bh < 64)
  | .sensorSample bh _ _ => decide (bh < 64)
  | .spdmGetMeasurements vf _ => decide (vf < 96)
  | .phasePlace die => decide (die < 4)
  | .tileConfigComplete _ sheet tile => decide (sheet < 256) && decide (tile < 16)
  | .completionRecordPost vf => decide (vf < 96)
  | .eventRecordPost vf => decide (vf < 96)
  | .backfillLimit die => decide (die < 4)
  | .workAllowanceDraw sheet ctx => decide (sheet < 256) && decide (ctx < 4)
  | .allowanceWindow sheet => decide (sheet < 256)
  | .nodeSave _ n => n.exists
  | .thawArrival _ sheet => decide (sheet < 256)
  | .parkComplete bh => decide (bh < 64)
  | .restoreComplete bh => decide (bh < 64)
  | .tdispRequest vf _ => decide (vf < 96)
  | .add _d _a _b => true
  | .sub _d _a _b => true
  | .and _d _a _b => true
  | .or _d _a _b => true
  | .xor _d _a _b => true
  | .shl _d _a _b => true
  | .shr _d _a _b => true
  | .sra _d _a _b => true
  | .mul _d _a _b => true
  | .mulh _d _a _b => true
  | .mulhu _d _a _b => true
  | .div _d _a _b => true
  | .divu _d _a _b => true
  | .rem _d _a _b => true
  | .remu _d _a _b => true
  | .min _d _a _b => true
  | .max _d _a _b => true
  | .minu _d _a _b => true
  | .maxu _d _a _b => true
  | .slt _d _a _b => true
  | .sltu _d _a _b => true
  | .clz _d _a => true
  | .popc _d _a => true
  | .addi _d _a _i => true
  | .andi _d _a _i => true
  | .ori _d _a _i => true
  | .xori _d _a _i => true
  | .slti _d _a _i => true
  | .shli _d _a _sh => true
  | .shri _d _a _sh => true
  | .srai _d _a _sh => true
  | .lui _d _i => true
  | .beq _a _b _o => true
  | .bne _a _b _o => true
  | .blt _a _b _o => true
  | .bge _a _b _o => true
  | .bltu _a _b _o => true
  | .bgeu _a _b _o => true
  | .jmp _o => true
  | .jr _a => true
  | .call _o => true
  | .callr _a => true
  | .ret => true
  | .loop _a _o => true
  | .fence _sc => true
  | .stbar => true
  | .bsel _a => true
  | .await _d _a => true
  | .apoll _d _a => true
  | .xq _d _a _b => true
  | .fload _d _a => true
  | .fplace _d _a _b => true
  | .frun _a => true
  | .fhalt => true
  | .bell => true
  | .flay _d _a => true
  | .bar _a => true
  | .evsig _a _b => true
  | .evwait _d _a => true
  | .csrr _d _c => true
  | .csrw _a _c => true
  | .trap _c => true
  | .eret => true
  | .wfi => true
  | .yield => true
  | .brk => true
  | .nop => true
  | .colourWidthChange _inst _colour => true
  | .setslot _a _b _d _e => true
  | .fan _a _n _e => true
  | .sink _a _e => true
  | .delay _a _b _e => true
  | .stt _a _b _e => true
  | .stx _a _b _c _e => true
  | .wsload _a _e => true
  | .acczero _a _e => true
  | .fcfg _a _e => true
  | .fins _a _b _c _e => true
  | .fmrg _a _e => true
  | .fclr _e => true
  | .tokenArrival _inst _edge => true
  | .streamPoint _stream => true
  | .wakeTokenArrival _tag => true
  | .ceCopy _op _units => true
  | .ceCopyc _op _units => true
  | .ceFill _op _units => true
  | .cePlane _op _units => true
  | .ceGather _op _units => true
  | .ceScatter _op _units => true
  | .coCompose _op _units => true
  | .lePut _op _units _answer => true
  | .leGet _op _data _answer => true
  | .leLamo _op _old _answer => true
  | .leLsig _op _answer => true
  | .engineCompletion _op => true
  | .spanRequestArrival _r => true
  | .spanFlitError port _ => decide (port < 16)
  | .spanVcEscape _packet => true
  | .pferrRead => true
  | .frameTableWrite _frame _v => true
  | .hostLinkRetrain link _up => decide (link < 2)
  | .powerGood _images => true
  | .perstDeassert => true
  | .memoryTrained u => match u with
    | .stack k => decide (k < 12)
    | .expander port half first frames => decide (port < 2) && decide (half < 2) && farFrames first frames
  | .cxlFrameResident frame => farFrames frame 1
  | .cxlFrameLost first frames _lasting => farFrames first frames
  | .capMessage _m => true
  | .capHorizonExpiry => true
  | .capScaleTick millivolts => millivolts.all fun v => decide (360 ≤ v) && decide (v ≤ 460)
  | .pldmBaseDiscovery => true
  | .pldmSensorRead _sensor => true
  | .pldmFirmwareUpdate _image => true
  | .rankRefresh _inst => true
  | .phaseEnd _inst => true
  | .quantumExhausted _slice => true
  | .budgetReport _inst => true
  | .energyRefresh _inst => true
  | .rateWindowEnd _inst => true
  | .slugTaken _inst _change => true
  | .watchdogExpiry _inst => true
  | .cutTimer _inst => true
  | .cutComplete _inst _failingLine => true
  | .tokenParityError _inst site => site.exists
  | .nodeMachineCheck site => site.exists
  | .rollbackRestoreDone _inst _areaFails => true
  | .reportDelivery _inst => true
  | .scrubLine _addr _find => true
  | .illegalInstruction _w => true
  | .instructionFetchFault => true
  | .sharedUnitFault u _again => u.exists
  | .configurationRequest => true

end Sys2Proof
end

