-- ==== Sys2Proof/Decode.lean ====
section
/-! DEFINITION. Decoding of sequencer words (R57–R66) and of op words per node class (R67–R69), total on any bytes and
refusing by name; then the encoder, written from the same tables. -/

namespace Sys2Proof

/-- Why a word decodes to nothing (R57, R59, R60, R62, R64, R65, R67–R69). -/
inductive Reject where
  | unassignedOpcode      -- a major opcode, fn or sub, or an op of the node class that the tables do not list
  | reservedField         -- a field marked zero, or a field the instruction does not use, is not zero
  | indexRange            -- a port, slot, queue, bank or flit count outside its range (R64)
  | pairPattern           -- a forbidden combination in an attribute word (R62)
  | unassignedModifier    -- a mod value outside R69
  | unusedOperand         -- a nonzero operand field that the operation does not use (R67)
  | unusedDestination     -- a nonzero dst or nslot on an operation that writes nothing (R67)
  | keepWithSlot          -- a nonzero nslot when dst names a keep register (R67)
  | truncated             -- fewer bytes than the word takes
  deriving DecidableEq, Repr

/-! ### Bytes and words -/

/-- A 32-bit word from its four bytes, little-endian (R57). -/
def wordOfBytes (b0 b1 b2 b3 : Byte) : W32 := b3 ++ b2 ++ b1 ++ b0

/-- The bytes of a 32-bit word, lowest address first (R57). -/
def bytesOfWord (w : W32) : List Byte :=
  [w.extractLsb' 0 8, w.extractLsb' 8 8, w.extractLsb' 16 8, w.extractLsb' 24 8]

/-- The next word of a list of bytes, and the rest. -/
def takeWord : List Byte → Option (W32 × List Byte)
  | b0 :: b1 :: b2 :: b3 :: rest => some (wordOfBytes b0 b1 b2 b3, rest)
  | _ => none

/-! ### Sequencer words -/

/-- The major opcode, bits 31:26 (R58). -/
def majorOf (w : W32) : Nat := (w.extractLsb' 26 6).toNat

/-- The register field at bits 25:21 (R58). -/
def fieldD (w : W32) : Reg := w.extractLsb' 21 5

/-- The register field at bits 20:16 (R58). -/
def fieldA (w : W32) : Reg := w.extractLsb' 16 5

/-- The register field at bits 15:11 (R58). -/
def fieldB (w : W32) : Reg := w.extractLsb' 11 5

/-- The fn field, bits 10:0 (R58). -/
def fieldFn (w : W32) : BitVec 11 := w.extractLsb' 0 11

/-- imm16 or off16, bits 15:0 (R58). -/
def fieldImm (w : W32) : BitVec 16 := w.extractLsb' 0 16

/-- off26, bits 25:0 (R58). -/
def fieldOff26 (w : W32) : BitVec 26 := w.extractLsb' 0 26

/-- `i` when the condition holds, a refusal otherwise. -/
def orReject (ok : Bool) (r : Reject) (i : Instr) : Except Reject Instr :=
  if ok then .ok i else .error r

/-- The register ALU (R60). -/
def decodeAlu (w : W32) : Except Reject Instr :=
  let d := fieldD w
  let a := fieldA w
  let b := fieldB w
  match (fieldFn w).toNat with
  | 0x000 => .ok (.add d a b)
  | 0x001 => .ok (.sub d a b)
  | 0x002 => .ok (.and d a b)
  | 0x003 => .ok (.or d a b)
  | 0x004 => .ok (.xor d a b)
  | 0x005 => .ok (.shl d a b)
  | 0x006 => .ok (.shr d a b)
  | 0x007 => .ok (.sra d a b)
  | 0x008 => .ok (.mul d a b)
  | 0x009 => .ok (.mulh d a b)
  | 0x00A => .ok (.mulhu d a b)
  | 0x00B => .ok (.div d a b)
  | 0x00C => .ok (.divu d a b)
  | 0x00D => .ok (.rem d a b)
  | 0x00E => .ok (.remu d a b)
  | 0x00F => .ok (.min d a b)
  | 0x010 => .ok (.max d a b)
  | 0x011 => .ok (.minu d a b)
  | 0x012 => .ok (.maxu d a b)
  | 0x013 => .ok (.slt d a b)
  | 0x014 => .ok (.sltu d a b)
  | 0x015 => orReject (decide (b = 0#5)) .reservedField (.clz d a)
  | 0x016 => orReject (decide (b = 0#5)) .reservedField (.popc d a)
  | _ => .error .unassignedOpcode

/-- The sub field and the zero field of layout SX (R65). -/
def fieldSub (w : W32) : Nat := (w.extractLsb' 0 3).toNat

/-- The groups under majors 0x3A, 0x3B and 0x3F (R65). -/
def decodeSx (w : W32) : Except Reject Instr :=
  let d := fieldD w
  let a := fieldA w
  let b := fieldB w
  let z := decide (w.extractLsb' 3 8 = 0#8)
  let d0 := decide (d = 0#5)
  let a0 := decide (a = 0#5)
  let b0 := decide (b = 0#5)
  match majorOf w, fieldSub w with
  | 0x3A, 0 => orReject (z && b0) .reservedField (.fload d a)
  | 0x3A, 1 => orReject z .reservedField (.fplace d a b)
  | 0x3A, 2 => orReject (z && d0 && b0) .reservedField (.frun a)
  | 0x3A, 3 => orReject (z && d0 && a0 && b0) .reservedField .fhalt
  | 0x3A, 4 => orReject (z && d0 && a0 && b0) .reservedField .bell
  | 0x3A, 5 => orReject (z && b0) .reservedField (.flay d a)
  | 0x3B, 0 => orReject (z && d0 && b0) .reservedField (.bar a)
  | 0x3B, 1 => orReject (z && d0) .reservedField (.evsig a b)
  | 0x3B, 2 => orReject (z && b0) .reservedField (.evwait d a)
  | 0x3F, 0 => orReject (decide (w.extractLsb' 3 7 = 0#7)) .reservedField (.trap (w.extractLsb' 10 16))
  | 0x3F, 1 => orReject (z && d0 && a0 && b0) .reservedField .eret
  | 0x3F, 2 => orReject (z && d0 && a0 && b0) .reservedField .wfi
  | 0x3F, 3 => orReject (z && d0 && a0 && b0) .reservedField .yield
  | 0x3F, 4 => orReject (z && d0 && a0 && b0) .reservedField .brk
  | 0x3F, 5 => orReject (z && d0 && a0 && b0) .reservedField .nop
  | _, _ => .error .unassignedOpcode

/-- The scope coded by a 3-bit field (R62). -/
def scopeOf (v : BitVec 3) : Option Scope :=
  match v.toNat with
  | 0 => some .tile
  | 1 => some .sheet
  | 2 => some .bh
  | 3 => some .dev
  | 4 => some .sys
  | _ => none

/-- The ordering coded by the ord field (R62). -/
def ordOf (v : BitVec 2) : Option MemOrd :=
  match v.toNat with
  | 0 => some .plain
  | 1 => some .acq
  | 2 => some .rel
  | _ => none

/-- The width coded by the w field (R62). -/
def widthOf (v : BitVec 2) : Width :=
  match v.toNat with
  | 0 => .b
  | 1 => .h
  | 2 => .w
  | _ => .d

/-- The atomic function coded by afn, or by mod[2:0] of `amox` (R62, R69). -/
def amoFnOf (v : BitVec 3) : Option AmoFn :=
  match v.toNat with
  | 0 => some .add
  | 1 => some .min
  | 2 => some .max
  | 3 => some .and
  | 4 => some .or
  | 5 => some .xchg
  | _ => none

/-- A memory pair from its address word and its attribute word (R62). -/
def decodePair (w at_ : W32) : Except Reject Instr :=
  let d := fieldD w
  let a := fieldA w
  let off := fieldImm w
  let wd := widthOf (at_.extractLsb' 14 2)
  let afn : BitVec 3 := at_.extractLsb' 6 3
  let gb : Reg := at_.extractLsb' 0 5
  if at_.extractLsb' 16 16 ≠ 0#16 ∨ at_.extractLsb' 5 1 ≠ 0#1 then .error .reservedField else
  match ordOf (at_.extractLsb' 12 2), scopeOf (at_.extractLsb' 9 3), amoFnOf afn with
  | some ord, some sc, some fn =>
    match majorOf w with
    | 0x20 => orReject (decide (afn = 0#3) && decide (gb = 0#5) && (Instr.ld d a off wd ord sc).wf) .pairPattern (.ld d a off wd ord sc)
    | 0x21 => orReject (decide (afn = 0#3) && decide (gb = 0#5) && (Instr.st d a off wd ord sc).wf) .pairPattern (.st d a off wd ord sc)
    | 0x22 => orReject (Instr.amo d a gb off wd ord sc fn).wf .pairPattern (.amo d a gb off wd ord sc fn)
    | 0x23 => orReject (decide (afn = 0#3) && (Instr.cas d a gb off wd ord sc).wf) .pairPattern (.cas d a gb off wd ord sc)
    | _ => .error .unassignedOpcode
  | _, _, _ => .error .pairPattern

/-- A sequencer instruction of one word (R59–R61, R64). -/
def decodeSingle (w : W32) : Except Reject Instr :=
  let d := fieldD w
  let a := fieldA w
  let b := fieldB w
  let i := fieldImm w
  let low11 := decide (fieldFn w = 0#11)
  let low16 := decide (i = 0#16)
  let d0 := decide (d = 0#5)
  let a0 := decide (a = 0#5)
  match majorOf w with
  | 0x01 => decodeAlu w
  | 0x02 => .ok (.addi d a i)
  | 0x03 => .ok (.andi d a i)
  | 0x04 => .ok (.ori d a i)
  | 0x05 => .ok (.xori d a i)
  | 0x06 => .ok (.slti d a i)
  | 0x07 => orReject (decide (w.extractLsb' 6 10 = 0#10)) .reservedField (.shli d a (w.extractLsb' 0 6))
  | 0x08 => orReject (decide (w.extractLsb' 6 10 = 0#10)) .reservedField (.shri d a (w.extractLsb' 0 6))
  | 0x09 => orReject (decide (w.extractLsb' 6 10 = 0#10)) .reservedField (.srai d a (w.extractLsb' 0 6))
  | 0x0A => orReject a0 .reservedField (.lui d i)
  | 0x10 => .ok (.beq d a i)
  | 0x11 => .ok (.bne d a i)
  | 0x12 => .ok (.blt d a i)
  | 0x13 => .ok (.bge d a i)
  | 0x14 => .ok (.bltu d a i)
  | 0x15 => .ok (.bgeu d a i)
  | 0x16 => .ok (.jmp (fieldOff26 w))
  | 0x17 => orReject (d0 && low16) .reservedField (.jr a)
  | 0x18 => .ok (.call (fieldOff26 w))
  | 0x19 => orReject (d0 && low16) .reservedField (.callr a)
  | 0x1A => orReject (decide (fieldOff26 w = 0#26)) .reservedField .ret
  | 0x1B => orReject a0 .reservedField (.loop d i)
  | 0x24 => if w.extractLsb' 0 23 ≠ 0#23 then .error .reservedField else
      match scopeOf (w.extractLsb' 23 3) with
      | some sc => .ok (.fence sc)
      | none => .error .indexRange
  | 0x28 => if low16 then orReject (Instr.dset d a).wf .indexRange (.dset d a) else .error .reservedField
  | 0x29 => if low11 then orReject (Instr.strin d a b).wf .indexRange (.strin d a b) else .error .reservedField
  | 0x2A => if low11 then orReject (Instr.strout d a b).wf .indexRange (.strout d a b) else .error .reservedField
  | 0x2B => orReject (decide (fieldOff26 w = 0#26)) .reservedField .stbar
  | 0x2C => orReject (d0 && low16) .reservedField (.bsel a)
  | 0x2D => if a0 && low16 then orReject (Instr.scancel d).wf .indexRange (.scancel d) else .error .reservedField
  | 0x30 => if d0 && decide (b = 0#5) then orReject (Instr.amsg a (fieldFn w)).wf .indexRange (.amsg a (fieldFn w))
      else .error .reservedField
  | 0x31 => orReject low16 .reservedField (.await d a)
  | 0x32 => orReject low16 .reservedField (.apoll d a)
  | 0x34 => if low11 then orReject (Instr.qpush d a b).wf .indexRange (.qpush d a b) else .error .reservedField
  | 0x35 => if low16 then orReject (Instr.qpop d a).wf .indexRange (.qpop d a) else .error .reservedField
  | 0x36 => if low16 then orReject (Instr.qcnt d a).wf .indexRange (.qcnt d a) else .error .reservedField
  | 0x37 => if low11 then orReject (Instr.qctl d a b).wf .indexRange (.qctl d a b) else .error .reservedField
  | 0x38 => if a0 then orReject (Instr.qbind d i).wf .indexRange (.qbind d i) else .error .reservedField
  | 0x39 => orReject low11 .reservedField (.xq d a b)
  | 0x3A | 0x3B | 0x3F => decodeSx w
  | 0x3E =>
      if w.extractLsb' 16 4 ≠ 0#4 then .error .reservedField
      else if w.getLsbD 25 then .ok (.csrw (w.extractLsb' 20 5) i) else .ok (.csrr (w.extractLsb' 20 5) i)
  | _ => .error .unassignedOpcode

/-- The word is the address word of a memory pair (R62). -/
def isPairWord (w : W32) : Bool :=
  decide (0x20 ≤ majorOf w) && decide (majorOf w ≤ 0x23)

/-- A sequencer instruction from the bytes at its address, with the bytes that follow it (R58–R65). -/
def decodeSeq (bs : List Byte) : Except Reject (Instr × List Byte) :=
  match takeWord bs with
  | none => .error .truncated
  | some (w, rest) =>
    if isPairWord w then
      match takeWord rest with
      | none => .error .truncated
      | some (at_, rest') => (decodePair w at_).map (·, rest')
    else (decodeSingle w).map (·, rest)

/-! ### Op words -/

/-- The fields of an op word (R67). -/
structure OpWord where
  op : BitVec 6
  a : Src
  b : Src
  c : Src
  d : Dst
  n : BitVec 4
  m : BitVec 5
  e : Bool
  z : BitVec 4
  deriving DecidableEq, Repr

/-- An op word cut into its fields (R67). -/
def OpWord.of (w : W32) : OpWord :=
  { op := w.extractLsb' 26 6, a := w.extractLsb' 23 3, b := w.extractLsb' 20 3, c := w.extractLsb' 17 3,
    d := w.extractLsb' 14 3, n := w.extractLsb' 10 4, m := w.extractLsb' 5 5, e := w.getLsbD 4, z := w.extractLsb' 0 4 }

/-- What an operation uses: the operand fields of its Form column, whether it writes a dst, and how many low bits of mod
its row of R69 names. -/
structure OpForm where
  useA : Bool
  useB : Bool
  useC : Bool
  writes : Bool
  modBits : Nat
  deriving DecidableEq, Repr

/-- The patterns of R67 that end a firing with ILLEGAL_OP at decoding, for an operation of form `f`. -/
def OpWord.fault (x : OpWord) (f : OpForm) : Option Reject :=
  if x.z ≠ 0#4 then some .reservedField
  else if 2 ^ f.modBits ≤ x.m.toNat then some .unassignedModifier
  else if (f.useA = false ∧ x.a ≠ 0#3) ∨ (f.useB = false ∧ x.b ≠ 0#3) ∨ (f.useC = false ∧ x.c ≠ 0#3) then some .unusedOperand
  else if f.writes = false ∧ (x.d ≠ 0#3 ∨ x.n ≠ 0#4) then some .unusedDestination
  else if keepSlot x.d x.n then none else some .keepWithSlot

/-- `i` when the op word has form `f`. -/
def OpWord.as (x : OpWord) (f : OpForm) (i : Instr) : Except Reject Instr :=
  match x.fault f with
  | some r => .error r
  | none => .ok i

/-- Forms `op a => dst`, `op a, b => dst`, `op a, b, c => dst` without modifier, with `k` modifier bits. -/
def formA (k : Nat) : OpForm := ⟨true, false, false, true, k⟩
/-- Form `op a, b => dst`. -/
def formAB (k : Nat) : OpForm := ⟨true, true, false, true, k⟩
/-- Form `op a, b, c => dst`. -/
def formABC (k : Nat) : OpForm := ⟨true, true, true, true, k⟩
/-- Forms that write nothing. -/
def formNone (a b c : Bool) : OpForm := ⟨a, b, c, false, 0⟩

/-- An op word of a plain element; `imm` is the word after it, which only `const` reads (R67–R69, R126). -/
def decodeElement (x : OpWord) (imm : Option W32) : Except Reject Instr :=
  let sat := x.m.getLsbD 0
  match x.op.toNat with
  | 0x00 => x.as (formAB 1) (.elemAdd x.a x.b x.d x.n sat x.e)
  | 0x01 => x.as (formAB 1) (.elemSub x.a x.b x.d x.n sat x.e)
  | 0x02 => x.as (formAB 1) (.elemMul x.a x.b x.d x.n sat x.e)
  | 0x03 => x.as (formABC 1) (.fma x.a x.b x.c x.d x.n sat x.e)
  | 0x04 => x.as (formAB 0) (.elemMin x.a x.b x.d x.n x.e)
  | 0x05 => x.as (formAB 0) (.elemMax x.a x.b x.d x.n x.e)
  | 0x06 => x.as (formA 0) (.abs x.a x.d x.n x.e)
  | 0x07 => x.as (formA 0) (.neg x.a x.d x.n x.e)
  | 0x08 => x.as (formAB 1) (.elemShl x.a x.b x.d x.n sat x.e)
  | 0x09 => x.as (formAB 0) (.elemShr x.a x.b x.d x.n x.e)
  | 0x0A => x.as (formAB 0) (.elemSra x.a x.b x.d x.n x.e)
  | 0x0B => x.as (formAB 0) (.elemAnd x.a x.b x.d x.n x.e)
  | 0x0C => x.as (formAB 0) (.elemOr x.a x.b x.d x.n x.e)
  | 0x0D => x.as (formAB 0) (.elemXor x.a x.b x.d x.n x.e)
  | 0x0E => x.as (formA 0) (.not x.a x.d x.n x.e)
  | 0x0F => if 6 ≤ x.m.toNat then .error .unassignedModifier
      else x.as (formAB 3) (.cmp x.a x.b x.d x.n (x.m.extractLsb' 0 3) x.e)
  | 0x10 => x.as (formABC 0) (.sel x.a x.b x.c x.d x.n x.e)
  | 0x11 => x.as (formA 0) (.mov x.a x.d x.n x.e)
  | 0x12 => match imm with
      | some v => x.as ⟨false, false, false, true, 3⟩ (.const x.d x.n (x.m.extractLsb' 0 3) x.e v)
      | none => .error .truncated
  | 0x13 => x.as (formA 0) (.exp2 x.a x.d x.n x.e)
  | 0x14 => x.as (formA 0) (.log2 x.a x.d x.n x.e)
  | 0x15 => x.as (formA 0) (.rcp x.a x.d x.n x.e)
  | 0x16 => x.as (formA 0) (.rsq x.a x.d x.n x.e)
  | 0x17 => x.as (formA 0) (.sqrt x.a x.d x.n x.e)
  | 0x18 => x.as (formAB 0) (.pack x.a x.b x.d x.n x.e)
  | 0x19 => x.as (formAB 0) (.unpack x.a x.b x.d x.n x.e)
  | 0x1A => x.as (formA 2) (.lane x.a x.d x.n (x.m.extractLsb' 0 2) x.e)
  | 0x1B => x.as (formA 0) (.bcast x.a x.d x.n x.e)
  | 0x1C => x.as (formA 0) (.ctxalloc x.a x.d x.n x.e)
  | 0x1D => x.as (formA 0) (.ctxfree x.a x.d x.n x.e)
  | 0x20 => x.as (formA 0) (.itin x.a x.d x.n x.e)
  | 0x21 => x.as (formA 0) (.itnext x.a x.d x.n x.e)
  | 0x22 => x.as (formA 0) (.itout x.a x.d x.n x.e)
  | 0x23 => x.as (formAB 0) (.tcall x.a x.b x.d x.n x.e)
  | 0x24 => x.as (formAB 0) (.tret x.a x.b x.d x.n x.e)
  | 0x25 => if x.n ≠ 0#4 then .error .unusedDestination else x.as (formAB 0) (.setslot x.a x.b x.d x.e)
  | 0x26 => x.as (formAB 0) (.steer x.a x.b x.d x.n x.e)
  | 0x27 => if sat then x.as (formAB 1) (.omerge x.a x.b x.d x.n x.e) else x.as (formAB 1) (.merge x.a x.b x.d x.n x.e)
  | 0x28 => x.as (formAB 0) (.gate x.a x.b x.d x.n x.e)
  | 0x29 => if x.d ≠ 0#3 then .error .unusedDestination else x.as (formA 0) (.fan x.a x.n x.e)
  | 0x2A => x.as (formNone true false false) (.sink x.a x.e)
  | 0x2B => x.as (formAB 0) (.acc x.a x.b x.d x.n x.e)
  | 0x2C => x.as (formAB 0) (.scan x.a x.b x.d x.n x.e)
  | 0x2D => x.as (formNone true true false) (.delay x.a x.b x.e)
  | 0x2E => x.as (formABC 0) (.rowms x.a x.b x.c x.d x.n x.e)
  | 0x2F => if sat then x.as (formABC 1) (.rowscl x.a x.b x.c x.d x.n x.e) else x.as (formAB 1) (.rowfin x.a x.b x.d x.n x.e)
  | _ => .error .unassignedOpcode

/-- An op word of an address generator (R68, R69). -/
def decodeAg (x : OpWord) : Except Reject Instr :=
  let m3 : BitVec 3 := x.m.extractLsb' 0 3
  match x.op.toNat with
  | 0x30 => x.as (formA 3) (.ldt x.a x.d x.n m3 x.e)
  | 0x31 => x.as (formNone true true false) (.stt x.a x.b x.e)
  | 0x32 => x.as (formAB 3) (.ldx x.a x.b x.d x.n m3 x.e)
  | 0x33 => x.as (formNone true true true) (.stx x.a x.b x.c x.e)
  | 0x34 => match amoFnOf m3 with
      | some fn => x.as (formABC 3) (.amox x.a x.b x.c x.d x.n fn x.e)
      | none => .error .unassignedModifier
  | 0x35 => x.as (formA 0) (.tmove x.a x.d x.n x.e)
  | 0x36 => match scopeOf m3 with
      | some sc => x.as (formA 3) (.bndry x.a x.d x.n sc x.e)
      | none => .error .unassignedModifier
  | _ => .error .unassignedOpcode

/-- An op word of a converter (R68, R69). -/
def decodeCv (x : OpWord) : Except Reject Instr :=
  let m3 : BitVec 3 := x.m.extractLsb' 0 3
  match x.op.toNat with
  | 0x30 => x.as (formA 4) (.cvt x.a x.d x.n (x.m.getLsbD 3) m3 x.e)
  | 0x31 => if m3.toNat < 4 then .error .unassignedModifier else x.as (formA 3) (.cvtq x.a x.d x.n m3 x.e)
  | 0x32 => x.as (formA 4) (.cvts x.a x.d x.n (x.m.getLsbD 3) m3 x.e)
  | _ => .error .unassignedOpcode

/-- An op word of a plane array (R68, R69, R151). -/
def decodePa (x : OpWord) : Except Reject Instr :=
  match x.op.toNat with
  | 0x30 => x.as (formNone true false false) (.wsload x.a x.e)
  | 0x31 => x.as (formAB 0) (.mm x.a x.b x.d x.n x.e)
  | 0x32 => x.as (formA 1) (.accrd x.a x.d x.n (x.m.getLsbD 0) x.e)
  | 0x33 => x.as (formNone true false false) (.acczero x.a x.e)
  | _ => .error .unassignedOpcode

/-- An op word of a front element (R68, R69, R151). -/
def decodeFe (x : OpWord) : Except Reject Instr :=
  match x.op.toNat with
  | 0x30 => x.as (formNone true false false) (.fcfg x.a x.e)
  | 0x31 => x.as (formNone true true true) (.fins x.a x.b x.c x.e)
  | 0x32 => x.as (formABC 0) (.fprobe x.a x.b x.c x.d x.n x.e)
  | 0x33 => x.as (formNone true false false) (.fmrg x.a x.e)
  | 0x34 => x.as (formA 0) (.fdrain x.a x.d x.n x.e)
  | 0x35 => x.as ⟨false, false, false, true, 0⟩ (.fcnt x.d x.n x.e)
  | 0x36 => x.as (formNone false false false) (.fclr x.e)
  | _ => .error .unassignedOpcode

/-- An op word of a node of class `c` (R68). -/
def decodeOp (c : NodeClass) (w : W32) (imm : Option W32) : Except Reject Instr :=
  let x := OpWord.of w
  match c with
  | .element => decodeElement x imm
  | .ag => decodeAg x
  | .cv => decodeCv x
  | .pa => decodePa x
  | .fe => decodeFe x

/-- The word takes two slots, the second its immediate (R126). -/
def isConstWord (c : NodeClass) (w : W32) : Bool :=
  decide (c = .element) && decide ((w.extractLsb' 26 6).toNat = 0x12)

/-! ### One decoder for a table word -/

/-- The classes of words the table gives bits to. A sequencer word and an op word may have the same bits: which one a
word is follows from where it stands, never from the word. -/
inductive WordClass where
  | sequencer
  | op (c : NodeClass)
  deriving DecidableEq, Repr

/-- A word of class `c` from its bytes, with the bytes that follow. -/
def decodeAs (c : WordClass) (bs : List Byte) : Except Reject (Instr × List Byte) :=
  match c with
  | .sequencer => decodeSeq bs
  | .op k =>
    match takeWord bs with
    | none => .error .truncated
    | some (w, rest) =>
      if isConstWord k w then
        match takeWord rest with
        | none => .error .truncated
        | some (imm, rest') => (decodeOp k w (some imm)).map (·, rest')
      else (decodeOp k w none).map (·, rest)

/-- The classes in the order in which a bare word is tried. -/
def wordClasses : List WordClass :=
  [.sequencer, .op .element, .op .ag, .op .cv, .op .pa, .op .fe]

/-- The first class of `cs` that decodes the bytes, with what it reads. -/
def firstClass (cs : List WordClass) (bs : List Byte) : Option (WordClass × Instr) :=
  match cs with
  | [] => none
  | c :: rest =>
    match decodeAs c bs with
    | .ok (i, _) => some (c, i)
    | .error _ => firstClass rest bs

/-- The bytes of a table word: its `nbits` bits, with zeros above, eight bytes in all, the longest instruction. -/
def tableBytes (nbits w : Nat) : List Byte :=
  let v := w % 2 ^ nbits
  (List.range 8).map fun k => BitVec.ofNat 8 (v / 2 ^ (8 * k))

/-- The instruction the decoder reads from a word of the opcode table. Where a word stands for more than one class, the
sequencer's reading is the one answered, then the element's, then AG, CV, PA and FE (log entry 7). -/
def decodeTableWord (nbits w : Nat) : Option Instr :=
  (firstClass wordClasses (tableBytes nbits w)).map Prod.snd

/-! ### Encoding -/

/-- Format SR (R58). -/
def encSR (op : BitVec 6) (d a b : Reg) (fn : BitVec 11) : W32 := op ++ d ++ a ++ b ++ fn

/-- Formats SI and SB (R58). -/
def encSI (op : BitVec 6) (d a : Reg) (i : BitVec 16) : W32 := op ++ d ++ a ++ i

/-- Format SJ (R58). -/
def encSJ (op : BitVec 6) (o : BitVec 26) : W32 := op ++ o

/-- Layout SX (R65). -/
def encSX (op : BitVec 6) (d a b : Reg) (sub : BitVec 3) : W32 := op ++ d ++ a ++ b ++ 0#8 ++ sub

/-- The code of a scope (R62). -/
def Scope.code : Scope → BitVec 3
  | .tile => 0 | .sheet => 1 | .bh => 2 | .dev => 3 | .sys => 4

/-- The code of an ordering (R62). -/
def MemOrd.code : MemOrd → BitVec 2
  | .plain => 0 | .acq => 1 | .rel => 2

/-- The code of a width (R62). -/
def Width.code : Width → BitVec 2
  | .b => 0 | .h => 1 | .w => 2 | .d => 3

/-- The code of an atomic function (R62, R69). -/
def AmoFn.code : AmoFn → BitVec 3
  | .add => 0 | .min => 1 | .max => 2 | .and => 3 | .or => 4 | .xchg => 5

/-- The two words of a memory pair (R62). -/
def encPair (op : BitVec 6) (d a : Reg) (off : BitVec 16) (wd : Width) (ord : MemOrd) (sc : Scope) (afn : BitVec 3)
    (gb : Reg) : List W32 :=
  [op ++ d ++ a ++ off, 0#16 ++ wd.code ++ ord.code ++ sc.code ++ afn ++ 0#1 ++ gb]

/-- The bit of a flag. -/
def bit1 (b : Bool) : BitVec 1 := BitVec.ofBool b

/-- An op word from its fields (R67). -/
def encOp (op : BitVec 6) (a b c : Src) (d : Dst) (n : BitVec 4) (m : BitVec 5) (e : Bool) : W32 :=
  op ++ a ++ b ++ c ++ d ++ n ++ m ++ bit1 e ++ 0#4

/-- A mod field whose bit 0 is a flag (R69). -/
def modBit (b : Bool) : BitVec 5 := 0#4 ++ bit1 b

/-- A mod field whose low three bits are given (R69). -/
def mod3 (v : BitVec 3) : BitVec 5 := 0#2 ++ v

/-- The words of an instruction, in address or slot order; an event has none (R58–R69). -/
def encode : Instr → List W32
  | .add d a b => [encSR 0x01 d a b 0x000]
  | .sub d a b => [encSR 0x01 d a b 0x001]
  | .and d a b => [encSR 0x01 d a b 0x002]
  | .or d a b => [encSR 0x01 d a b 0x003]
  | .xor d a b => [encSR 0x01 d a b 0x004]
  | .shl d a b => [encSR 0x01 d a b 0x005]
  | .shr d a b => [encSR 0x01 d a b 0x006]
  | .sra d a b => [encSR 0x01 d a b 0x007]
  | .mul d a b => [encSR 0x01 d a b 0x008]
  | .mulh d a b => [encSR 0x01 d a b 0x009]
  | .mulhu d a b => [encSR 0x01 d a b 0x00A]
  | .div d a b => [encSR 0x01 d a b 0x00B]
  | .divu d a b => [encSR 0x01 d a b 0x00C]
  | .rem d a b => [encSR 0x01 d a b 0x00D]
  | .remu d a b => [encSR 0x01 d a b 0x00E]
  | .min d a b => [encSR 0x01 d a b 0x00F]
  | .max d a b => [encSR 0x01 d a b 0x010]
  | .minu d a b => [encSR 0x01 d a b 0x011]
  | .maxu d a b => [encSR 0x01 d a b 0x012]
  | .slt d a b => [encSR 0x01 d a b 0x013]
  | .sltu d a b => [encSR 0x01 d a b 0x014]
  | .clz d a => [encSR 0x01 d a 0 0x015]
  | .popc d a => [encSR 0x01 d a 0 0x016]
  | .addi d a i => [encSI 0x02 d a i]
  | .andi d a i => [encSI 0x03 d a i]
  | .ori d a i => [encSI 0x04 d a i]
  | .xori d a i => [encSI 0x05 d a i]
  | .slti d a i => [encSI 0x06 d a i]
  | .shli d a sh => [encSI 0x07 d a (0#10 ++ sh)]
  | .shri d a sh => [encSI 0x08 d a (0#10 ++ sh)]
  | .srai d a sh => [encSI 0x09 d a (0#10 ++ sh)]
  | .lui d i => [encSI 0x0A d 0 i]
  | .beq a b o => [encSI 0x10 a b o]
  | .bne a b o => [encSI 0x11 a b o]
  | .blt a b o => [encSI 0x12 a b o]
  | .bge a b o => [encSI 0x13 a b o]
  | .bltu a b o => [encSI 0x14 a b o]
  | .bgeu a b o => [encSI 0x15 a b o]
  | .jmp o => [encSJ 0x16 o]
  | .jr a => [encSR 0x17 0 a 0 0]
  | .call o => [encSJ 0x18 o]
  | .callr a => [encSR 0x19 0 a 0 0]
  | .ret => [encSJ 0x1A 0]
  | .loop a o => [encSI 0x1B a 0 o]
  | .ld d a off wd ord sc => encPair 0x20 d a off wd ord sc 0 0
  | .st d a off wd ord sc => encPair 0x21 d a off wd ord sc 0 0
  | .amo d a b off wd ord sc fn => encPair 0x22 d a off wd ord sc fn.code b
  | .cas d a b off wd ord sc => encPair 0x23 d a off wd ord sc 0 b
  | .fence sc => [0x24#6 ++ sc.code ++ 0#23]
  | .dset n a => [encSR 0x28 n a 0 0]
  | .strin k n x => [encSR 0x29 k n x 0]
  | .strout k n x => [encSR 0x2A k n x 0]
  | .stbar => [encSJ 0x2B 0]
  | .bsel a => [encSR 0x2C 0 a 0 0]
  | .scancel x => [encSR 0x2D x 0 0 0]
  | .amsg a f => [encSR 0x30 0 a 0 f]
  | .await d a => [encSR 0x31 d a 0 0]
  | .apoll d a => [encSR 0x32 d a 0 0]
  | .qpush k a b => [encSR 0x34 k a b 0]
  | .qpop d k => [encSR 0x35 d k 0 0]
  | .qcnt d k => [encSR 0x36 d k 0 0]
  | .qctl k a b => [encSR 0x37 k a b 0]
  | .qbind k o => [encSI 0x38 k 0 o]
  | .xq d a b => [encSR 0x39 d a b 0]
  | .fload d a => [encSX 0x3A d a 0 0]
  | .fplace d a b => [encSX 0x3A d a b 1]
  | .frun a => [encSX 0x3A 0 a 0 2]
  | .fhalt => [encSX 0x3A 0 0 0 3]
  | .bell => [encSX 0x3A 0 0 0 4]
  | .flay d a => [encSX 0x3A d a 0 5]
  | .bar a => [encSX 0x3B 0 a 0 0]
  | .evsig a b => [encSX 0x3B 0 a b 1]
  | .evwait d a => [encSX 0x3B d a 0 2]
  | .csrr d c => [0x3E#6 ++ 0#1 ++ d ++ 0#4 ++ c]
  | .csrw a c => [0x3E#6 ++ 1#1 ++ a ++ 0#4 ++ c]
  | .trap c => [0x3F#6 ++ c ++ 0#7 ++ 0#3]
  | .eret => [encSX 0x3F 0 0 0 1]
  | .wfi => [encSX 0x3F 0 0 0 2]
  | .yield => [encSX 0x3F 0 0 0 3]
  | .brk => [encSX 0x3F 0 0 0 4]
  | .nop => [encSX 0x3F 0 0 0 5]
  | .elemAdd a b d n sat e => [encOp 0x00 a b 0 d n (modBit sat) e]
  | .elemSub a b d n sat e => [encOp 0x01 a b 0 d n (modBit sat) e]
  | .elemMul a b d n sat e => [encOp 0x02 a b 0 d n (modBit sat) e]
  | .fma a b c d n sat e => [encOp 0x03 a b c d n (modBit sat) e]
  | .elemMin a b d n e => [encOp 0x04 a b 0 d n 0 e]
  | .elemMax a b d n e => [encOp 0x05 a b 0 d n 0 e]
  | .abs a d n e => [encOp 0x06 a 0 0 d n 0 e]
  | .neg a d n e => [encOp 0x07 a 0 0 d n 0 e]
  | .elemShl a b d n sat e => [encOp 0x08 a b 0 d n (modBit sat) e]
  | .elemShr a b d n e => [encOp 0x09 a b 0 d n 0 e]
  | .elemSra a b d n e => [encOp 0x0A a b 0 d n 0 e]
  | .elemAnd a b d n e => [encOp 0x0B a b 0 d n 0 e]
  | .elemOr a b d n e => [encOp 0x0C a b 0 d n 0 e]
  | .elemXor a b d n e => [encOp 0x0D a b 0 d n 0 e]
  | .not a d n e => [encOp 0x0E a 0 0 d n 0 e]
  | .cmp a b d n cc e => [encOp 0x0F a b 0 d n (mod3 cc) e]
  | .sel a b c d n e => [encOp 0x10 a b c d n 0 e]
  | .mov a d n e => [encOp 0x11 a 0 0 d n 0 e]
  | .const d n tag e imm => [encOp 0x12 0 0 0 d n (mod3 tag) e, imm]
  | .exp2 a d n e => [encOp 0x13 a 0 0 d n 0 e]
  | .log2 a d n e => [encOp 0x14 a 0 0 d n 0 e]
  | .rcp a d n e => [encOp 0x15 a 0 0 d n 0 e]
  | .rsq a d n e => [encOp 0x16 a 0 0 d n 0 e]
  | .sqrt a d n e => [encOp 0x17 a 0 0 d n 0 e]
  | .pack a b d n e => [encOp 0x18 a b 0 d n 0 e]
  | .unpack a b d n e => [encOp 0x19 a b 0 d n 0 e]
  | .lane a d n l e => [encOp 0x1A a 0 0 d n (0#3 ++ l) e]
  | .bcast a d n e => [encOp 0x1B a 0 0 d n 0 e]
  | .ctxalloc a d n e => [encOp 0x1C a 0 0 d n 0 e]
  | .ctxfree a d n e => [encOp 0x1D a 0 0 d n 0 e]
  | .itin a d n e => [encOp 0x20 a 0 0 d n 0 e]
  | .itnext a d n e => [encOp 0x21 a 0 0 d n 0 e]
  | .itout a d n e => [encOp 0x22 a 0 0 d n 0 e]
  | .tcall a b d n e => [encOp 0x23 a b 0 d n 0 e]
  | .tret a b d n e => [encOp 0x24 a b 0 d n 0 e]
  | .setslot a b d e => [encOp 0x25 a b 0 d 0 0 e]
  | .steer a b d n e => [encOp 0x26 a b 0 d n 0 e]
  | .merge a b d n e => [encOp 0x27 a b 0 d n 0 e]
  | .omerge a b d n e => [encOp 0x27 a b 0 d n 1 e]
  | .gate a b d n e => [encOp 0x28 a b 0 d n 0 e]
  | .fan a n e => [encOp 0x29 a 0 0 0 n 0 e]
  | .sink a e => [encOp 0x2A a 0 0 0 0 0 e]
  | .acc a b d n e => [encOp 0x2B a b 0 d n 0 e]
  | .scan a b d n e => [encOp 0x2C a b 0 d n 0 e]
  | .delay a b e => [encOp 0x2D a b 0 0 0 0 e]
  | .rowms a b c d n e => [encOp 0x2E a b c d n 0 e]
  | .rowfin a b d n e => [encOp 0x2F a b 0 d n 0 e]
  | .rowscl a b c d n e => [encOp 0x2F a b c d n 1 e]
  | .ldt a d n tag e => [encOp 0x30 a 0 0 d n (mod3 tag) e]
  | .stt a b e => [encOp 0x31 a b 0 0 0 0 e]
  | .ldx a b d n tag e => [encOp 0x32 a b 0 d n (mod3 tag) e]
  | .stx a b c e => [encOp 0x33 a b c 0 0 0 e]
  | .amox a b c d n fn e => [encOp 0x34 a b c d n (mod3 fn.code) e]
  | .tmove a d n e => [encOp 0x35 a 0 0 d n 0 e]
  | .bndry a d n sc e => [encOp 0x36 a 0 0 d n (mod3 sc.code) e]
  | .cvt a d n sat tag e => [encOp 0x30 a 0 0 d n (0#1 ++ bit1 sat ++ tag) e]
  | .cvtq a d n target e => [encOp 0x31 a 0 0 d n (mod3 target) e]
  | .cvts a d n sat tag e => [encOp 0x32 a 0 0 d n (0#1 ++ bit1 sat ++ tag) e]
  | .wsload a e => [encOp 0x30 a 0 0 0 0 0 e]
  | .mm a b d n e => [encOp 0x31 a b 0 d n 0 e]
  | .accrd a d n sat e => [encOp 0x32 a 0 0 d n (modBit sat) e]
  | .acczero a e => [encOp 0x33 a 0 0 0 0 0 e]
  | .fcfg a e => [encOp 0x30 a 0 0 0 0 0 e]
  | .fins a b c e => [encOp 0x31 a b c 0 0 0 e]
  | .fprobe a b c d n e => [encOp 0x32 a b c d n 0 e]
  | .fmrg a e => [encOp 0x33 a 0 0 0 0 0 e]
  | .fdrain a d n e => [encOp 0x34 a 0 0 d n 0 e]
  | .fcnt d n e => [encOp 0x35 0 0 0 d n 0 e]
  | .fclr e => [encOp 0x36 0 0 0 0 0 0 e]
  | .waitingInstructionRetire _sheet _ctx => []
  | .handlerInvocation _sheet _ctx => []
  | .queuePushAccept _sheet _q => []
  | .galleyRefill _sheet _q => []
  | .colourWidthChange _inst _colour => []
  | .loUpdateArrival _sheet _tile _ctx _colour => []
  | .mmInterrupt _n => []
  | .mmResume _n => []
  | .tokenArrival _inst _edge => []
  | .matchingStoreAdmit _n _ctx _port _place => []
  | .firingStart _n => []
  | .streamPoint _stream => []
  | .wakeTokenArrival _tag => []
  | .ceCopy _op _units => []
  | .ceCopyc _op _units => []
  | .ceFill _op _units => []
  | .cePlane _op _units => []
  | .ceGather _op _units => []
  | .ceScatter _op _units => []
  | .coCompose _op _units => []
  | .lePut _op _units _answer => []
  | .leGet _op _data _answer => []
  | .leLamo _op _old _answer => []
  | .leLsig _op _answer => []
  | .engineCompletion _op => []
  | .spanRequestArrival _r => []
  | .spanFlitError _port _f => []
  | .spanVcEscape _packet => []
  | .kick _vf _v => []
  | .launchSlotReread _vf => []
  | .wakeMapped _vf _tag => []
  | .wakeInvalid _vf _tag => []
  | .superGrant _vf _stamp _units => []
  | .superEnd _vf _stamp _units => []
  | .tlbinvVa _vf _v => []
  | .tlbinvAll _vf => []
  | .tlbinvDone _vf => []
  | .lrbaseWrite _vf _v => []
  | .crbaseWrite _vf _v => []
  | .erbaseWrite _vf _v => []
  | .statusRead _vf => []
  | .pferrRead => []
  | .registerWrite _fn _off _v => []
  | .tenantRecordWrite _tag _v => []
  | .windowEntryWrite _bank _entry _v => []
  | .filterEntryWrite _entry _v => []
  | .frameTableWrite _frame _v => []
  | .bulkheadAssign _bh _tag => []
  | .pllRelockDone _bh => []
  | .bulkheadRelease _bh => []
  | .bulkheadReleaseDone _bh => []
  | .bulkheadReset _bh _release => []
  | .resetLineRelease _bh => []
  | .zeroisationDone _bh _readBackFails => []
  | .timeSliceExpiry _bh => []
  | .bulkheadSwitch _bh => []
  | .hostRead _fn _bar _off _size _path => []
  | .hostWrite _fn _bar _off _data _path => []
  | .hostAtomic _fn _bar _off _size _op _operand _compare _path => []
  | .vfFlr _vf => []
  | .hostLinkRetrain _link _up => []
  | .powerGood _images => []
  | .perstDeassert => []
  | .memoryTrained _u => []
  | .bulkheadBringup _bh => []
  | .cxlFrameResident _frame => []
  | .cxlFrameLost _firstFrame _frames _lasting => []
  | .capMessage _m => []
  | .capHorizonExpiry => []
  | .capScaleTick _millivolts => []
  | .sensorSample _bh _temps _currents => []
  | .spdmGetMeasurements _vf _index => []
  | .pldmBaseDiscovery => []
  | .pldmSensorRead _sensor => []
  | .pldmFirmwareUpdate _image => []
  | .rankRefresh _inst => []
  | .phasePlace _die => []
  | .tileConfigComplete _inst _sheet _tile => []
  | .phaseEnd _inst => []
  | .completionRecordPost _vf => []
  | .eventRecordPost _vf => []
  | .backfillLimit _die => []
  | .quantumExhausted _slice => []
  | .workAllowanceDraw _sheet _ctx => []
  | .budgetReport _inst => []
  | .energyRefresh _inst => []
  | .allowanceWindow _sheet => []
  | .rateWindowEnd _inst => []
  | .slugTaken _inst _change => []
  | .watchdogExpiry _inst => []
  | .cutTimer _inst => []
  | .nodeSave _inst _n => []
  | .cutComplete _inst _failingLine => []
  | .tokenParityError _inst _site => []
  | .nodeMachineCheck _site => []
  | .rollbackRestoreDone _inst _areaFails => []
  | .reportDelivery _inst => []
  | .thawArrival _inst _sheet => []
  | .scrubLine _addr _find => []
  | .illegalInstruction _w => []
  | .instructionFetchFault => []
  | .sharedUnitFault _u _again => []
  | .parkComplete _bh => []
  | .restoreComplete _bh => []
  | .configurationRequest => []
  | .tdispRequest _vf _m => []

/-- The class of words an instruction belongs to; an event belongs to none. -/
def Instr.wordClass : Instr → Option WordClass
  | .add _d _a _b => some .sequencer
  | .sub _d _a _b => some .sequencer
  | .and _d _a _b => some .sequencer
  | .or _d _a _b => some .sequencer
  | .xor _d _a _b => some .sequencer
  | .shl _d _a _b => some .sequencer
  | .shr _d _a _b => some .sequencer
  | .sra _d _a _b => some .sequencer
  | .mul _d _a _b => some .sequencer
  | .mulh _d _a _b => some .sequencer
  | .mulhu _d _a _b => some .sequencer
  | .div _d _a _b => some .sequencer
  | .divu _d _a _b => some .sequencer
  | .rem _d _a _b => some .sequencer
  | .remu _d _a _b => some .sequencer
  | .min _d _a _b => some .sequencer
  | .max _d _a _b => some .sequencer
  | .minu _d _a _b => some .sequencer
  | .maxu _d _a _b => some .sequencer
  | .slt _d _a _b => some .sequencer
  | .sltu _d _a _b => some .sequencer
  | .clz _d _a => some .sequencer
  | .popc _d _a => some .sequencer
  | .addi _d _a _i => some .sequencer
  | .andi _d _a _i => some .sequencer
  | .ori _d _a _i => some .sequencer
  | .xori _d _a _i => some .sequencer
  | .slti _d _a _i => some .sequencer
  | .shli _d _a _sh => some .sequencer
  | .shri _d _a _sh => some .sequencer
  | .srai _d _a _sh => some .sequencer
  | .lui _d _i => some .sequencer
  | .beq _a _b _o => some .sequencer
  | .bne _a _b _o => some .sequencer
  | .blt _a _b _o => some .sequencer
  | .bge _a _b _o => some .sequencer
  | .bltu _a _b _o => some .sequencer
  | .bgeu _a _b _o => some .sequencer
  | .jmp _o => some .sequencer
  | .jr _a => some .sequencer
  | .call _o => some .sequencer
  | .callr _a => some .sequencer
  | .ret => some .sequencer
  | .loop _a _o => some .sequencer
  | .ld _d _a _off _wd _ord _sc => some .sequencer
  | .st _d _a _off _wd _ord _sc => some .sequencer
  | .amo _d _a _b _off _wd _ord _sc _fn => some .sequencer
  | .cas _d _a _b _off _wd _ord _sc => some .sequencer
  | .fence _sc => some .sequencer
  | .dset _n _a => some .sequencer
  | .strin _k _n _x => some .sequencer
  | .strout _k _n _x => some .sequencer
  | .stbar => some .sequencer
  | .bsel _a => some .sequencer
  | .scancel _x => some .sequencer
  | .amsg _a _f => some .sequencer
  | .await _d _a => some .sequencer
  | .apoll _d _a => some .sequencer
  | .qpush _k _a _b => some .sequencer
  | .qpop _d _k => some .sequencer
  | .qcnt _d _k => some .sequencer
  | .qctl _k _a _b => some .sequencer
  | .qbind _k _o => some .sequencer
  | .xq _d _a _b => some .sequencer
  | .fload _d _a => some .sequencer
  | .fplace _d _a _b => some .sequencer
  | .frun _a => some .sequencer
  | .fhalt => some .sequencer
  | .bell => some .sequencer
  | .flay _d _a => some .sequencer
  | .bar _a => some .sequencer
  | .evsig _a _b => some .sequencer
  | .evwait _d _a => some .sequencer
  | .csrr _d _c => some .sequencer
  | .csrw _a _c => some .sequencer
  | .trap _c => some .sequencer
  | .eret => some .sequencer
  | .wfi => some .sequencer
  | .yield => some .sequencer
  | .brk => some .sequencer
  | .nop => some .sequencer
  | .elemAdd _a _b _d _n _sat _e => some (.op .element)
  | .elemSub _a _b _d _n _sat _e => some (.op .element)
  | .elemMul _a _b _d _n _sat _e => some (.op .element)
  | .fma _a _b _c _d _n _sat _e => some (.op .element)
  | .elemMin _a _b _d _n _e => some (.op .element)
  | .elemMax _a _b _d _n _e => some (.op .element)
  | .abs _a _d _n _e => some (.op .element)
  | .neg _a _d _n _e => some (.op .element)
  | .elemShl _a _b _d _n _sat _e => some (.op .element)
  | .elemShr _a _b _d _n _e => some (.op .element)
  | .elemSra _a _b _d _n _e => some (.op .element)
  | .elemAnd _a _b _d _n _e => some (.op .element)
  | .elemOr _a _b _d _n _e => some (.op .element)
  | .elemXor _a _b _d _n _e => some (.op .element)
  | .not _a _d _n _e => some (.op .element)
  | .cmp _a _b _d _n _cc _e => some (.op .element)
  | .sel _a _b _c _d _n _e => some (.op .element)
  | .mov _a _d _n _e => some (.op .element)
  | .const _d _n _tag _e _imm => some (.op .element)
  | .exp2 _a _d _n _e => some (.op .element)
  | .log2 _a _d _n _e => some (.op .element)
  | .rcp _a _d _n _e => some (.op .element)
  | .rsq _a _d _n _e => some (.op .element)
  | .sqrt _a _d _n _e => some (.op .element)
  | .pack _a _b _d _n _e => some (.op .element)
  | .unpack _a _b _d _n _e => some (.op .element)
  | .lane _a _d _n _l _e => some (.op .element)
  | .bcast _a _d _n _e => some (.op .element)
  | .ctxalloc _a _d _n _e => some (.op .element)
  | .ctxfree _a _d _n _e => some (.op .element)
  | .itin _a _d _n _e => some (.op .element)
  | .itnext _a _d _n _e => some (.op .element)
  | .itout _a _d _n _e => some (.op .element)
  | .tcall _a _b _d _n _e => some (.op .element)
  | .tret _a _b _d _n _e => some (.op .element)
  | .setslot _a _b _d _e => some (.op .element)
  | .steer _a _b _d _n _e => some (.op .element)
  | .merge _a _b _d _n _e => some (.op .element)
  | .omerge _a _b _d _n _e => some (.op .element)
  | .gate _a _b _d _n _e => some (.op .element)
  | .fan _a _n _e => some (.op .element)
  | .sink _a _e => some (.op .element)
  | .acc _a _b _d _n _e => some (.op .element)
  | .scan _a _b _d _n _e => some (.op .element)
  | .delay _a _b _e => some (.op .element)
  | .rowms _a _b _c _d _n _e => some (.op .element)
  | .rowfin _a _b _d _n _e => some (.op .element)
  | .rowscl _a _b _c _d _n _e => some (.op .element)
  | .ldt _a _d _n _tag _e => some (.op .ag)
  | .stt _a _b _e => some (.op .ag)
  | .ldx _a _b _d _n _tag _e => some (.op .ag)
  | .stx _a _b _c _e => some (.op .ag)
  | .amox _a _b _c _d _n _fn _e => some (.op .ag)
  | .tmove _a _d _n _e => some (.op .ag)
  | .bndry _a _d _n _sc _e => some (.op .ag)
  | .cvt _a _d _n _sat _tag _e => some (.op .cv)
  | .cvtq _a _d _n _target _e => some (.op .cv)
  | .cvts _a _d _n _sat _tag _e => some (.op .cv)
  | .wsload _a _e => some (.op .pa)
  | .mm _a _b _d _n _e => some (.op .pa)
  | .accrd _a _d _n _sat _e => some (.op .pa)
  | .acczero _a _e => some (.op .pa)
  | .fcfg _a _e => some (.op .fe)
  | .fins _a _b _c _e => some (.op .fe)
  | .fprobe _a _b _c _d _n _e => some (.op .fe)
  | .fmrg _a _e => some (.op .fe)
  | .fdrain _a _d _n _e => some (.op .fe)
  | .fcnt _d _n _e => some (.op .fe)
  | .fclr _e => some (.op .fe)
  | .waitingInstructionRetire _sheet _ctx => none
  | .handlerInvocation _sheet _ctx => none
  | .queuePushAccept _sheet _q => none
  | .galleyRefill _sheet _q => none
  | .colourWidthChange _inst _colour => none
  | .loUpdateArrival _sheet _tile _ctx _colour => none
  | .mmInterrupt _n => none
  | .mmResume _n => none
  | .tokenArrival _inst _edge => none
  | .matchingStoreAdmit _n _ctx _port _place => none
  | .firingStart _n => none
  | .streamPoint _stream => none
  | .wakeTokenArrival _tag => none
  | .ceCopy _op _units => none
  | .ceCopyc _op _units => none
  | .ceFill _op _units => none
  | .cePlane _op _units => none
  | .ceGather _op _units => none
  | .ceScatter _op _units => none
  | .coCompose _op _units => none
  | .lePut _op _units _answer => none
  | .leGet _op _data _answer => none
  | .leLamo _op _old _answer => none
  | .leLsig _op _answer => none
  | .engineCompletion _op => none
  | .spanRequestArrival _r => none
  | .spanFlitError _port _f => none
  | .spanVcEscape _packet => none
  | .kick _vf _v => none
  | .launchSlotReread _vf => none
  | .wakeMapped _vf _tag => none
  | .wakeInvalid _vf _tag => none
  | .superGrant _vf _stamp _units => none
  | .superEnd _vf _stamp _units => none
  | .tlbinvVa _vf _v => none
  | .tlbinvAll _vf => none
  | .tlbinvDone _vf => none
  | .lrbaseWrite _vf _v => none
  | .crbaseWrite _vf _v => none
  | .erbaseWrite _vf _v => none
  | .statusRead _vf => none
  | .pferrRead => none
  | .registerWrite _fn _off _v => none
  | .tenantRecordWrite _tag _v => none
  | .windowEntryWrite _bank _entry _v => none
  | .filterEntryWrite _entry _v => none
  | .frameTableWrite _frame _v => none
  | .bulkheadAssign _bh _tag => none
  | .pllRelockDone _bh => none
  | .bulkheadRelease _bh => none
  | .bulkheadReleaseDone _bh => none
  | .bulkheadReset _bh _release => none
  | .resetLineRelease _bh => none
  | .zeroisationDone _bh _readBackFails => none
  | .timeSliceExpiry _bh => none
  | .bulkheadSwitch _bh => none
  | .hostRead _fn _bar _off _size _path => none
  | .hostWrite _fn _bar _off _data _path => none
  | .hostAtomic _fn _bar _off _size _op _operand _compare _path => none
  | .vfFlr _vf => none
  | .hostLinkRetrain _link _up => none
  | .powerGood _images => none
  | .perstDeassert => none
  | .memoryTrained _u => none
  | .bulkheadBringup _bh => none
  | .cxlFrameResident _frame => none
  | .cxlFrameLost _firstFrame _frames _lasting => none
  | .capMessage _m => none
  | .capHorizonExpiry => none
  | .capScaleTick _millivolts => none
  | .sensorSample _bh _temps _currents => none
  | .spdmGetMeasurements _vf _index => none
  | .pldmBaseDiscovery => none
  | .pldmSensorRead _sensor => none
  | .pldmFirmwareUpdate _image => none
  | .rankRefresh _inst => none
  | .phasePlace _die => none
  | .tileConfigComplete _inst _sheet _tile => none
  | .phaseEnd _inst => none
  | .completionRecordPost _vf => none
  | .eventRecordPost _vf => none
  | .backfillLimit _die => none
  | .quantumExhausted _slice => none
  | .workAllowanceDraw _sheet _ctx => none
  | .budgetReport _inst => none
  | .energyRefresh _inst => none
  | .allowanceWindow _sheet => none
  | .rateWindowEnd _inst => none
  | .slugTaken _inst _change => none
  | .watchdogExpiry _inst => none
  | .cutTimer _inst => none
  | .nodeSave _inst _n => none
  | .cutComplete _inst _failingLine => none
  | .tokenParityError _inst _site => none
  | .nodeMachineCheck _site => none
  | .rollbackRestoreDone _inst _areaFails => none
  | .reportDelivery _inst => none
  | .thawArrival _inst _sheet => none
  | .scrubLine _addr _find => none
  | .illegalInstruction _w => none
  | .instructionFetchFault => none
  | .sharedUnitFault _u _again => none
  | .parkComplete _bh => none
  | .restoreComplete _bh => none
  | .configurationRequest => none
  | .tdispRequest _vf _m => none

/-- The bytes of an instruction's words. -/
def encodeBytes (i : Instr) : List Byte := (encode i).flatMap bytesOfWord

end Sys2Proof
end

