-- ==== Sys2Proof/Machine/Ops.lean ====
section
/-! DEFINITION. The named operations over the units of the device: where things stand (R6, R9), reading and writing the
registers of a thread (R29, R37), taking an exception and returning from one (R85, R303–R306), reports to the base thread
(R305), and the end of a launch on a fault (R303). -/

namespace Sys2Proof.Machine

/-! ### Geometry (R6, R9) -/

/-- Package column of a sheet (R73). -/
def packX (s : Nat) : Nat := 8 * (s / 64 % 2) + s % 8

/-- Package row of a sheet (R73). -/
def packY (s : Nat) : Nat := 8 * (s / 64 / 2) + s / 8 % 8

/-- The sheet at a package column and row (R9). -/
def sheetAt (x y : Nat) : Nat := 64 * (2 * (y / 8) + x / 8) + 8 * (y % 8) + x % 8

/-- The bulkhead of a sheet (R6). -/
def bhOf (s : Nat) : Nat := 16 * (s / 64) + 4 * (s / 8 % 8 / 2) + s % 8 / 2

/-- The four sheets of a bulkhead, in sheet index order (R6). -/
def bhSheets (b : Nat) : List Nat :=
  let s := 64 * (b / 16) + 16 * (b % 16 / 4) + 2 * (b % 4)
  [s, s + 1, s + 8, s + 9]

/-- The sheets of a chase, in chase-relative index order (R105). -/
def chaseSheets (base w h : Nat) : List Nat :=
  (List.range (w * h)).map fun j => sheetAt (packX base + j % w) (packY base + j / w)

/-- The sheets of an instance's chase. -/
def Inst.sheets (i : Inst) : List Nat := chaseSheets i.base i.w i.h

/-- The chase-relative index of a sheet (R105). -/
def Inst.indexOf (i : Inst) (sheet : Nat) : Nat := i.sheets.findIdx fun s => decide (s = sheet)

/-- The bulkheads a chase lies on. -/
def Inst.bulkheads (i : Inst) : List Nat := (i.sheets.map bhOf).eraseDups

/-- Start of the code region of a context as its own thread names it (R82). -/
def codeBase (ctx : Nat) : Nat := 0xFF00000001300000 + 0x3C000 * ctx

/-- Start of the pop buffer of a context, an offset in own SS (R83). -/
def popBuffer (ctx : Nat) : Nat := 0x3F0000 + 0x20 * ctx

/-- The location of own-sheet offset `off` of a sheet: TS from 0, SS from 0x100_0000 (R39). -/
def sheetLoc (sheet off : Nat) : Nat := 0xFF00000200000000 + sheet * 0x2000000 + off

/-- The location of an offset in own SS. -/
def ssLoc (sheet off : Nat) : Nat := sheetLoc sheet (0x1000000 + off)

/-- The location of an offset in a DS bank (R39). -/
def dsLoc (bank off : Nat) : Nat := 0xFF00000100000000 + bank * 0x800000 + off

/-! ### Units by number -/

/-- A sheet; one that is not listed is as after zeroisation. -/
def State.sheet (s : State) (n : Nat) : Sheet := agetD s.sheets n Sheet.reset

/-- The state with one sheet replaced. -/
def State.setSheet (s : State) (n : Nat) (v : Sheet) : State := { s with sheets := aset s.sheets n v }

/-- A thread of a sheet. -/
def State.thread (s : State) (sheet ctx : Nat) : Thread := (s.sheet sheet).threads.get ctx

/-- The state with one thread replaced. -/
def State.setThread (s : State) (sheet ctx : Nat) (t : Thread) : State :=
  s.setSheet sheet { s.sheet sheet with threads := (s.sheet sheet).threads.set ctx t }

/-- The thread that acts. -/
def State.cur (s : State) : Thread := s.thread s.curSheet s.curCtx

/-- The state with the acting thread replaced. -/
def State.setCur (s : State) (t : Thread) : State := s.setThread s.curSheet s.curCtx t

/-- A tile. -/
def State.tile (s : State) (sheet tile : Nat) : Tile := agetD s.tiles (sheet, tile) Tile.reset

/-- The state with one tile replaced. -/
def State.setTile (s : State) (sheet tile : Nat) (v : Tile) : State := { s with tiles := aset s.tiles (sheet, tile) v }

/-- A node. -/
def State.node (s : State) (n : NodeId) : Node := agetD s.nodes n Node.reset

/-- The state with one node replaced. -/
def State.setNode (s : State) (n : NodeId) (v : Node) : State := { s with nodes := aset s.nodes n v }

/-- What a node keeps for a context. -/
def State.nodeCtx (s : State) (n : NodeId) (ctx : Nat) : NodeCtx := (s.node n).ctxs.get ctx

/-- The state with what a node keeps for one context replaced. -/
def State.setNodeCtx (s : State) (n : NodeId) (ctx : Nat) (v : NodeCtx) : State :=
  s.setNode n { s.node n with ctxs := (s.node n).ctxs.set ctx v }

/-- A bulkhead. -/
def State.bulkhead (s : State) (b : Nat) : Bulkhead := agetD s.bulkheads b Bulkhead.reset

/-- The state with one bulkhead replaced. -/
def State.setBulkhead (s : State) (b : Nat) (v : Bulkhead) : State := { s with bulkheads := aset s.bulkheads b v }

/-- The registers of a VF. -/
def State.vf (s : State) (v : Nat) : Vf := agetD s.vfs v Vf.reset

/-- The state with one VF replaced. -/
def State.setVf (s : State) (n : Nat) (v : Vf) : State := { s with vfs := aset s.vfs n v }

/-- The state with one instance replaced. -/
def State.setInst (s : State) (id : Nat) (i : Inst) : State := { s with insts := aset s.insts id i }

/-- The state with one slice replaced. -/
def State.setSlice (s : State) (id : Nat) (x : Slice) : State := { s with slices := aset s.slices id x }

/-- The state with one instance changed, if it exists. -/
def State.updInst (s : State) (id : Nat) (f : Inst → Inst) : State :=
  match aget? s.insts id with
  | some i => s.setInst id (f i)
  | none => s

/-- The state with one slice changed, if it exists. -/
def State.updSlice (s : State) (id : Nat) (f : Slice → Slice) : State :=
  match aget? s.slices id with
  | some x => s.setSlice id (f x)
  | none => s

/-- The first instance of a list that has the sheet in its chase and the context. -/
def findInst (l : Assoc Nat Inst) (sheet ctx : Nat) : Option (Nat × Inst) :=
  match l with
  | [] => none
  | (id, i) :: r => if decide (i.ctx = ctx) && i.sheets.contains sheet then some (id, i) else findInst r sheet ctx

/-- The instance that a context of a sheet belongs to. -/
def State.instAt (s : State) (sheet ctx : Nat) : Option (Nat × Inst) := findInst s.insts sheet ctx

/-- The instance of the acting thread. -/
def State.curInst (s : State) : Option (Nat × Inst) := s.instAt s.curSheet s.curCtx

/-- The instance of a context of a sheet is being restored: nothing of it moves (R315). -/
def State.restoringAt (s : State) (sheet ctx : Nat) : Bool := ((s.instAt sheet ctx).map fun p => p.2.restoring).getD false

/-- The number of the acting thread's instance; 0 where it has none. -/
def State.curInstId (s : State) : Nat := (s.curInst.map Prod.fst).getD 0

/-- The tenant of a context of a sheet: its instance's, else the holder of the bulkhead (R37, R275). -/
def State.tenantAt (s : State) (sheet ctx : Nat) : Nat :=
  match s.instAt sheet ctx with
  | some (_, i) => i.tenant
  | none => (s.bulkhead (bhOf sheet)).tag.toNat

/-- The tenant of a VF (R273): the one whose active record names it. -/
def State.vfTenant (s : State) (vf : Nat) : Nat :=
  ((s.drover.records.find? fun r => r.2.getLsbD 343 && r.2.getLsbD (352 + vf)).map Prod.fst).getD 0

/-! ### Registers of the acting thread -/

/-- A general register; g0 reads zero (R29). -/
def Thread.reg (t : Thread) (r : Reg) : Word := if r = 0#5 then 0 else t.regs[r.toNat]'r.isLt

/-- A write to a general register; a write to g0 is discarded (R29). -/
def Thread.setReg (t : Thread) (r : Reg) (v : Word) : Thread :=
  if r = 0#5 then t else { t with regs := t.regs.set r.toNat v r.isLt }

/-- A general register of the acting thread. -/
def State.reg (s : State) (r : Reg) : Word := s.cur.reg r

/-- The acting thread moves on to the next word, or past both words of a pair. -/
def Thread.advance (t : Thread) (n : Nat) : Thread := { t with pc := t.pc + BitVec.ofNat 64 n }

/-- A single-word instruction whose whole effect is a value in a register. -/
def State.writeNext (s : State) (d : Reg) (v : Word) : State := s.setCur ((s.cur.setReg d v).advance 4)

/-- A single-word instruction that only moves on. -/
def State.advance (s : State) : State := s.setCur (s.cur.advance 4)

/-- The acting thread goes to an address. -/
def State.goto (s : State) (pc : Word) : State := s.setCur { s.cur with pc := pc }

/-- The acting thread waits; it issues nothing meanwhile (R84). -/
def State.waitFor (s : State) (w : Wait) : State := s.setCur { s.cur with wait := some w }

/-- The acting thread waits no more. -/
def State.endWait (s : State) : State := s.setCur { s.cur with wait := none }

/-! ### Fault kinds (R300) -/

def kIllegal : BitVec 8 := 0x01
def kIllegalOp : BitVec 8 := 0x02
def kFmt : BitVec 8 := 0x03
def kDuptag : BitVec 8 := 0x04
def kStall : BitVec 8 := 0x05
def kBudget : BitVec 8 := 0x06
def kStackOvf : BitVec 8 := 0x07
def kStackUnf : BitVec 8 := 0x08
def kXlate : BitVec 8 := 0x09
def kAccess : BitVec 8 := 0x0A
def kAlign : BitVec 8 := 0x0B
def kDoubleFault : BitVec 8 := 0x0C
def kDataLost : BitVec 8 := 0x0D
def kLaunchTorn : BitVec 8 := 0x0E
def kTrap : BitVec 8 := 0x10
def kBreak : BitVec 8 := 0x11
def kBhRetired : BitVec 8 := 0x12

/-- The fault kinds that are written (R300). -/
def faultKinds : List (BitVec 8) :=
  [kIllegal, kIllegalOp, kFmt, kDuptag, kStall, kBudget, kStackOvf, kStackUnf, kXlate, kAccess, kAlign, kDoubleFault, kDataLost,
   kLaunchTorn, kTrap, kBreak, kBhRetired]

/-- One of the fault kinds, for a place at which no rule says which (R300). -/
def kindAt (k : Nat) : BitVec 8 := faultKinds.getD (k % 17) kDataLost

/-- The kind with which a launch ends when its bulkhead is reset or its TDI is in ERROR: one of R300's, no rule says which (R295,
R299). -/
def kReset : BitVec 8 := kindAt Config.resetChoice

/-- No cycle of the sheet's bulkhead passes: its PLL relocks (R285). -/
def State.stopped (s : State) (sheet : Nat) : Bool := (s.bulkhead (bhOf sheet)).relocking

/-! ### Lists of things that belong to an instance -/

/-- A waiting access belongs to a sheet and context. -/
def Staller.isOf (w : Staller) (s : State) (id ctx : Nat) (sheets : List Nat) : Bool :=
  match w with
  | .thread sh c => decide (c = ctx) && sheets.contains sh
  | .ag n => sheets.contains n.sheet &&
      (match (s.node n).running with
       | some f => decide (f.ctx = ctx)
       | none => false)
  | .stream x => (match aget? s.streams x with
       | some st => decide (st.inst = id)
       | none => false)
  | .engine _ => false

/-- A node without a context: what it keeps for the context is gone, its firings are gone, its banks are free (R10,
R154). -/
def Node.dropCtx (n : Node) (ctx : Nat) : Node :=
  let free (b : Bank) : Bank := if b.owner = some ctx then { b with owner := none } else b
  { n with
    ctxs := n.ctxs.set ctx NodeCtx.reset,
    running := n.running.filter fun f => decide (f.ctx ≠ ctx),
    suspended := n.suspended.filter fun f => decide (f.ctx ≠ ctx),
    acc0 := free n.acc0,
    acc1 := free n.acc1 }

/-- A tile without a context. -/
def Tile.dropCtx (t : Tile) (ctx : Nat) : Tile :=
  { t with
    store := t.store.filter fun e => decide (e.qt.tok.ctx.toNat ≠ ctx),
    lo := t.lo.filter fun p => decide (p.1.1 ≠ ctx),
    loComing := t.loComing.filter fun p => decide (p.1.1 ≠ ctx),
    counters := t.counters.filter fun p => decide (p.1.1 ≠ ctx),
    switch := t.switch.set ctx [] }

/-- A sheet without a context. -/
def Sheet.dropCtx (sh : Sheet) (n ctx : Nat) : Sheet :=
  { sh with
    threads := sh.threads.set ctx Thread.reset,
    rank := sh.rank.set ctx 0,
    valid := sh.valid.set ctx false,
    units := sh.units.set ctx 0,
    workBase := sh.workBase.set ctx 0,
    taken := sh.taken.set ctx 0,
    queues := amap sh.queues fun _ q => { q with waiting := q.waiting.filter fun p => decide (p.pusher ≠ some (n, ctx)) },
    board := sh.board.filter fun r => match r.node with
      | some _ => decide (r.ctx ≠ ctx)
      | none => true,
    windows := sh.windows.set ctx [],
    wide := sh.wide.filter fun p => decide (p.1.2 ≠ ctx),
    activity := sh.activity.set ctx [],
    past := sh.past ++ sh.activity.get ctx,
    spent := sh.spent.set ctx 0 }

/-- A sheet that an instance has left: what it popped is not put back any more (R318). -/
def Sheet.forgetPops (sh : Sheet) (id : Nat) : Sheet :=
  { sh with queues := amap sh.queues fun _ q => { q with popped := q.popped.filter fun p => decide (p.inst ≠ id) } }

/-- The state with the drover changed. -/
def State.updDrover (s : State) (f : Drover → Drover) : State := { s with drover := f s.drover }

/-- The state with the package changed. -/
def State.updPackage (s : State) (f : Package → Package) : State := { s with package := f s.package }

/-- The package without the loss at rest of 256-byte lines of which a write gives all bytes (R326). -/
def Package.rewritten (p : Package) (whole : Nat → Bool) : Package :=
  { p with poisoned := p.poisoned.filter fun l => !(whole l), faulty := p.faulty.filter fun q => !(whole q.1) }

/-- A write of n bytes at a location gives all bytes of a line. -/
def coversWhole (loc n line : Nat) : Bool := decide (loc ≤ 256 * line) && decide (256 * line + 256 ≤ loc + n)

/-- A write to the PF registers at an offset is refused (R335). -/
def State.refusePf (s : State) (off : Nat) : State :=
  s.updPackage fun p => { p with pferr := BitVec.ofNat 64 (2 ^ 63 + off) }

/-! ### Writes that wait for a phase boundary (R273, R282) -/

/-- The record of a tenant (R273): weight 1, H 6, L 2 where nothing has been written. -/
def recordReset : BitVec 512 := BitVec.ofNat 512 (2 ^ 328 + 6 * 2 ^ 324 + 2 * 2 ^ 320)

/-- The record of a tenant. -/
def State.record (s : State) (tenant : Nat) : BitVec 512 := agetD s.drover.records tenant recordReset

/-- A field of a record. -/
def recField (r : BitVec 512) (lo w : Nat) : Nat := bitsOf r.toNat lo w

/-- A launch of the VF is queued or running (R338). -/
def State.vfBusy (s : State) (vf : Nat) : Bool := s.slices.any fun p => decide (p.2.vf = vf)

/-- The PF offset of a tenant's record (R335). -/
def recordOff (tag : Nat) : Nat := 0x1000 + 64 * tag

/-- The PF offset of a write to some bits of a record: that of the first byte written (R335). -/
def recordWriteOff (tag : Nat) (mask : BitVec 512) : Nat :=
  recordOff tag + ((List.range 64).find? fun k => decide (bitsOf mask.toNat (8 * k) 8 ≠ 0)).getD 0

/-- A VF of the record is set in another active record (R273). -/
def State.vfClash (s : State) (tag : Nat) (r : BitVec 512) : Bool :=
  s.drover.records.any fun p => decide (p.1 ≠ tag) && p.2.getLsbD 343 &&
    (List.range 96).any fun v => r.getLsbD (352 + v) && p.2.getLsbD (352 + v)

/-- A VF is a tenant's by a record: the record is active and names it (R273). -/
def ownsVf (r : BitVec 512) (vf : Nat) : Bool := r.getLsbD 343 && r.getLsbD (352 + vf)

/-- A VF with a launch queued or running changes hands (R272). -/
def State.vfMoves (s : State) (tag : Nat) (r : BitVec 512) : Bool :=
  (List.range 96).any fun v => s.vfBusy v && decide (ownsVf (s.record tag) v ≠ ownsVf r v)

/-- A phase of the tenant is running. -/
def State.phaseRuns (s : State) (tenant : Nat) : Bool := s.insts.any fun p => decide (p.2.tenant = tenant)

/-- A record with the bits of a write laid over it. -/
def overlay (r mask v : BitVec 512) : BitVec 512 := (r &&& ~~~mask) ||| (v &&& mask)

/-- The record of a tenant as it will be once what waits for it is in effect. -/
def State.recordComing (s : State) (tenant : Nat) : BitVec 512 :=
  s.drover.recordWrites.foldl (fun r p => if p.1 = tenant then overlay r p.2.1 p.2.2 else r) (s.record tenant)

/-- A window entry granted to a tenant, cleared (R284). -/
def clearGrant (tenant : Nat) (e : BitVec 16) : BitVec 16 := if bitsOf e.toNat 7 7 = tenant then 0 else e

/-- A bulkhead without the windows granted to a tenant, in force or waiting (R284). -/
def Bulkhead.dropGrants (b : Bulkhead) (tenant : Nat) : Bulkhead :=
  { b with windows := b.windows.map (clearGrant tenant), windowWrites := b.windowWrites.map fun p => (p.1, clearGrant tenant p.2) }

/-- What a change of a tenant's bulkhead set asks of a bulkhead (R272). -/
def askOf (tenant bh : Nat) (old new : BitVec 512) : List BhAsk :=
  match old.getLsbD (448 + bh), new.getLsbD (448 + bh) with
  | false, true => [.assign tenant]
  | true, false => [.leave tenant]
  | _, _ => []

/-- The state with the bulkheads asked for what a change of a tenant's record says of them (R272). -/
def State.askBulkheads (s : State) (tenant : Nat) (old new : BitVec 512) : State :=
  (List.range 64).foldl (fun s bh => match askOf tenant bh old new with
    | [] => s
    | l => s.setBulkhead bh { s.bulkhead bh with asks := (s.bulkhead bh).asks ++ l }) s

/-- A record write takes effect: the bulkheads it gives or takes are asked for; windows granted to a tenant go when its record becomes
inactive (R272, R273, R284). -/
def State.applyRecord (s : State) (tenant : Nat) (r : BitVec 512) : State :=
  let old := s.record tenant
  let s := s.updDrover fun d => { d with records := aset d.records tenant r }
  let s := s.askBulkheads tenant old r
  if r.getLsbD 343 then s else { s with bulkheads := amap s.bulkheads fun _ b => b.dropGrants tenant }

/-- A waiting record write is looked at again: it takes effect, or still waits while a VF that changes hands has a launch queued or
running, or is refused for a VF that another active record has by now (R272, R273). -/
def State.applyWrite (s : State) (p : Nat × BitVec 512 × BitVec 512) : State :=
  let r := overlay (s.record p.1) p.2.1 p.2.2
  if s.vfMoves p.1 r then s.updDrover fun d => { d with recordWrites := d.recordWrites ++ [p] }
  else if s.vfClash p.1 r then s.refusePf (recordWriteOff p.1 p.2.1)
  else s.applyRecord p.1 r

/-- The window writes of a bulkhead take effect (R282). -/
def Bulkhead.applyWindows (b : Bulkhead) : Bulkhead :=
  { b with windows := b.windowWrites.foldl (fun w p => w.set p.1 p.2) b.windows, windowWrites := [] }

/-- A record write of a tenant, or a window on its banks, waits for a phase boundary of each of its running slices: until all have come to
one, no further phase of the tenant is placed (R273, R282; DEDUCED, log entry 87). A write that waits for the launches of a VF is no
reason to wait (R272). -/
def State.holdsPhases (s : State) (tenant : Nat) : Bool :=
  s.phaseRuns tenant &&
  ((s.drover.recordWrites.any fun p => decide (p.1 = tenant) && !(s.vfMoves tenant (overlay (s.record tenant) p.2.1 p.2.2))) ||
   s.bulkheads.any fun p => decide (p.2.tag.toNat = tenant) && !p.2.windowWrites.isEmpty)

/-- What waits for a phase boundary of a tenant takes effect, if no phase of it is running (R273, R282). -/
def State.boundary (s : State) (tenant : Nat) : State :=
  if s.phaseRuns tenant then s
  else
    let mine := s.drover.recordWrites.filter fun p => decide (p.1 = tenant)
    let s := s.updDrover fun d => { d with recordWrites := d.recordWrites.filter fun p => decide (p.1 ≠ tenant) }
    let s := mine.foldl State.applyWrite s
    { s with bulkheads := amap s.bulkheads fun _ b => if b.tag.toNat = tenant then b.applyWindows else b }

/-! ### Energy (R243, R262) -/

/-- The weight of an activity event in 0.25 pJ: the fused one, unless the verified estimator image brings another (R262). -/
def State.weight (s : State) (event : Nat) : Nat :=
  let brought := (s.package.images.find? fun m => decide (m.kind = .estimator)).bind fun m => Config.imageWeight m.measurement event
  (brought.getD (Config.energyWeight event)).toNat

/-- The energy of some activity in 0.25 pJ (R262). -/
def State.energyOf (s : State) (l : List (Nat × Nat)) : Nat := (l.map fun p => p.2 * s.weight p.1).sum

/-- A slice charged some energy in 0.25 pJ: 4,000 of them are 1 nJ (R243, R262). -/
def Slice.chargeEnergy (x : Slice) (e : Nat) : Slice :=
  let n := x.energyPart + e
  { x with energyPart := n % 4000, energyUsed := x.energyUsed + n / 4000, energy := x.energy - n / 4000 }

/-- The energy that an instance's context has spent on the sheets of its chase and its slice is not charged yet, in ended windows and,
where it is freed, in the present one (R243). -/
def State.energyDue (s : State) (i : Inst) (now : Bool) : Nat :=
  (i.sheets.map fun sh =>
    let v := s.sheet sh
    v.spent.get i.ctx + (if now then s.energyOf (v.activity.get i.ctx) else 0)).sum

/-- The slice of an instance is charged what its context has spent (R243). -/
def State.payEnergy (s : State) (i : Inst) (now : Bool) : State :=
  let e := s.energyDue i now
  let s := { s with sheets := amap s.sheets fun n sh => if i.sheets.contains n then { sh with spent := sh.spent.set i.ctx 0 } else sh }
  s.updSlice i.slice fun x => x.chargeEnergy e

/-- The chase of an instance is freed (R10, R303): nothing of its context is left on its sheets, its streams and the
accesses it waits for are dropped, and the instance is no more. What it wrote to scratch stays (R42). What waits for the
tenant's phase boundary takes effect. -/
def State.freeChase (s : State) (id : Nat) (i : Inst) : State :=
  let shs := i.sheets
  let s := s.payEnergy i true
  let s := { s with
    sheets := amap s.sheets fun n sh => if shs.contains n then (sh.dropCtx n i.ctx).forgetPops id else sh,
    tiles := amap s.tiles fun k t => if shs.contains k.1 then t.dropCtx i.ctx else t,
    nodes := amap s.nodes fun n v => if shs.contains n.sheet then v.dropCtx i.ctx else v,
    streams := s.streams.filter fun p => decide (p.2.inst ≠ id),
    drover := { s.drover with tags := s.drover.tags.filter fun p => !(p.2.who.isOf s id i.ctx shs) },
    bulkheads := amap s.bulkheads fun n b => if i.bulkheads.contains n then { b with phaseEnded := s.time } else b,
    insts := adel s.insts id }
  s.boundary i.tenant

/-- The scoreboard of every sheet without the entries of an operation (R175). -/
def State.freeRanges (s : State) (op : Nat) : State :=
  { s with sheets := amap s.sheets fun _ sh => { sh with board := sh.board.filter fun r => decide (r.op ≠ some op) } }

/-- Operations removed, with their scoreboard entries, their packets and the accesses they wait for. -/
def State.dropOps (s : State) (ids : List Nat) : State :=
  let s := ids.foldl State.freeRanges s
  { s with
    ops := s.ops.filter fun p => !(ids.contains p.1),
    package := { s.package with packets := s.package.packets.filter fun p => !(ids.any fun k => decide (p.op = some k)) },
    drover := { s.drover with tags := s.drover.tags.filter fun p => match p.2.who with
      | .engine o => !(ids.contains o)
      | _ => true } }

/-- The completion record of a slice (R343). -/
def Slice.completion (x : Slice) (now : Nat) (status : BitVec 4) (reason kind : BitVec 8) (code : BitVec 16) : Completion :=
  { stamp := x.stamp, nphr := BitVec.ofNat 8 x.phasesRun, dmiss := decide (x.deadline.toNat < now), status := status,
    reason := reason, kind := kind, code := code, cut := x.lastCut, energy := BitVec.ofNat 64 x.energyUsed,
    work := BitVec.ofNat 64 x.charged, time := BitVec.ofNat 64 now, cookie := x.cookie, inst := x.inst.getD 0 }

/-- A completion record waits for its ring (R344). -/
def State.postCompletion (s : State) (vf : Nat) (c : Completion) : State :=
  s.setVf vf { s.vf vf with completions := (s.vf vf).completions ++ [c] }

/-- An event record waits for its ring (R345). -/
def State.postEvent (s : State) (vf : Nat) (e : EventRec) : State :=
  s.setVf vf { s.vf vf with events := (s.vf vf).events ++ [e] }

/-- The number of the last committed cut: the one before `cutsDone` (R303, R308). DESIGN CHOICE (log entry 144): 0 while none has been. -/
def Inst.lastCut (i : Inst) : W32 := BitVec.ofNat 32 (i.cutsDone - 1)

/-- The operations of an instance issued since its last complete cut (R303, R315). -/
def State.opsSinceCut (s : State) (id cuts : Nat) : List Nat :=
  (s.ops.filter fun p => decide (p.2.inst = id) && decide (cuts ≤ p.2.cut)).map Prod.fst

/-- No replay of an instance is under way any more: its faults have been passed, or it has ended (R319). -/
def Drover.endReplay (d : Drover) (id : Nat) : Drover :=
  { d with nodeFaults := d.nodeFaults.map fun f => { f with replay := f.replay.filter fun k => decide (k ≠ id) } }

/-- The instance is taken off its chase: held lines discarded, operations since the last complete cut cancelled, the
chase freed (R303). -/
def State.removeInst (s : State) (id : Nat) : State :=
  match aget? s.insts id with
  | none => s
  | some i => (((s.dropOps (s.opsSinceCut id i.cutsDone)).updDrover fun d => d.endReplay id).updSlice i.slice fun x =>
      { x with lastCut := i.lastCut }).freeChase id i

/-- A launch ends on a fault (R303): its instance is removed and the completion record carries kind, code, reason and
the last committed cut. -/
def State.endSlice (s : State) (slice : Nat) (status : BitVec 4) (reason kind : BitVec 8) (code : BitVec 16) : State :=
  match aget? s.slices slice with
  | none => s
  | some x =>
    let s := match x.inst with
      | some id => s.removeInst id
      | none => s
    let x := agetD s.slices slice x
    ({ s with slices := adel s.slices slice }).postCompletion x.vf (x.completion s.time status reason kind code)

/-- The launch of an instance ends with a kind (R303); an instance without a slice is removed. -/
def State.endLaunch (s : State) (id : Nat) (kind : BitVec 8) (code : BitVec 16) : State :=
  match aget? s.insts id with
  | none => s
  | some i =>
    match aget? s.slices i.slice with
    | some _ => s.endSlice i.slice 2 0 kind code
    | none => s.removeInst id

/-! ### Taking an exception (R85, R303) and returning from it (R114, R305) -/

/-- CAUSE of a synchronous trap: async 0, src 15, every field from 58 to 8 zero (R301). -/
def syncCause (kind : BitVec 8) : Word := 0x7800000000000000 ||| kind.setWidth 64

/-- The registers of a thread that takes an exception (R85): EPC gets the address of the instruction, CAUSE and TVAL the
values given, the pc goes to TVEC, and the next fetch is the handler's first (R306). -/
def Thread.enter (t : Thread) (cause tval : Word) : Thread :=
  { t with epc := t.pc, cause := cause, tval := tval, pc := t.tvec, entering := true, wait := none, invalid := none }

/-- The unit an instruction took at issue is given back (R84, R242). -/
def Sheet.giveBack (sh : Sheet) (ctx : Nat) : Sheet :=
  { sh with units := sh.units.set ctx (sh.units.get ctx + 1), taken := sh.taken.set ctx (sh.taken.get ctx - 1) }

/-- The acting thread's instruction gives its unit back. -/
def State.giveBack (s : State) : State := s.setSheet s.curSheet ((s.sheet s.curSheet).giveBack s.curCtx)

/-- An issue group ends (R98): its streams become live, or join the held set when one of them is in bank B or the held
set is not empty. -/
def State.endGroupOf (s : State) (sheet ctx : Nat) : State :=
  let t := s.thread sheet ctx
  if t.group.isEmpty then s
  else
    let inB := t.group.any fun x => match aget? s.streams x with
      | some st => decide (st.bank = 1)
      | none => false
    let hold := inB || !t.held.isEmpty
    let s := s.setThread sheet ctx { t with group := [], held := if hold then t.held ++ t.group else t.held }
    { s with streams := amap s.streams fun k st =>
        if t.group.contains k then { st with state := if hold then .held else .live } else st }

/-- A synchronous trap with the code of a program trap: the thread enters its handler and the instruction's unit is given
back; with TVEC 0 the launch ends with the kind instead (R303). A thread of no launch then ends (log entry 11). -/
def State.trapCode (s : State) (kind : BitVec 8) (tval : Word) (code : BitVec 16) : State :=
  let s := s.giveBack.endGroupOf s.curSheet s.curCtx
  if s.cur.tvec = 0 then
    match s.curInst with
    | some (id, _) => s.endLaunch id kind code
    | none => s.setCur { s.cur with run := .halted, wait := none }
  else s.setCur (s.cur.enter (syncCause kind) tval)

/-- A synchronous trap (R85). -/
def State.trap (s : State) (kind : BitVec 8) (tval : Word) : State := s.trapCode kind tval 0

/-- CAUSE of a report (R301). -/
def Report.cause (r : Report) : Word :=
  1#1 ++ r.src ++ 0#3 ++ r.sub ++ BitVec.ofNat 8 r.sheet ++ BitVec.ofNat 4 r.tile ++ BitVec.ofNat 4 r.elem ++
    BitVec.ofNat 2 r.ctx ++ r.slot ++ 0#18 ++ r.kind

/-- The base thread of an instance has no handler (R305): TVEC is 0 or it does not run. -/
def State.noHandler (s : State) (i : Inst) : Bool :=
  let t := s.thread i.base i.ctx
  decide (t.tvec = 0) || decide (t.run ≠ .running)

/-- Where a report stands among those detected together: by sheet, tile and element index (R305). -/
def Report.place (r : Report) : Nat := 256 * r.sheet + 16 * r.tile + r.elem

/-- A report put among those detected together (R305). -/
def insertReport (l : List Report) (r : Report) : List Report :=
  (l.filter fun x => decide (x.place ≤ r.place)) ++ r :: l.filter fun x => decide (r.place < x.place)

/-- A report queued: in the order of detection, among those of one cycle in the order of their places (R305). -/
def Inst.queueReport (i : Inst) (r : Report) (cycle : Nat) : Inst :=
  let same := if i.together.1 = cycle then min i.together.2 i.reports.length else 0
  let before := i.reports.length - same
  { i with reports := i.reports.take before ++ insertReport (i.reports.drop before) r, together := (cycle, same + 1) }

/-- A report is detected (R305): the instance freezes and the report is queued; without a handler the launch ends. What is detected while
the instance is being restored is wound back with it (R315). -/
def State.report (s : State) (id : Nat) (r : Report) : State :=
  match aget? s.insts id with
  | none => s
  | some i =>
    if i.restoring then s
    else if s.noHandler i then s.endLaunch id r.kind 0
    else s.setInst id { i.queueReport r s.cycle with frozen := true, thawing := [] }

/-- What the device has sent to the outside. -/
def State.send (s : State) (x : Sent) : State := { s with package := { s.package with sent := s.package.sent ++ [x] } }

/-- A rollback begins (R315, steps 1 to 3): the instance freezes, its reports, its held lines and its later engine operations
go. Without a complete cut (R323), and at the eighth rollback without one in between (R320), the launch ends with
DATA_LOST. DESIGN CHOICE (log entry 137): a fault that strikes while a restore is under way begins no second rollback and counts for none;
what it struck is restored with the rest. -/
def State.beginRollback (s : State) (id : Nat) : State :=
  match aget? s.insts id with
  | none => s
  | some i =>
    if i.restoring then s
    else if i.cutsDone = 0 ∨ 7 ≤ i.rollbacks then s.endLaunch id kDataLost 0
    else
      let s := s.dropOps (s.opsSinceCut id i.cutsDone)
      s.setInst id { i with restoring := true, frozen := false, stalled := false, reports := [], openReport := none,
                            thawing := [], held := [], heldLines := [], late := [], cutting := none,
                            rollbacks := i.rollbacks + 1 }

/-- A header of a node takes firings again (R118). -/
def State.unstop (s : State) (n : NodeId) (ctx hdr : Nat) : State :=
  s.setNodeCtx n ctx { s.nodeCtx n ctx with stopped := (s.nodeCtx n ctx).stopped.filter fun h => decide (h ≠ hdr) }

/-- Headers that reports stopped take firings again (R118). -/
def State.unstopAll (s : State) (ctx : Nat) (l : List (NodeId × Nat)) : State :=
  match l with
  | [] => s
  | (n, h) :: r => (s.unstop n ctx h).unstopAll ctx r

/-- Every stop of the instance's context on its sheets ends, as the thaw makes it (R118, R305). -/
def State.unstopInst (s : State) (i : Inst) : State :=
  { s with nodes := amap s.nodes fun n v =>
      if i.sheets.contains n.sheet then { v with ctxs := v.ctxs.set i.ctx { v.ctxs.get i.ctx with stopped := [] } } else v }

/-- The `eret` of the base thread closes the open report; when no report remains the instance thaws, sheet by sheet
(R305). -/
def State.closeReport (s : State) : State :=
  match s.curInst with
  | none => s
  | some (id, i) =>
    if i.openReport.isNone || decide (i.base ≠ s.curSheet) then s
    else if i.reports.isEmpty then
      (s.setInst id { i with openReport := none, frozen := false, stalled := false, thawing := i.sheets, watchdog := 0 }).unstopInst i
    else s.setInst id { i with openReport := none }

/-- Return from an exception (R114): the pc becomes EPC and nothing else of the thread changes; the base thread's closes
the open report (R305). -/
def State.exceptionReturn (s : State) : State := (s.goto s.cur.epc).closeReport

/-! ### Progress of the sequencer -/

/-- A progress event of an instance (R255). -/
def State.progress (s : State) (id : Nat) : State := s.updInst id fun i => { i with watchdog := 0 }

/-- A unit of work of a slice is charged (R84, R239, R241). -/
def State.charge (s : State) (id : Nat) : State :=
  match aget? s.insts id with
  | none => s
  | some i => s.updSlice i.slice fun x => { x with charged := x.charged + 1, quantum := x.quantum + 1 }

/-- An instruction of the acting thread retires: it is charged its unit (R84), and that is progress (R255), but in an invocation
that repeats one which popped nothing (R254; DEDUCED, log entry 126). -/
def State.retire (s : State) : State :=
  let s := s.charge s.curInstId
  if s.cur.invocation.isSome && s.cur.barren then s else s.progress s.curInstId

/-- A unit is taken from the sheet's allowance (R84, R242). -/
def Sheet.takeUnit (sh : Sheet) (ctx : Nat) : Sheet :=
  { sh with units := sh.units.set ctx (sh.units.get ctx - 1), taken := sh.taken.set ctx (sh.taken.get ctx + 1) }

/-- A unit of work is taken from a sheet's allowance and charged (R241, R242). -/
def State.takeWork (s : State) (id sheet ctx : Nat) : State :=
  (s.setSheet sheet ((s.sheet sheet).takeUnit ctx)).charge id

/-- Several units of work, one after another. -/
def State.takeWorks (s : State) (id sheet ctx n : Nat) : State :=
  match n with
  | 0 => s
  | n + 1 => (s.takeWork id sheet ctx).takeWorks id sheet ctx n

/-- The turn of a thread ends: it waits, traps, or yields (R246). -/
def State.endTurn (s : State) (sheet ctx : Nat) : State :=
  s.setSheet sheet { s.sheet sheet with turn := (s.sheet sheet).turn.set ctx 16 }

/-- A fresh number. -/
def State.fresh (s : State) : Nat × State := (s.nextId, { s with nextId := s.nextId + 1 })

end Sys2Proof.Machine
end

