-- ==== Sys2Proof/Machine/Access.lean ====
section
/-! DEFINITION. Accesses: the address map (R39, R82, R83), page tables and frames (R280, R336, R337), what each kind of
agent may reach (R38, R92, R141, R174, R283), the range scoreboard (R41, R219), held writes (R225, R226), and stalling in
place (R307). -/

namespace Sys2Proof.Machine

/-- Where an address points, before translation (R39). -/
inductive Region where
  | ts (sheet off : Nat)
  | ss (sheet off : Nat)
  | ds (bank off : Nat)
  | va (a : Nat)
  deriving DecidableEq, Repr

/-- An own-sheet offset: TS or SS (R39). -/
def sheetRegion (sheet off : Nat) : Option Region :=
  if off < 0x200000 then some (.ts sheet off)
  else if 0x1000000 ≤ off ∧ off < 0x1400000 then some (.ss sheet (off - 0x1000000))
  else none

/-- The address map; sheet windows are for engine operands only (R39). -/
def decodeAddr (sheet : Nat) (engine : Bool) (a : Nat) : Option Region :=
  let lo := a % 2 ^ 48
  if a / 2 ^ 48 = 0 then some (.va lo)
  else if a / 2 ^ 48 ≠ 0xFF00 then none
  else if lo < 0x1400000 then sheetRegion sheet lo
  else if 0x10000000 ≤ lo ∧ lo < 0x10800000 then some (.ds (bhOf sheet) (lo - 0x10000000))
  else if 0x100000000 ≤ lo ∧ lo < 0x120000000 then
    some (.ds ((lo - 0x100000000) / 0x800000) ((lo - 0x100000000) % 0x800000))
  else if engine = true ∧ 0x200000000 ≤ lo ∧ lo < 0x400000000 then
    sheetRegion ((lo - 0x200000000) / 0x2000000) ((lo - 0x200000000) % 0x2000000)
  else none

/-- Bytes from the region's address to the end of its range (R40). -/
def Region.room : Region → Nat
  | .ts _ off => 0x200000 - off
  | .ss _ off => 0x400000 - off
  | .ds _ off => 0x800000 - off
  | .va a => 2 ^ 48 - a

/-- The location of scratch; of a virtual address, itself. -/
def Region.loc : Region → Nat
  | .ts sheet off => sheetLoc sheet off
  | .ss sheet off => ssLoc sheet off
  | .ds bank off => dsLoc bank off
  | .va a => a

/-- The agents that make accesses (R206). -/
inductive AgentClass where
  | thread | ag | stream | array | copy | engine
  deriving DecidableEq, Repr

/-- An agent: class, the sheet and context it acts for, tenant, instance, and the number of the cut that covers what it writes (none:
the next cut to be injected). -/
structure Agent where
  cls : AgentClass
  sheet : Nat
  ctx : Nat
  tenant : Nat
  inst : Nat
  covered : Option Nat
  deriving DecidableEq, Repr

/-- The acting thread as an agent. -/
def State.threadAgent (s : State) : Agent :=
  { cls := .thread, sheet := s.curSheet, ctx := s.curCtx, tenant := s.tenantAt s.curSheet s.curCtx, inst := s.curInstId, covered := none }

/-- Reading, writing, or both in one indivisible step (R207). -/
inductive AccessKind where
  | read | write | atomic
  deriving DecidableEq, Repr

/-- The access changes memory. -/
def AccessKind.writes : AccessKind → Bool
  | .read => false
  | .write | .atomic => true

/-- What becomes of an access: it is made at a location on a page of an ord kind, it waits, or it faults. -/
inductive Ans where
  | ok (loc : Nat) (ord : BitVec 2)
  | miss                       -- R92, R337
  | range                      -- R41
  | full                       -- R225
  | line                       -- R226
  | xlate
  | access
  | lost                       -- a poisoned line (R326)
  deriving DecidableEq, Repr

/-! ### Frames and page tables -/

/-- The frame of a physical address (R334): DM frames 0–767, FM frames from 1,024 on. -/
def frameOf (p : Nat) : Option Nat :=
  if p < 768 * 2 ^ 30 then some (p / 2 ^ 30)
  else if 2 ^ 40 ≤ p ∧ p < 2 ^ 40 + 4096 * 2 ^ 30 then some (1024 + (p - 2 ^ 40) / 2 ^ 30)
  else none

/-- The frame's entry is valid and carries the tenant's tag (R280). -/
def State.frameOk (s : State) (tenant p : Nat) : Bool :=
  match frameOf p with
  | none => false
  | some f =>
    let e := agetD s.drover.frames f 0
    e.getLsbD 7 && decide ((e.extractLsb' 0 7).toNat = tenant)

/-- A physical address of FM (R334). -/
def isFm (p : Nat) : Bool := decide (2 ^ 40 ≤ p)

/-- What a walk finds (R336, R337). -/
inductive Walk where
  | page (leaf : Word) (phys : Nat)
  | miss
  | invalid
  | access
  deriving DecidableEq, Repr

/-- The four levels: shift and width of the index, size a leaf maps (0: not allowed), alignment of a next table (0: no
next level) (R336). -/
def pageLevels : List (Nat × Nat × Nat × Nat) :=
  [(39, 9, 0, 4096), (30, 9, 2 ^ 30, 4096), (21, 9, 2 ^ 21, 256), (16, 5, 2 ^ 16, 0)]

/-- The reserved bits of a valid entry are zero (R336). -/
def entryReserved (e : Word) : Bool :=
  decide (e.extractLsb' 62 2 = 0#2) && decide (e.extractLsb' 48 8 = 0#8) && decide (e.extractLsb' 3 5 = 0#5)

/-- The physical address in an entry (R336). -/
def entryAddr (e : Word) : Nat := (e.extractLsb' 8 40).toNat * 256

/-- The walk from one level on (R336, R337). -/
def State.walk (s : State) (tenant va table : Nat) (levels : List (Nat × Nat × Nat × Nat)) : Walk :=
  match levels with
  | [] => .access
  | (shift, width, size, next) :: rest =>
    let at_ := table + 8 * bitsOf va shift width
    if !(s.frameOk tenant at_) || isFm at_ then .access else
    let e := bytesWord (s.mem.read at_ 8)
    if e.getLsbD 0 = false then (if e.getLsbD 2 then .invalid else .miss)
    else if !(entryReserved e) then .access
    else if e.getLsbD 1 then
      if size = 0 ∨ entryAddr e % size ≠ 0 then .access
      else if e.getLsbD 61 ≠ isFm (entryAddr e) then .access
      else .page e (entryAddr e + va % size)
    else if next = 0 ∨ e.extractLsb' 56 6 ≠ 0#6 ∨ entryAddr e % next ≠ 0 then .access
    else s.walk tenant va (entryAddr e) rest

/-- The top-level table of a tenant (R273). -/
def State.ptroot (s : State) (tenant : Nat) : Nat := ((agetD s.drover.records tenant 0).extractLsb' 272 48).toNat

/-- A translation: from the cache where the page is cached, else by a walk that fills the cache (R337, log entry 12). -/
def State.translate (s : State) (tenant va : Nat) : State × Walk :=
  match s.drover.cached.find? fun c => decide (c.tenant = tenant) && decide (c.vpage = va / 65536) with
  | some c => (s, .page c.leaf (c.base + va % 65536))
  | none =>
    match s.walk tenant va (s.ptroot tenant) pageLevels with
    | .page leaf p =>
      ({ s with drover := { s.drover with
          cached := s.drover.cached ++ [{ tenant := tenant, vpage := va / 65536, base := p - va % 65536, leaf := leaf }] } },
        .page leaf p)
    | r => (s, r)

/-- The page kind of a leaf (R210). -/
def leafOrd (leaf : Word) : BitVec 2 := leaf.extractLsb' 57 2

/-- An FM frame lost with its expander: engine operations that reach it end with DATA_LOST (R328). -/
def State.lostFrame (s : State) (p : Nat) : Bool :=
  let f := (frameOf p).getD 0
  s.package.lostFm.any fun x => decide (x.1 ≤ f) && decide (f < x.1 + x.2)

/-- A physical address lies in a poisoned line, or in an HBM stack that is lost (R326, R328). -/
def State.isPoisoned (s : State) (p : Nat) : Bool :=
  s.package.poisoned.contains (p / 256) || (!(isFm p) && s.package.lostStacks.contains ((frameOf p).getD 0 / 64))

/-- The frame's entry is valid, whoever owns it (R280). -/
def State.frameValid (s : State) (p : Nat) : Bool :=
  match frameOf p with
  | none => false
  | some f => (agetD s.drover.frames f 0).getLsbD 7

/-- A thread's or copy engine's access to an FM page that is not resident stalls in place before its rights are looked at (R92, R174,
R303); a page behind a lost expander is in no valid frame, and never stalls (R328). Other agents do not reach FM (R38). -/
def State.notResident (s : State) (g : Agent) (leaf : Word) (p : Nat) : Bool :=
  leaf.getLsbD 61 && (decide (g.cls = .thread) || decide (g.cls = .copy)) && s.frameValid p &&
    !(s.package.resident.contains ((frameOf p).getD 0))

/-- The rights of an agent on a mapped page (R38, R92, R141, R174, R211, R280, R336). -/
def State.pageAns (s : State) (g : Agent) (leaf : Word) (p : Nat) (k : AccessKind) : Ans :=
  let fm := leaf.getLsbD 61
  if s.notResident g leaf p then .miss
  else if leafOrd leaf = 3#2 then .access
  else if k.writes && !(leaf.getLsbD 56) then .access
  else if !(s.frameOk g.tenant p) then
    if s.lostFrame p && (decide (g.cls = .copy) || decide (g.cls = .engine)) then .lost else .access
  else if fm && !(decide (g.cls = .copy) || (decide (g.cls = .thread) && decide (k ≠ .atomic))) then .access
  else if decide (leafOrd leaf = 0#2) && (decide (g.cls = .ag) || decide (g.cls = .stream)) then .access
  else if !fm && leaf.getLsbD 60 && decide (g.sheet / 64 ≠ (frameOf p).getD 0 / 192) then .access
  else if decide (k ≠ .write) && s.isPoisoned p then .lost
  else .ok p (leafOrd leaf)

/-! ### Scratch -/

/-- The owner tag of the line at a location of a bulkhead (R279). -/
def State.lineTag (s : State) (loc bh : Nat) : Nat := (agetD s.ownerTags (loc / 256) (s.bulkhead bh).tag).toNat

/-- The bulkhead is being reset or zeroised: nothing in it can be reached (R281, R294). -/
def State.inPass (s : State) (bh : Nat) : Bool :=
  match (s.bulkhead bh).busy with
  | .resetLine | .zeroising | .zeroisingNext => true
  | _ => false

/-- A tenant has a valid window to a bank, for reading or also for writing (R282, R283). -/
def State.hasWindow (s : State) (bank tenant : Nat) (write : Bool) : Bool :=
  (s.bulkhead bank).windows.any fun e =>
    e.getLsbD 15 && decide ((e.extractLsb' 7 7).toNat = tenant) && (!write || e.getLsbD 14)

/-- Access to a scratch region (R38, R39, R82, R83, R279, R283). An atomic is a load and a store, and reaches the thread's own pop
buffer as these do (DEDUCED, log entry 122). -/
def State.scratchAns (s : State) (g : Agent) (r : Region) (k : AccessKind) : Ans :=
  match r with
  | .ts sheet _ =>
    if decide (g.cls = .stream) || s.inPass (bhOf sheet) || decide (s.lineTag r.loc (bhOf sheet) ≠ g.tenant) then .access
    else .ok r.loc 1
  | .ss sheet off =>
    if decide (g.cls = .array) || s.inPass (bhOf sheet) || decide (s.lineTag r.loc (bhOf sheet) ≠ g.tenant) then .access
    else if 0x3F0000 ≤ off then
      if g.cls = .thread ∧ popBuffer g.ctx ≤ off ∧ off < popBuffer g.ctx + 0x20 then .ok r.loc 1 else .access
    else if 0x300000 ≤ off && k.writes then .access
    else .ok r.loc 1
  | .ds bank _ =>
    let b := s.bulkhead bank
    if decide (g.cls = .array) then .access
    else if decide (b.tag.toNat = g.tenant) && decide (b.state = .active) then
      if s.lineTag r.loc bank = g.tenant then .ok r.loc 1 else .access
    else if decide (b.state = .active) && s.hasWindow bank g.tenant k.writes &&
        decide (s.lineTag r.loc bank = b.tag.toNat) then .ok r.loc 1
    else .access
  | .va _ => .access

/-- Only the tag of the line stands against an access that the address rules allow: an isolation event (R279). -/
def State.strays (s : State) (g : Agent) (r : Region) (k : AccessKind) : Bool :=
  (aget? s.ownerTags (r.loc / 256)).isSome && decide (s.scratchAns g r k = .access) &&
    decide (({ s with ownerTags := [] } : State).scratchAns g r k ≠ .access)

/-- An isolation event: the hypervisor is told the line and both tags, and the instance rolls back (R279, R314). -/
def State.isolationEvent (s : State) (g : Agent) (loc : Nat) : State :=
  (s.send (.isolation (loc / 256) (agetD s.ownerTags (loc / 256) 0).toNat g.tenant)).beginRollback g.inst

/-! ### Owner tags of arrays that no address names (R279) -/

/-- The number under which an isolation event names a line of these arrays (DESIGN CHOICE, log entry 130). -/
def SramLine.number (l : SramLine) : Nat := 2 ^ 60 + 65536 * (16 * l.sheet + l.array.ctorIdx) + l.part

/-- The first of several lines that carries another tag than a tenant's (R279). -/
def State.strayArray (s : State) (tenant : Nat) (l : List SramLine) : Option SramLine :=
  if s.arrayTags.isEmpty then none
  else l.find? fun x => match aget? s.arrayTags x with
    | some t => decide (t.toNat ≠ tenant)
    | none => false

/-- An isolation event on a line of these arrays: the hypervisor is told, and the instance rolls back (R279, R314). -/
def State.arrayEvent (s : State) (x : SramLine) (sheet ctx : Nat) : State :=
  let s := s.send (.isolation x.number (agetD s.arrayTags x 0).toNat (s.tenantAt sheet ctx))
  match s.instAt sheet ctx with
  | some (id, _) => s.beginRollback id
  | none => s

/-! ### What holds an access back -/

/-- [first, first + len) overlaps the entry's range. -/
def Range.overlaps (r : Range) (first len : Nat) : Bool := decide (first ≤ r.last) && decide (r.first < first + len)

/-- A range of the sheet's scoreboard overlaps the access (R41, R219); engines are not held back, nor an AG by its own
`tmove`. -/
def State.ranged (s : State) (g : Agent) (loc len : Nat) : Bool :=
  decide (g.cls ≠ .copy) && decide (g.cls ≠ .engine) &&
  (s.sheet g.sheet).board.any fun r => r.overlaps loc len && !(decide (g.cls = .ag) && decide (r.node = some s.curNode))

/-- A location of TS or SS, whose writes are never held (R229). -/
def isSheetScratch (loc : Nat) : Bool := decide (0xFF00000200000000 ≤ loc)

/-- Another instance holds the 64-byte line (R226). -/
def heldByOther (l : Assoc Nat Inst) (inst line : Nat) : Bool :=
  l.any fun p => decide (p.1 ≠ inst) && (aget? p.2.heldLines line).isSome

/-- The lines a bulkhead's proof buffer holds (R225). -/
def State.proofLines (s : State) (bh : Nat) : Nat :=
  (s.insts.map fun p => p.2.heldLines.countP fun l => decide (l.2 = bh)).sum

/-- The write needs a new line in a full proof buffer (R225). -/
def State.proofFull (s : State) (g : Agent) (line : Nat) : Bool :=
  match aget? s.insts g.inst with
  | none => false
  | some i => (aget? i.heldLines line).isNone && decide (32768 ≤ s.proofLines (bhOf g.sheet))

/-- An access that may be made waits for ranges and lines that are held (R41, R225, R226). -/
def State.holdAns (s : State) (g : Agent) (len : Nat) (k : AccessKind) (a : Ans) : Ans :=
  match a with
  | .ok loc ord =>
    if isSheetScratch loc then
      if s.ranged g loc len then .range else .ok loc ord
    else if heldByOther s.insts g.inst (loc / 64) then .line
    else if k.writes && s.proofFull g (loc / 64) then .full
    else .ok loc ord
  | a => a

/-- The 256-byte line at a location has an uncorrectable error that nothing has met yet (R326). -/
def State.isFaulty (s : State) (loc : Nat) : Bool := s.package.faulty.any fun p => decide (p.1 = loc / 256)

/-- An agent meets the error of a line: it is to be treated as found at rest (R326). -/
def State.meet (s : State) (loc : Nat) : State :=
  { s with package := { s.package with
      faulty := s.package.faulty.filter fun p => decide (p.1 ≠ loc / 256),
      met := s.package.met ++ s.package.faulty.filter fun p => decide (p.1 = loc / 256) } }

/-- A read that meets an uncorrectable error is lost (R326). -/
def State.meetAns (s : State) (k : AccessKind) (a : Ans) : State × Ans :=
  match a with
  | .ok loc ord => if decide (k ≠ .write) && s.isFaulty loc then (s.meet loc, .lost) else (s, .ok loc ord)
  | a => (s, a)

/-- What becomes of an access of `len` bytes at an address, its size aligned (R39, R92, R141, R174). -/
def State.resolve (s : State) (g : Agent) (a len : Nat) (k : AccessKind) : State × Ans :=
  match decodeAddr g.sheet (decide (g.cls = .copy) || decide (g.cls = .engine)) a with
  | none => (s, .access)
  | some (.va v) =>
    match s.translate g.tenant v with
    | (s, .page leaf p) => s.meetAns k (s.holdAns g len k (s.pageAns g leaf p k))
    | (s, .miss) => (s, .miss)
    | (s, .invalid) => (s, .xlate)
    | (s, .access) => (s, .access)
  | some r => (if s.strays g r k then s.isolationEvent g r.loc else s).meetAns k (s.holdAns g len k (s.scratchAns g r k))

/-! ### Reading and writing -/

/-- The bytes an agent reads: its instance's held writes before memory (R225). -/
def State.loadBytes (s : State) (inst loc n : Nat) : List Byte :=
  match aget? s.insts inst with
  | none => s.mem.read loc n
  | some i => if i.held.isEmpty then s.mem.read loc n
      else (List.range n).map fun k => (aget? i.held (loc + k)).getD (s.mem.get (loc + k))

/-- Held writes with some bytes added. -/
def holdBytes (h : Assoc Nat Byte) (loc : Nat) (bs : List Byte) : Assoc Nat Byte :=
  match bs with
  | [] => h
  | b :: r => holdBytes (aset h loc b) (loc + 1) r

/-- The write belongs to the interval after the cut in progress (R309, R311). -/
def Inst.writesLate (i : Inst) (g : Agent) : Bool :=
  i.cutting.isSome &&
  match g.covered with
  | none => true
  | some c => decide (i.cutsDone < c)

/-- What is noted of n held bytes from a location on: a late write keeps what the cut in progress is to commit there, any other
is what it commits (R226, R231). -/
def noteLate (l : Assoc Nat (Option Byte)) (held : Assoc Nat Byte) (late : Bool) (loc n : Nat) : Assoc Nat (Option Byte) :=
  match n with
  | 0 => l
  | n + 1 =>
    let l := if late then aset l loc ((aget? l loc).getD (aget? held loc)) else adel l loc
    noteLate l held late (loc + 1) n

/-- Lines held, with those of [loc, loc + n) added to a bulkhead's buffer unless a buffer of the forme holds them already
(R225). -/
def holdLines (l : Assoc Nat Nat) (bh line n : Nat) : Assoc Nat Nat :=
  match n with
  | 0 => l
  | n + 1 => holdLines (if (aget? l line).isSome then l else l ++ [(line, bh)]) bh (line + 1) n

/-- A proof buffer has reached 75 %: every instance in whose chase it lies asks for a cut, unless one is in progress (R225, R308). -/
def State.wantCuts (s : State) (bh : Nat) : State :=
  { s with insts := amap s.insts fun _ i =>
      if i.cutting.isNone && i.bulkheads.contains bh then { i with cutWanted := true } else i }

/-- A write: held when it is made to DM, FM or DS for an instance (R225), else in memory at once (R229); one of no byte takes its
line. -/
def State.storeBytes (s : State) (g : Agent) (loc : Nat) (bs : List Byte) : State :=
  match aget? s.insts g.inst with
  | none => { s with mem := s.mem.write loc bs }
  | some i =>
    if isSheetScratch loc then { s with mem := s.mem.write loc bs }
    else
      let bh := bhOf g.sheet
      let lines := holdLines i.heldLines bh (loc / 64) ((loc % 64 + max 1 bs.length + 63) / 64)
      let late := noteLate i.late i.held (i.writesLate g) loc bs.length
      let s := s.setInst g.inst { i with held := holdBytes i.held loc bs, heldLines := lines, late := late }
      if 24576 ≤ s.proofLines bh then s.wantCuts bh else s

/-! ### Stalling in place (R307) -/

/-- The first fault tag from k on that is not outstanding (log entry 13). -/
def freeTag (tags : Assoc Nat FaultTag) (k fuel : Nat) : Nat :=
  match fuel with
  | 0 => k % 65536
  | fuel + 1 => if (aget? tags (k % 65536)).isSome then freeTag tags (k + 1) fuel else k % 65536

/-- The number of an agent class in a fault record (R345). -/
def AgentClass.code : AgentClass → Nat
  | .thread => 0
  | .ag | .array => 1
  | .stream => 2
  | .copy | .engine => 3

/-- The number of an access kind in a fault record (R345). -/
def AccessKind.code : AccessKind → Nat
  | .read => 0
  | .write => 1
  | .atomic => 2

/-- A fault record is posted for an access that stalls in place, and its tag waits for a verdict (R307, R345). -/
def State.postStall (s : State) (g : Agent) (who : Staller) (k : AccessKind) (addr tile elem : Nat) (faults retries : W32) :
    BitVec 16 × State :=
  let tag := freeTag s.drover.tags (s.drover.lastTag + 1) 65535
  let vf := match aget? s.insts g.inst with
    | some i => ((aget? s.slices i.slice).map fun x => x.vf).getD 0
    | none => 0
  let a := g.cls.code + 16 * k.code + 64 * (g.ctx % 4) + 256 * g.sheet + 65536 * tile + 1048576 * elem
  let s := { s with drover := { s.drover with lastTag := tag, tags := aset s.drover.tags tag { vf := vf, tenant := g.tenant, addr := addr, who := who, answered := none } } }
  (BitVec.ofNat 16 tag, s.postEvent vf
    { kind := 1, fault := (kindAt Config.stallChoice).setWidth 7, tag := BitVec.ofNat 16 tag, a := BitVec.ofNat 32 a, b := BitVec.ofNat 64 addr, c := retries ++ faults })

end Sys2Proof.Machine
end

