-- ==== Sys2Proof/Machine/Fabric.lean ====
section
/-! DEFINITION. Actors as laid out, edges and tokens: header and extent fields (R70, R71), emission into the fabric
(R17, R117, R244), the hardware nodes of a clone set (R194, R199, R224, R234), edges (R222, R223), and the parts of a
layout event that take effect at once (R28, R196, R235). -/

namespace Sys2Proof.Machine

/-! ### Header and extent (R70, R71) -/

/-- A port mode of R70. -/
inductive PortMode where
  | off | tagged
  | stream (rate : Nat)
  | unassigned
  deriving DecidableEq, Repr

/-- The mode of port k in a header (R70). -/
def portMode (header : W32) (k : Nat) : PortMode :=
  let v := bitsOf header.toNat (29 - 3 * k) 3
  match v with
  | 0 => .off
  | 1 => .tagged
  | 2 | 3 => .unassigned
  | r => .stream (r - 4)

/-- The production rate of output k (R70). -/
def outRate (header : W32) (k : Nat) : Nat := bitsOf header.toNat (18 - 2 * k) 2

/-- The class of a header: 0 SERIAL, 1 PURE, 2 ASSOC, 3 SCAN (R70). -/
def actorClass (header : W32) : Nat := bitsOf header.toNat 10 2

/-- The combine of a header (R70). -/
def actorComb (header : W32) : Nat := bitsOf header.toNat 7 3

/-- The block b of a header (R70). -/
def actorBlock (header : W32) : Nat := bitsOf header.toNat 3 4 + 1

/-- The scope of a header (R70). -/
def actorScope (header : W32) : Nat := bitsOf header.toNat 0 3

/-- The slot lies in the extent (R71). -/
def inExtent (ext : BitVec 16) (slot : Nat) : Bool :=
  decide (bitsOf ext.toNat 12 4 ≤ slot) && decide (slot ≤ bitsOf ext.toNat 8 4)

/-- The header of a node's context whose extent holds a slot: index, header, extent. -/
def NodeCtx.headerFor (c : NodeCtx) (slot : Nat) : Option (Nat × W32 × BitVec 16) :=
  (List.range 4).findSome? fun k => match c.headers.get k with
    | some (h, x) => if inExtent x slot then some (k, h, x) else none
    | none => none

/-- The actor of an instance that has a member or a replica on a node and a slot in its extent. -/
def FormeState.actorAt (f : FormeState) (n : NodeId) (slot : Nat) : Option (Nat × Actor) :=
  f.actors.find? fun p => inExtent p.2.extent slot &&
    (p.2.members.contains n || p.2.replicas.any fun r => r.2.contains n)

/-- The state with one actor of an instance changed. -/
def State.updActor (s : State) (id a : Nat) (f : Actor → Actor) : State :=
  s.updInst id fun i => { i with forme := { i.forme with actors := amap i.forme.actors fun k v => if k = a then f v else v } }

/-- An actor of an instance. -/
def State.actor? (s : State) (id a : Nat) : Option Actor :=
  match aget? s.insts id with
  | some i => aget? i.forme.actors a
  | none => none

/-- The granted width of a colour: 1 unless `ctxalloc` granted more (R22). -/
def FormeState.width (f : FormeState) (colour : Nat) : Nat := agetD f.widths colour 1

/-- The width field of a token of a colour (R22). -/
def FormeState.widthField (f : FormeState) (colour : BitVec 8) : BitVec 5 := BitVec.ofNat 5 (f.width colour.toNat - 1)

/-! ### Tokens as words -/

/-- A token as its 64 bits (R23). -/
def Token.bits (t : Token) : Word :=
  t.width ++ t.ctx ++ t.colour ++ t.iter ++ t.slot ++ t.port ++ t.fmt ++ t.value

/-- What a token or a keep register holds. -/
def Token.val (t : Token) : Val := ⟨t.fmt, t.value⟩

/-! ### The way of an edge (R30, R32, R73, R355) -/

/-- The tile whose switch a wide port attaches to: wp0 to wp3 on the west column, wp4 to wp7 on the east (R30). -/
def wideTile (port : Nat) : Nat := if port < 4 then 4 * port else 4 * (port - 4) + 3

/-- The sheet and tile at whose switch an end of an edge stands (R30, R32). -/
def Inst.tileOf (i : Inst) (e : EdgeEnd) : Nat × Nat :=
  match e with
  | .actor a _ => match aget? i.forme.actors a with
    | some x => ((x.members.headD x.home).sheet, (x.members.headD x.home).tile)
    | none => (0, 0)
  | .wide sheet port => (sheet, wideTile port)

/-- Package column and row of a tile, four to a sheet (R9). -/
def tileXY (p : Nat × Nat) : Nat × Nat := (4 * packX p.1 + p.2 % 4, 4 * packY p.1 + p.2 / 4)

/-- The sheet and tile at a package column and row of tiles. -/
def tileAt (x y : Nat) : Nat × Nat := (sheetAt (x / 4) (y / 4), 4 * (y % 4) + x % 4)

/-- The direction in which R355's way goes on from a tile: to the sheet's column, to its row, then inside it along x and along y;
none at its end. 0 N, 1 E, 2 S, 3 W. -/
def wayDir (x y tx ty : Nat) : Option Nat :=
  if x / 4 < tx / 4 then some 1
  else if tx / 4 < x / 4 then some 3
  else if y / 4 < ty / 4 then some 2
  else if ty / 4 < y / 4 then some 0
  else if x < tx then some 1
  else if tx < x then some 3
  else if y < ty then some 2
  else if ty < y then some 0
  else none

/-- One tile on in a direction. -/
def stepDir (x y d : Nat) : Nat × Nat :=
  match d with
  | 0 => (x, y - 1)
  | 1 => (x + 1, y)
  | 2 => (x, y + 1)
  | _ => (x - 1, y)

/-- The tiles of R355's way from one package position to another, both among them. A sheet is left at the tile of its side that the
way has come to (DESIGN CHOICE, log entry 6). -/
def wayTiles (fuel x y tx ty : Nat) : List (Nat × Nat) :=
  match fuel with
  | 0 => [tileAt x y]
  | fuel + 1 => match wayDir x y tx ty with
    | none => [tileAt x y]
    | some d => tileAt x y :: wayTiles fuel (stepDir x y d).1 (stepDir x y d).2 tx ty

/-- R355's way between two ends. -/
def Inst.plainWay (i : Inst) (a b : EdgeEnd) : List (Nat × Nat) :=
  let p := tileXY (i.tileOf a)
  let q := tileXY (i.tileOf b)
  wayTiles 128 p.1 p.2 q.1 q.2

/-- An end of an edge is where the image has it. -/
def Inst.atHome (i : Inst) (e : EdgeEnd) : Bool :=
  match e with
  | .actor a _ => ((aget? i.forme.actors a).map fun x => decide (x.members.headD x.home = x.home)).getD true
  | .wide _ _ => true

/-- The way of an edge in the layout as it stands: that of the image's switch words while both ends are where the image has them, else
R355's. -/
def Inst.wayOf (i : Inst) (e : Edge) : List (Nat × Nat) :=
  if i.atHome e.src && i.atHome e.dst && !e.laid.isEmpty then e.laid else i.plainWay e.src e.dst

/-- How many tiles two ways have in common from their start. -/
def sharedTiles (l m : List (Nat × Nat)) : Nat :=
  match l, m with
  | x :: l, y :: m => if x = y then sharedTiles l m + 1 else 0
  | _, _ => 0

/-- The event of a switch at the j-th tile of a way (R262): 14 straight on, 15 around a corner; none at its ends, where a token is
injected or ejected. -/
def hopEvent (l : List (Nat × Nat)) (j : Nat) : Option Nat :=
  if j = 0 ∨ l.length ≤ j + 1 then none
  else
    let a := tileXY (l.getD (j - 1) (0, 0))
    let b := tileXY (l.getD (j + 1) (0, 0))
    some (if a.1 = b.1 ∨ a.2 = b.2 then 14 else 15)

/-- The hops that an edge's tokens make and no earlier edge of the same source makes for them: where a later one parts from it the
switch copies the token (16), elsewhere it passes or turns (R73, R355). -/
def hopsOf (edges : Assoc Nat Edge) (k : Nat) (e : Edge) : List (Nat × Nat × Nat) :=
  let others := edges.filter fun q => decide (q.1 ≠ k) && decide (q.2.src = e.src)
  let shared := ((others.filter fun q => decide (q.1 < k)).map fun q => sharedTiles q.2.way e.way).foldl max 0
  (List.range e.way.length).filterMap fun j =>
    let at_ := e.way.getD j (0, 0)
    if j < shared then none
    else if others.any fun q => decide (sharedTiles q.2.way e.way = j + 1) then some (at_.1, at_.2, 16)
    else (hopEvent e.way j).map fun x => (at_.1, at_.2, x)

/-- Every edge goes the way of the layout as it stands. -/
def Inst.reroute (i : Inst) : Inst :=
  let edges := amap i.edges fun _ e => { e with way := i.wayOf e }
  { i with edges := amap edges fun k e => { e with hops := hopsOf edges k e } }

/-! ### Into the fabric -/

/-- Something that a node `from_` has emitted for an actor waits at output k of a node to enter the fabric (R244). -/
def State.inject (s : State) (n : NodeId) (ctx k actor : Nat) (from_ : NodeId) (x : Item) : State :=
  let c := s.nodeCtx n ctx
  s.setNodeCtx n ctx { c with inject := c.inject.set k (c.inject.get k ++ [(actor, from_, x)]) }

/-- The value a cloned SCAN set emits for a local prefix p, and the new C after a block whose last prefix is p: C ⊕ p (R199). -/
def scanOut (comb : Nat) (c : Val) (p : W32) : W32 := (combine comb c.tag c.value p).getD 0

/-- No firing of the set that started earlier is still in progress. -/
def Actor.turn (a : Actor) (seq : Nat) : Bool := a.active.all fun q => decide (seq ≤ q)

/-- A firing count is the last of its block (R194). -/
def Actor.blockEnd (a : Actor) (seq : Nat) : Bool :=
  decide ((seq - a.base) % actorBlock a.header = actorBlock a.header - 1)

/-- Every node on which an actor stands. -/
def Actor.places (a : Actor) : List NodeId := a.members ++ a.replicas.flatMap Prod.snd

/-- The member of a set to which a firing was dealt (R194). -/
def Actor.memberOf (a : Actor) (seq : Nat) : NodeId :=
  a.members.getD ((seq - a.base) / actorBlock a.header % a.members.length) a.home

/-- A merge or carry node has a unit for a token: its firings are charged like any other (R224, R241, R242). -/
def State.passes (s : State) (sheet ctx : Nat) (x : SetItem) : Bool :=
  match x with
  | .out _ _ _ => decide ((s.sheet sheet).units.get ctx ≠ 0)
  | .block _ => true

/-- A firing of the merge or carry node of a set: it takes a unit (R224, R241, R242), and it is progress (R255). -/
def State.passOut (s : State) (id ctx : Nat) (a : Actor) : State :=
  (s.takeWork id (a.members.headD a.home).sheet ctx).progress id

/-- The hardware nodes behind a set let go what has come to its turn: PURE outputs in deal order, SCAN outputs combined
with the carry C, which the last prefix of a block renews when the block ends (R194, R199, R224, R234). -/
def State.release (s : State) (id ctx aid : Nat) (a : Actor) (outs : List (Nat × SetItem)) : State :=
  match outs with
  | [] => s.updActor id aid fun x => { x with outs := [], carry := a.carry }
  | (seq, x) :: rest =>
    if a.turn seq && s.passes (a.members.headD a.home).sheet ctx x then
      match x, a.carry with
      | .out k t at_, none =>
        ((s.passOut id ctx a).inject (a.members.headD a.home) ctx k aid (a.memberOf seq) (.token t at_)).release id ctx aid a rest
      | .out k t at_, some c =>
        let t := { t with value := scanOut (actorComb a.header) c t.value }
        ((s.passOut id ctx a).inject (a.members.headD a.home) ctx k aid (a.memberOf seq) (.token t at_)).release id ctx aid a rest
      | .block p, some c => s.release id ctx aid { a with carry := some ⟨c.tag, scanOut (actorComb a.header) c p.value⟩ } rest
      | .block _, none => s.release id ctx aid a rest
    else s.updActor id aid fun y => { y with outs := (seq, x) :: rest, carry := a.carry }

/-- What waits behind a set, in deal order. -/
def insertOut (l : List (Nat × SetItem)) (x : Nat × SetItem) : List (Nat × SetItem) :=
  match l with
  | [] => [x]
  | y :: r => if x.1 < y.1 then x :: y :: r else y :: insertOut r x

/-- A token of a firing on a node goes to the fabric. It stands in that node's inject buffer; those of an actor's nodes are kept in one
list with its first member, in the order in which they enter the actor's edges: that of emission for an actor that stands alone or as
replicas (R222), the hardware nodes' of its set otherwise (R224). -/
def State.sendToken (s : State) (id ctx aid seq : Nat) (n : NodeId) (k : Nat) (t : Token) : State :=
  match s.actor? id aid with
  | none => s.inject n ctx k aid n (.token t s.cycle)
  | some a =>
    if decide (a.members.length ≤ 1) && a.outs.isEmpty && a.carry.isNone then
      s.inject (a.members.headD a.home) ctx k aid n (.token t s.cycle)
    else s.release id ctx aid a (insertOut a.outs (seq, .out k t s.cycle))

/-- Tokens of an output of an actor that stand in the inject buffer of one of its nodes: those that wait behind a set without a carry
node for their turn, and those that have not entered the fabric (R224, R244). -/
def State.buffered (s : State) (ctx aid : Nat) (a : Actor) (n : NodeId) (k : Nat) : Nat :=
  let behind := if a.carry.isSome then 0 else a.outs.countP fun o => match o.2 with
    | .out j _ _ => decide (j = k) && decide (a.memberOf o.1 = n)
    | .block _ => false
  behind + ((s.nodeCtx (a.members.headD a.home) ctx).inject.get k).countP fun x => decide (x.1 = aid) && decide (x.2.1 = n)

/-- The edges of an instance that leave an end. -/
def Inst.edgesFrom (i : Inst) (e : EdgeEnd) : List Nat := (i.edges.filter fun p => decide (p.2.src = e)).map Prod.fst

/-- The edges of an instance that reach an end. -/
def Inst.edgesTo (i : Inst) (e : EdgeEnd) : List Nat := (i.edges.filter fun p => decide (p.2.dst = e)).map Prod.fst

/-- Something enters an edge: behind a slug that the receiver has not taken, it waits on the new route (R223). -/
def Edge.push (e : Edge) (x : Item) : Edge :=
  let count := match x with
    | .token _ _ => e.passed + 1
    | _ => e.passed
  match e.rewiring with
  | none => { e with items := e.items ++ [x], passed := count }
  | some _ => { e with next := e.next ++ [x], passed := count }

/-- The item is a token. -/
def Item.isToken (x : Item) : Bool :=
  match x with
  | .token _ _ => true
  | _ => false

/-- The edge takes one more token: the eject buffer at its end holds 4, and what the switches on the way hold is not given
(R265; log entry 21). -/
def Edge.room (id : Nat) (e : Edge) : Bool :=
  decide ((e.items ++ e.next).countP Item.isToken < Config.linkRoom id + 4)

/-- Every edge of a list has room. -/
def Inst.edgeRoom (i : Inst) (ids : List Nat) : Bool := i.edges.all fun p => !(ids.contains p.1) || p.2.room p.1

/-- Something enters several edges of an instance (R73: fan-out). -/
def Inst.pushEdges (i : Inst) (ids : List Nat) (x : Item) : Inst :=
  { i with edges := amap i.edges fun k e => if ids.contains k then e.push x else e }

/-- What waits behind the sets of an instance whose first member stands on a node, and now has a unit, goes on (R242). -/
def State.releaseAt (s : State) (id : Nat) (i : Inst) (n : NodeId) : State :=
  i.forme.actors.foldl (fun s p =>
    match s.actor? id p.1 with
    | none => s
    | some a =>
      if decide (a.members.headD a.home = n) && !a.outs.isEmpty then s.release id i.ctx p.1 a a.outs else s) s

/-- The inject buffer of an output holds so many tokens from now on: the rate for which it has room by that is ready since this cycle
(R244, R245). -/
def NodeCtx.roomed (c : NodeCtx) (k left now : Nat) : NodeCtx :=
  if left < 4 then { c with roomAt := c.roomAt.set k ((c.roomAt.get k).set (3 - left) now) } else c

/-- The first of what waits at an output has left, from the inject buffer of the node that emitted it. -/
def State.sent (s : State) (id : Nat) (n : NodeId) (ctx k aid : Nat) (from_ : NodeId) (rest : List (Nat × NodeId × Item)) : State :=
  let c := s.nodeCtx n ctx
  let s := s.setNodeCtx n ctx { c with inject := c.inject.set k rest }
  let left := match s.actor? id aid with
    | some a => s.buffered ctx aid a from_ k
    | none => rest.length
  s.setNodeCtx from_ ctx ((s.nodeCtx from_ ctx).roomed k left s.cycle)

/-- What waits first at an output enters the fabric on every edge of the output (R222). A token stays without an edge, and
while one of its edges has no room (R244). Nothing moves where the bulkhead's clock stands (R285) or the instance is being restored
(R315). -/
def State.transit (s : State) (n : NodeId) (ctx k : Nat) : State :=
  if s.stopped n.sheet || s.restoringAt n.sheet ctx then s
  else match s.instAt n.sheet ctx with
  | none => s
  | some (id, i) =>
    match (s.nodeCtx n ctx).inject.get k with
    | [] => s.releaseAt id i n
    | (a, from_, x) :: rest =>
      let edges := i.edgesFrom (.actor a k)
      if edges.isEmpty then
        match x with
        | .token _ _ => s
        | _ => s.sent id n ctx k a from_ rest
      else if x.isToken && !(i.edgeRoom edges) then s
      else (s.sent id n ctx k a from_ rest).updInst id fun i => i.pushEdges edges x

/-! ### Layout events (R28, R194, R196, R234) -/

/-- A log with an event appended; at 256 entries the oldest is overwritten (R28). -/
def pushLog (l : List LogEntry) (e : LogEntry) : List LogEntry := (if 256 ≤ l.length then l.drop 1 else l) ++ [e]

/-- The layout version and the log that a cut saves after an event of an actor that has not saved for it (R28, R223). -/
def Area.logEvent (r : Area) (e : LogEntry) : Area :=
  let v := ((r.forme.map fun f => f.layver).getD 0) + 1
  { r with
    forme := r.forme.map fun f => { f with layver := v }, log := pushLog r.log { e with version := v } }

/-- An event of an actor is logged (R28); `saved`, also in the layout that the cut in progress saves (R223). -/
def Inst.logEvent (i : Inst) (saved : Bool) (now : Nat) (kind : BitVec 8) (a : Actor) (before after : NodeId) (member : Nat) : Inst :=
  let v := i.forme.layver + 1
  let e : LogEntry := { time := BitVec.ofNat 64 now, tokens := BitVec.ofNat 64 a.started, after := after, before := before,
                        actor := BitVec.ofNat 16 a.number, member := BitVec.ofNat 3 member, kind := kind, version := v }
  { i with
    forme := { i.forme with layver := v }, log := pushLog i.log e, overwritten := if 256 ≤ i.log.length then i.overwritten + 1 else i.overwritten,
    cutting := if saved then i.cutting.map fun r => r.logEvent e else i.cutting }

/-- The slot words of a micro-sequence from a slot on, up to its end bit: op words with their slots, immediates skipped
(R16, R126). -/
def microSeq (c : NodeClass) (slots : Vector W32 16) (pc fuel : Nat) : List (Nat × W32) :=
  match fuel with
  | 0 => []
  | fuel + 1 =>
    if h : pc < 16 then
      let w := slots[pc]
      if w.getLsbD 4 then [(pc, w)]
      else (pc, w) :: microSeq c slots (pc + (if isConstWord c w then 2 else 1)) fuel
    else []

/-- The opcode of an op word (R67). -/
def opcodeOf (w : W32) : Nat := (w.extractLsb' 26 6).toNat

/-- The keep register a code names (R67). -/
def keepOf (x : BitVec 3) : Nat := x.toNat - 4

/-- The op words of an extent with their slots, immediates of `const` skipped (R126). -/
def extentOps (c : NodeClass) (slots : Vector W32 16) (ext : BitVec 16) (pc fuel : Nat) : List (Nat × W32) :=
  match fuel with
  | 0 => []
  | fuel + 1 =>
    if h : pc < 16 then
      let w := slots[pc]
      if inExtent ext pc then (pc, w) :: extentOps c slots ext (pc + (if isConstWord c w then 2 else 1)) fuel else []
    else []

/-- The op words of an actor's extent from its first slot on. -/
def actorOps (c : NodeClass) (slots : Vector W32 16) (ext : BitVec 16) : List (Nat × W32) :=
  extentOps c slots ext (bitsOf ext.toNat 12 4) 16

/-- The state register of an ASSOC or SCAN actor: the b of its first `acc` or `scan` (R136). -/
def stateReg (slots : Vector W32 16) (ext : BitVec 16) : Option Nat :=
  (actorOps .element slots ext).findSome? fun p =>
    if opcodeOf p.2 = 0x2B ∨ opcodeOf p.2 = 0x2C then some (keepOf (p.2.extractLsb' 20 3)) else none

end Sys2Proof.Machine
end

