-- ==== Sys2Proof/Machine/Front.lean ====
section
/-! DEFINITION. Fronts: the order of keys, domination, insertion with the four overflow policies, and the drain order
(R164–R172). -/

namespace Sys2Proof.Machine

/-- The value of a key for comparison (R165): BF16 keys by value, INT16 keys as signed integers. -/
def keyNum (kt : Bool) (k : BitVec 16) : FpNum :=
  if kt then FpNum.ofInt (signedLane 16 k.toNat) else bf16.decode k.toNat

/-- A key as it is stored: −0 becomes +0 (R165). -/
def storeKey (kt : Bool) (k : BitVec 16) : BitVec 16 := if !kt && decide (k = 0x8000#16) then 0 else k

/-- Key j of x is better than that of y, in the direction of bit j (R165). -/
def keyBetter (c : FrontConfig) (j : Nat) (x y : Tuple) : Bool :=
  let a := keyNum c.kt (x.keys.getD j 0)
  let b := keyNum c.kt (y.keys.getD j 0)
  if c.dir.getLsbD j then b.lt a else a.lt b

/-- x dominates y: no key worse, one better (R165). -/
def dominates (c : FrontConfig) (x y : Tuple) : Bool :=
  ((List.range c.nk).all fun j => !(keyBetter c j y x)) && (List.range c.nk).any fun j => keyBetter c j x y

/-- x and y agree in every key. -/
def sameKeys (c : FrontConfig) (x y : Tuple) : Bool :=
  (List.range c.nk).all fun j => !(keyBetter c j y x) && !(keyBetter c j x y)

/-- A key of the tuple is a BF16 NaN (R166). -/
def hasNanKey (c : FrontConfig) (x : Tuple) : Bool :=
  !c.kt && x.keys.any fun k => match bf16.decode k.toNat with
    | .nan => true
    | _ => false

/-- x comes before y in the drain order: key 0 best first, then payload ascending, then keys 1 to 3 best first (R169). -/
def drainBefore (c : FrontConfig) (x y : Tuple) : Bool :=
  if keyBetter c 0 x y then true
  else if keyBetter c 0 y x then false
  else if x.payload.value.toNat < y.payload.value.toNat then true
  else if y.payload.value.toNat < x.payload.value.toNat then false
  else
    match (List.range c.nk).find? fun j => keyBetter c j x y || keyBetter c j y x with
    | some j => keyBetter c j x y
    | none => false

/-- A tuple into a list in drain order. -/
def drainInsert (c : FrontConfig) (x : Tuple) (l : List Tuple) : List Tuple :=
  match l with
  | [] => [x]
  | y :: r => if drainBefore c x y then x :: y :: r else y :: drainInsert c x r

/-- The tuples in drain order (R169). -/
def drainOrder (c : FrontConfig) (l : List Tuple) : List Tuple := l.foldl (fun acc x => drainInsert c x acc) []

/-- What an insertion does (R166, R168). -/
structure Inserted where
  tuples : List Tuple          -- the front after it
  kept : Bool                  -- x is in the front after it
  dominated : Bool             -- x dominates a held tuple
  met : Bool                   -- it reached the overflow policy
  ovf : Bool                   -- it sets OVF
  nan : Bool                   -- it sets NAN
  full : Bool                  -- it reports the front-full subcode
  deriving DecidableEq, Repr

/-- The insertion of a tuple in a configured front (R166). -/
def insertTuple (c : FrontConfig) (l : List Tuple) (x : Tuple) : Inserted :=
  if hasNanKey c x then ⟨l, false, false, false, false, true, false⟩
  else if l.any fun h => dominates c h x then ⟨l, false, false, false, false, false, false⟩
  else
    let same := l.filter fun h => sameKeys c h x
    let dropped := if c.keepAll then same.any fun h => decide (h.payload.value = x.payload.value)
      else same.any fun h => decide (h.payload.value.toNat ≤ x.payload.value.toNat)
    if dropped then ⟨l, false, false, false, false, false, false⟩
    else
      let dom := l.any fun h => dominates c x h
      let rest := l.filter fun h => !(dominates c x h) && (c.keepAll || !(sameKeys c h x))
      if rest.length < c.cap then ⟨rest ++ [x], true, dom, false, false, false, false⟩
      else match c.ovf.toNat with
        | 0 => ⟨rest, false, dom, true, true, false, false⟩
        | 1 =>
          let last := (drainOrder c (rest ++ [x])).getLast?
          if last = some x then ⟨rest, false, dom, true, true, false, false⟩
          else ⟨(rest ++ [x]).filter fun h => decide (some h ≠ last), true, dom, true, true, false, false⟩
        | 2 =>
          if rest.length < c.cap + 1024 then ⟨rest ++ [x], true, dom, true, false, false, false⟩
          else ⟨rest, false, dom, true, true, false, true⟩
        | _ => ⟨rest, false, dom, true, true, false, true⟩

/-- A front after an insertion. -/
def Front.insert (f : Front) (c : FrontConfig) (x : Tuple) : Front × Bool :=
  let r := insertTuple c f.tuples x
  ({ f with tuples := r.tuples, ovf := f.ovf || r.ovf, nan := f.nan || r.nan }, r.full)

/-- The word `fprobe` writes (R168). -/
def probeWord (c : FrontConfig) (l : List Tuple) (x : Tuple) : W32 :=
  let r := insertTuple c l x
  if r.nan then 8
  else BitVec.ofNat 32 ((if r.kept then 1 else 0) + (if r.dominated then 2 else 0) + (if r.met then 4 else 0))

/-- S0 ⊕ S1 of two fronts: S1's tuples enter S0 in S1's drain order, the flags are OR-ed (R172); and whether a tuple was
dropped for want of room under TRAP or SPILL. -/
def combineFronts (a b : Front) : Front × Bool :=
  match b.config with
  | none => (a, false)
  | some c =>
    let r := (drainOrder c b.tuples).foldl (fun (p : Front × Bool) x =>
      let q := p.1.insert c x
      (q.1, p.2 || q.2)) (a, false)
    ({ r.1 with ovf := r.1.ovf || b.ovf, nan := r.1.nan || b.nan }, r.2)

/-- The tuple that three operands give (R165). -/
def readTuple (c : FrontConfig) (a b : W32) (payload : Val) : Tuple :=
  let ks := [laneOf 16 a 0, laneOf 16 a 1, laneOf 16 b 0, laneOf 16 b 1].take c.nk
  { keys := ks.map fun k => storeKey c.kt (BitVec.ofNat 16 k), payload := payload }

/-- The tag of the keys (R164). -/
def FrontConfig.keyTag (c : FrontConfig) : BitVec 3 := if c.kt then 7 else 2

/-- Keys j and j + 1 of a tuple in one token value; unused lanes are zero (R169). -/
def keyPair (x : Tuple) (j : Nat) : W32 :=
  ofLanes 16 [(x.keys.getD j 0).toNat, (x.keys.getD (j + 1) 0).toNat]

end Sys2Proof.Machine
end

