-- ==== Sys2Proof/Machine/Layout.lean ====
section
/-! DEFINITION. The graph as laid out: what a clone, unclone, fold or unfold event does when it takes effect (R26, R28,
R136, R172, R194–R199, R234), and the free elements it looks for (R22, R26, R150, R266, R268). -/

namespace Sys2Proof.Machine

/-- Each of four computed from its index. -/
def Quad.ofFn {α : Type} (f : Nat → α) : Quad α := ⟨f 0, f 1, f 2, f 3⟩

/-- Operand codes of an op word (R67). -/
def operandCodes (w : W32) : List Nat :=
  [bitsOf w.toNat 23 3, bitsOf w.toNat 20 3, bitsOf w.toNat 17 3, bitsOf w.toNat 14 3]

/-- The keep registers that the op words of an extent name (R18, R26). -/
def keepsUsed (c : NodeClass) (slots : Vector W32 16) (ext : BitVec 16) : List Nat :=
  ((actorOps c slots ext).flatMap fun p =>
    (operandCodes p.2).filterMap fun x => if 4 ≤ x then some (x - 4) else none).eraseDups

/-- The slots of an extent copied from one set of op words to another. -/
def copySlots (src dst : Vector W32 16) (ext : BitVec 16) : Vector W32 16 :=
  Vector.ofFn fun k => if inExtent ext k.val then src[k.val]'k.isLt else dst[k.val]'k.isLt

/-- The lowest header index that is free. -/
def NodeCtx.freeHeader (c : NodeCtx) : Option Nat := (List.range 4).find? fun k => (c.headers.get k).isNone

/-- The index of the header with an extent. -/
def NodeCtx.headerOf (c : NodeCtx) (ext : BitVec 16) : Option Nat :=
  (List.range 4).find? fun k => match c.headers.get k with
    | some (_, x) => decide (x = ext)
    | none => false

/-- An actor's op words and header are put on a node's context (R26). The keep registers it uses take the values given: the
original's, so that a copy of a PURE actor computes from the same state (R195; log entry 116). -/
def NodeCtx.place (c : NodeCtx) (cls : NodeClass) (a : Actor) (slots : Vector W32 16) (keeps : Quad Val) : NodeCtx :=
  match c.freeHeader with
  | none => c
  | some k =>
    let used := keepsUsed cls slots a.extent
    { c with
      slots := copySlots slots c.slots a.extent, headers := c.headers.set k (some (a.header, a.extent)),
      counters := c.counters.set k 0, omerge := c.omerge.set k 0, params := c.params.set k (Quad.all none),
      keeps := Quad.ofFn fun r => if used.contains r then keeps.get r else c.keeps.get r }

/-- An actor is taken off a node's context: its header, with its position of `omerge` and its parameter tokens, and its rings. -/
def NodeCtx.remove (c : NodeCtx) (aid : Nat) (ext : BitVec 16) : NodeCtx :=
  match c.headerOf ext with
  | none => c
  | some k =>
    { c with
      headers := c.headers.set k none, omerge := c.omerge.set k 0, params := c.params.set k (Quad.all none),
      rings := c.rings.filter fun r => decide (r.actor ≠ aid) }

/-- Free slots cover the actor's range, a header is free, and no resident actor uses a keep register it uses (R26,
R266). -/
def NodeCtx.roomFor (c : NodeCtx) (cls : NodeClass) (a : Actor) (slots : Vector W32 16) : Bool :=
  c.freeHeader.isSome &&
  (List.range 4).all fun k => match c.headers.get k with
    | none => true
    | some (_, x) =>
      ((List.range 16).all fun j => !(inExtent x j && inExtent a.extent j)) &&
      (keepsUsed cls c.slots x).all fun r => !((keepsUsed cls slots a.extent).contains r)

/-- The elements of a tile row of a sheet, in index order: tile index 4·y + x, row y (R9, R21). -/
def rowElements (sheet row : Nat) : List NodeId :=
  (List.range 4).flatMap fun x => (List.range 16).map fun e => ⟨.element, sheet, 4 * row + x, e⟩

/-- The front elements of a tile row of a sheet. -/
def rowFronts (sheet row : Nat) : List NodeId := (List.range 4).map fun x => ⟨.fe, sheet, 4 * row + x, 0⟩

/-- The lowest-indexed free place for a copy of an actor in the row domain of a node, a tile row of its sheet (R21, R26, R150,
R266). `taken` are places given away in the same decision. -/
def State.freePlace (s : State) (i : Inst) (a : Actor) (n : NodeId) (slots : Vector W32 16) (taken : List NodeId) :
    Option NodeId :=
  let places := match n.cls with
    | .fe => (rowFronts n.sheet (n.tile / 4)).filter fun m => decide (m ≠ n)
    | _ => rowElements n.sheet (n.tile / 4)
  places.find? fun m =>
    !(taken.contains m) && !(a.members.contains m) &&
    (match n.cls with
     | .fe => decide ((s.nodeCtx m i.ctx).headers = Quad.all none)
     | _ => (s.nodeCtx m i.ctx).roomFor n.cls a slots)

/-- States of an ASSOC set combined left to right in clone-index order (R196). -/
def combineStates (comb : Nat) (s0 : Val) (rest : List Val) : Val :=
  match rest with
  | [] => s0
  | v :: r => combineStates comb ⟨s0.tag, (combine comb s0.tag s0.value v.value).getD s0.value⟩ r

/-- Fronts of an FE set combined in clone-index order (R172), and whether a tuple was dropped for want of room. -/
def combineAllFronts (f0 : Front) (rest : List Front) : Front × Bool :=
  rest.foldl (fun p f => let q := combineFronts p.1 f; (q.1, p.2 || q.2)) (f0, false)

/-- The running state of a SCAN actor at a layout event: its state register where it is not cloned, else C, and with it what the
block that the event cuts short has come to (R194, R199, R234, R235). -/
def State.cloneCarry (s : State) (ctx : Nat) (a : Actor) (k : Nat) : Val :=
  let reg (n : NodeId) : Val := (s.nodeCtx n ctx).keeps.get k
  let fired := a.started - a.base
  match a.carry with
  | none => reg (a.members.headD a.home)
  | some c =>
    if fired % actorBlock a.header = 0 then c
    else ⟨c.tag, scanOut (actorComb a.header) c
      (reg (a.members.getD (fired / actorBlock a.header % a.members.length) a.home)).value⟩

/-- The state of the set joined into clone 0 (R136, R172, R196, R234); and whether a front dropped a tuple. -/
def State.joinStates (s : State) (ctx : Nat) (a : Actor) : State × Bool :=
  let n0 := a.members.headD a.home
  let c0 := s.nodeCtx n0 ctx
  let others := a.members.drop 1
  match actorClass a.header with
  | 2 =>
    if n0.cls = .fe then
      let r := combineAllFronts c0.front (others.map fun n => (s.nodeCtx n ctx).front)
      (s.setNodeCtx n0 ctx { c0 with front := r.1 }, r.2)
    else match stateReg c0.slots a.extent with
      | none => (s, false)
      | some k =>
        let v := combineStates (actorComb a.header) (c0.keeps.get k) (others.map fun n => (s.nodeCtx n ctx).keeps.get k)
        (s.setNodeCtx n0 ctx { c0 with keeps := c0.keeps.set k v }, false)
  | 3 =>
    match stateReg c0.slots a.extent with
    | some k => (s.setNodeCtx n0 ctx { c0 with keeps := c0.keeps.set k (s.cloneCarry ctx a k) }, false)
    | none => (s, false)
  | _ => (s, false)

/-- The clones of a set other than clone 0 are taken off their nodes. -/
def State.removeClones (s : State) (ctx aid : Nat) (ext : BitVec 16) (l : List NodeId) : State :=
  match l with
  | [] => s
  | n :: r => (s.setNodeCtx n ctx ((s.nodeCtx n ctx).remove aid ext)).removeClones ctx aid ext r

/-- A spill access of a front to its extension overlaps a held range of the sheet's scoreboard, and waits (R219). -/
def State.spillHeld (s : State) (n : NodeId) (c : FrontConfig) : Bool :=
  decide (c.ovf = 2#2) && (s.sheet n.sheet).board.any fun r => r.overlaps (sheetLoc n.sheet (256 * c.ext)) 16384

/-- Joining the states of a set would spill into an extension that a held range of the scoreboard holds back (R172, R219). -/
def State.joinHeld (s : State) (ctx : Nat) (a : Actor) : Bool :=
  let n := a.members.headD a.home
  decide (n.cls = .fe) && decide (1 < a.members.length) && ((s.nodeCtx n ctx).front.config.map fun c => s.spillHeld n c).getD false

/-- An event of an actor that has not saved for the cut in progress is in the layout that the cut saves (R223, R311). -/
def State.logged (s : State) (ctx : Nat) (a : Actor) : Bool := !(s.nodeCtx (a.members.headD a.home) ctx).saved

/-- A set is uncloned as a whole, once nothing waits behind it: states joined into clone 0, one log entry (R28, R111, R196, R235, R267). -/
def State.uncloneSet (s : State) (id aid : Nat) : State × Bool :=
  match aget? s.insts id with
  | none => (s, false)
  | some i =>
    match aget? i.forme.actors aid with
    | none => (s, false)
    | some a =>
      if a.members.length ≤ 1 then (s, false)
      else
        let s := s.release id i.ctx aid a a.outs
        let a := (s.actor? id aid).getD a
        let r := s.joinStates i.ctx a
        let s := r.1.removeClones i.ctx aid a.extent (a.members.drop 1)
        let n0 := a.members.headD a.home
        let s := s.updInst id fun i => i.logEvent (s.logged i.ctx a) s.time 1 a (a.members.getLastD n0) n0 0
        (s.updActor id aid fun a => { a with members := [n0], base := a.started, carry := none, lowWindows := 0,
                                                eventWindow := some i.window }, r.2)

/-- A clone event takes effect: one member is added with the identity in its state register, and the round starts anew
(R26, R136, R194, R199, R234). -/
def State.cloneSet (s : State) (id aid : Nat) (n : NodeId) : State :=
  match aget? s.insts id with
  | none => s
  | some i =>
    match aget? i.forme.actors aid with
    | none => s
    | some a =>
      let n0 := a.members.headD a.home
      let c0 := s.nodeCtx n0 i.ctx
      let c := (s.nodeCtx n i.ctx).place n0.cls a c0.slots c0.keeps
      let scan := decide (actorClass a.header = 3)
      let c := match n0.cls, stateReg c0.slots a.extent with
        | .fe, _ => { c with front := { c0.front with tuples := [], ovf := false, nan := false, building := [] } }
        | _, some k =>
          let v := c0.keeps.get k
          { c with keeps := c.keeps.set k ⟨v.tag, (combIdentity (actorComb a.header) v.tag).getD 0⟩ }
        | _, none => c
      let carry := if scan then (stateReg c0.slots a.extent).map fun k => s.cloneCarry i.ctx a k else a.carry
      let s := s.setNodeCtx n i.ctx c
      let s := s.updInst id fun i => i.logEvent (s.logged i.ctx a) s.time 0 a n0 n a.members.length
      s.updActor id aid fun a => { a with members := a.members ++ [n], base := a.started, carry := carry, lowWindows := 0,
                                          eventWindow := some i.window }

/-- Tokens of an actor among those queued on a port. -/
def tokensOf (ext : BitVec 16) (l : List QToken) : List QToken := l.filter fun q => inExtent ext q.tok.slot.toNat

/-- The others. -/
def tokensNotOf (ext : BitVec 16) (l : List QToken) : List QToken := l.filter fun q => !(inExtent ext q.tok.slot.toNat)

/-- An entry of the matching store that follows an actor from one node to another. -/
def StoreEntry.move (e : StoreEntry) (m n : NodeId) (ctx : Nat) (ext : BitVec 16) : StoreEntry :=
  if e.node = m ∧ e.qt.tok.ctx.toNat = ctx ∧ inExtent ext e.qt.tok.slot.toNat = true then { e with node := n } else e

/-- The entries of an actor follow it in their tile's store. -/
def Tile.moveEntries (t : Tile) (m n : NodeId) (ctx : Nat) (ext : BitVec 16) : Tile :=
  { t with store := t.store.map fun e => e.move m n ctx ext }

/-- The entry is one of an actor on a node. -/
def StoreEntry.isOf (e : StoreEntry) (m : NodeId) (ctx : Nat) (ext : BitVec 16) : Bool :=
  decide (e.node = m) && decide (e.qt.tok.ctx.toNat = ctx) && inExtent ext e.qt.tok.slot.toNat

/-- The entries of an actor follow it, into the store of another tile where it goes to one, which takes them even past its room: no
token is lost (R27; DESIGN CHOICE, log entry 117). -/
def State.moveStore (s : State) (m n : NodeId) (ctx : Nat) (ext : BitVec 16) : State :=
  let t := s.tile m.sheet m.tile
  let moved := t.moveEntries m n ctx ext
  if decide (m.sheet = n.sheet) && decide (m.tile = n.tile) then s.setTile m.sheet m.tile moved
  else
    let s := s.setTile m.sheet m.tile { t with store := t.store.filter fun e => !(e.isOf m ctx ext) }
    let u := s.tile n.sheet n.tile
    s.setTile n.sheet n.tile { u with store := u.store ++ (moved.store.filter fun e => e.isOf n ctx ext) }

/-- Capacity of a ring (R137). -/
def ringCap (v : W32) : Nat := bitsOf v.toNat 14 13 + 1

/-- First byte of a ring in the tile's TS (R137). -/
def ringBase (v : W32) : Nat := 8 * bitsOf v.toNat 0 14

/-- The location of an entry of a ring in the TS of a tile (R137). -/
def ringEntry (n : NodeId) (v : W32) (k : Nat) : Nat := sheetLoc n.sheet (0x20000 * n.tile + ringBase v + 8 * (k % ringCap v))

/-- Rings copied to the same places in the TS of the tile of another node (R195; DESIGN CHOICE, log entry 117). -/
def Memory.moveRings (mem : Memory) (m n : NodeId) (l : List Ring) : Memory :=
  l.foldl (fun mem r => mem.write (ringEntry n r.desc 0) (mem.read (ringEntry m r.desc 0) (8 * ringCap r.desc))) mem

/-- What stays with an actor that leaves a node: `mine` of each list goes, the rest stays. -/
def NodeCtx.withoutActor (c : NodeCtx) (aid : Nat) (ext : BitVec 16) : NodeCtx :=
  { c.remove aid ext with
    queues := Quad.ofFn fun k => tokensNotOf ext (c.queues.get k),
    inject := Quad.ofFn fun k => (c.inject.get k).filter fun x => decide (x.1 ≠ aid),
    stopped := match c.headerOf ext with
      | some h => c.stopped.filter fun k => decide (k ≠ h)
      | none => c.stopped }

/-- A node's context with an actor that comes from another. Its queued tokens join the target's queues even past 4: no token is lost,
and the port takes none until there is room again (R27; DESIGN CHOICE, log entry 117). It brings op words, header, keep registers, queued and parameter tokens,
position of `omerge`, ring, firing counter, and what it has emitted and not yet sent (R26, R195). -/
def NodeCtx.withActor (d c : NodeCtx) (cls : NodeClass) (aid : Nat) (a : Actor) : NodeCtx :=
  let e := d.place cls a c.slots c.keeps
  let e := match c.headerOf a.extent, d.freeHeader with
    | some h, some g =>
      { e with omerge := e.omerge.set g (c.omerge.get h), counters := e.counters.set g (c.counters.get h),
               params := e.params.set g (c.params.get h),
               stopped := if c.stopped.contains h then g :: e.stopped else e.stopped }
    | _, _ => e
  { e with
    queues := Quad.ofFn fun k => d.queues.get k ++ tokensOf a.extent (c.queues.get k),
    rings := d.rings ++ c.rings.filter fun r => decide (r.actor = aid),
    inject := Quad.ofFn fun k => d.inject.get k ++ (c.inject.get k).filter fun x => decide (x.1 = aid) }

/-- A fold or unfold takes effect: op words, header, keep registers, tokens, rings and actor state move (R26, R195), and
with them the bellwethers that have come for it, and its edges go the way to its new place (R355); `other` is the actor it joins or
leaves (R268). -/
def State.moveActor (s : State) (id aid : Nat) (n : NodeId) (kind : BitVec 8) (other : Nat) : State :=
  match aget? s.insts id with
  | none => s
  | some i =>
    match aget? i.forme.actors aid with
    | none => s
    | some a =>
      let m := a.members.headD a.home
      let c := s.nodeCtx m i.ctx
      let d := (s.nodeCtx n i.ctx).withActor c m.cls aid a
      let rung := c.belled.filter fun e => match aget? i.edges e with
        | some x => match x.dst with
          | .actor b _ => decide (b = aid)
          | .wide _ _ => false
        | none => false
      let c := { c with belled := c.belled.filter fun e => !(rung.contains e) }
      let d := { d with belled := rung ++ d.belled }
      let s := (s.setNodeCtx m i.ctx (c.withoutActor aid a.extent)).setNodeCtx n i.ctx d
      let s := s.moveStore m n i.ctx a.extent
      let s := if m.sheet = n.sheet ∧ m.tile = n.tile then s
        else { s with mem := s.mem.moveRings m n (c.rings.filter fun r => decide (r.actor = aid) && decide (r.count ≠ 0)) }
      let s := s.updInst id fun i => i.logEvent (s.logged i.ctx a) s.time kind a m n 0
      let s := s.updActor id aid fun a => { a with members := [n], folded := if kind = 2 then some (m, other) else none,
                                                   eventWindow := some i.window }
      (s.updActor id other fun a => { a with eventWindow := some i.window }).updInst id Inst.reroute

/-- The slugs and changes of an actor that waits for none any more. -/
def Inst.dropChange (i : Inst) (id : Nat) : Inst := { i with changes := i.changes.filter fun c => decide (c.id ≠ id) }

end Sys2Proof.Machine
end

