-- ==== Sys2Proof/Machine/Cut.lean ====
section
/-! DEFINITION. Asking for a cut and beginning one (R308, R309, R311, R312, R318): what is saved at the instant of
injection, and the bellwethers placed behind the tokens of every wide port. -/

namespace Sys2Proof.Machine

/-- The words of a thread's spill area, oldest first (R89, R311). -/
def State.spillWords (s : State) (inst sheet : Nat) (t : Thread) : List Word :=
  match decodeAddr sheet false t.rasBase.toNat with
  | some r => (List.range t.rasSpl).map fun k => bytesWord (s.loadBytes inst (r.loc + 8 * k) 8)
  | none => []

/-- The bytes of a galley in the sheet's own SS (R318). -/
def State.ringBytes (s : State) (sheet : Nat) (g : Galley) : Option (List Byte) :=
  match decodeAddr sheet false g.base.toNat with
  | some (.ss sh off) => some (s.mem.read (ssLoc sh off) (32 * g.size))
  | _ => none

/-- What a cut saves of one sheet at injection (R309, R311, R318). A thread is saved as it stands before its next
instruction to retire: a waiting one at its instruction. -/
def State.saveSheet (s : State) (id : Nat) (i : Inst) (sheet : Nat) : SheetSave :=
  let sh := s.sheet sheet
  let t := s.thread sheet i.ctx
  { sheet := sheet,
    thread := { t with wait := none },
    spill := s.spillWords id sheet t,
    popBuffer := s.mem.read (ssLoc sheet (popBuffer i.ctx)) 32,
    windows := sh.windows.get i.ctx,
    queues := sh.queues,
    rings := sh.queues.filterMap fun q => match q.2.galley with
      | some g => (s.ringBytes sheet g).map fun bs => (q.1, bs)
      | none => none,
    keep := (i.keepRanges.filter fun k => decide (k.1 = sheet)).filterMap fun k =>
      (decodeAddr sheet false (0xFF00000000000000 + k.2.1)).map fun r => (r.loc, s.mem.read r.loc (min k.2.2 r.room)) }

/-- The tokens among what travels. -/
def itemTokens (l : List Item) : List Token :=
  l.filterMap fun x => match x with
    | .token t _ => some t
    | _ => none

/-- The body of a cut at injection: threads, queues, keep ranges, streams with their cursors, forme state; the nodes save
later, one by one, and the tokens that wait at wide ports (R309–R311, log entry 61). -/
def State.newArea (s : State) (id : Nat) (i : Inst) : Area :=
  { time := 0, cut := i.cutsDone, layver := i.forme.layver, crc := 0, len := 0, valid := false,
    sheets := i.sheets.map fun sh => s.saveSheet id i sh,
    nodes := [],
    streams := s.streams.filter fun p => decide (p.2.inst = id) && decide (p.2.state ≠ .cancelled),
    forme := some i.forme,
    ops := (s.ops.filter fun p => decide (p.2.inst = id) && p.2.afterCommit && !p.2.released).map Prod.fst,
    wide := i.sheets.flatMap fun sh => (s.sheet sh).wide.flatMap fun p =>
      if p.1.2 = i.ctx then (itemTokens p.2).map fun t => (sh, p.1.1, t) else [],
    rung := [], incomplete := [], log := i.log }

/-- The marks of an earlier cut are off a node (R310). -/
def NodeCtx.clearMarks (c : NodeCtx) : NodeCtx := { c with belled := [], saved := false, channel := [] }

/-- A bellwether behind everything on the edges that leave wide ports (R309). -/
def Inst.placeBells (i : Inst) (cut : Nat) : Inst :=
  { i with edges := amap i.edges fun _ e => match e.src with
      | .wide _ _ => e.push (.bell cut)
      | .actor _ _ => e }

/-- The ASSOC sets of an instance with no firing in progress, whose join no scoreboard range holds back (R196, R219). -/
def State.assocSets (s : State) (i : Inst) : List Nat :=
  (i.forme.actors.filter fun p =>
    decide (actorClass p.2.header = 2) && decide (1 < p.2.members.length) && p.2.active.isEmpty && !(s.joinHeld i.ctx p.2)).map Prod.fst

/-- Sets uncloned one after another. -/
def State.uncloneSets (s : State) (id : Nat) (l : List Nat) : State :=
  match l with
  | [] => s
  | a :: r => (s.uncloneSet id a).1.uncloneSets id r

/-- A cut begins (R309): the sets whose states must be joined are uncloned (R196), everything that is saved at one
instant is saved, and the bellwethers are placed. Every operation of the instance has been issued before it (R313). -/
def State.injectCut (s : State) (id : Nat) : State :=
  match aget? s.insts id with
  | none => s
  | some i0 =>
    let s := s.uncloneSets id (s.assocSets i0)
    match aget? s.insts id with
    | none => s
    | some i =>
      let s := { s with nodes := amap s.nodes fun n v =>
        if i.sheets.contains n.sheet then { v with ctxs := v.ctxs.set i.ctx (v.ctxs.get i.ctx).clearMarks } else v }
      let s := { s with ops := amap s.ops fun _ o => if o.inst = id then { o with cut := min o.cut i.cutsDone } else o }
      s.setInst id { (i.placeBells i.cutsDone) with cutting := some (s.newArea id i), cutWanted := false }

/-- A cut of an instance is requested (R308): one in progress serves the request; during a rollback the request waits. -/
def State.requestCut (s : State) (id : Nat) : State :=
  match aget? s.insts id with
  | none => s
  | some i =>
    if i.cutting.isSome then s
    else if i.restoring then s.updInst id fun i => { i with cutWanted := true }
    else s.injectCut id

/-! ### Commit (R225, R226) -/

/-- Held bytes written to memory. -/
def Memory.put (m : Memory) (l : Assoc Nat Byte) : Memory := l.foldl (fun m p => m.set p.1 p.2) m

/-- A 256-byte line is held whole. -/
def Inst.coversLine (i : Inst) (line : Nat) : Bool := (List.range 256).all fun k => (aget? i.held (256 * line + k)).isSome

/-- The proof buffers of an instance make their final commit (R226, R232); a poisoned line that they cover whole is clean again (R326). -/
def State.commitHeld (s : State) (id : Nat) : State :=
  match aget? s.insts id with
  | none => s
  | some i =>
    let s := { s with
      mem := s.mem.put i.held,
      package := s.package.rewritten i.coversLine }
    s.setInst id { i with held := [], heldLines := [], late := [] }

/-- What the cut in progress commits: what was held at its injection or written for it since, and of what was written later, what that
has taken the place of (R226, R231; log entry 127). -/
def Inst.toCommit (i : Inst) : Assoc Nat Byte :=
  i.held.filterMap fun p => match aget? i.late p.1 with
    | none => some p
    | some old => old.map fun b => (p.1, b)

/-- What stays held after the commit: the writes of the next interval, with their lines. -/
def Inst.afterCommit (i : Inst) : Inst :=
  let held := i.held.filter fun p => (aget? i.late p.1).isSome
  { i with held := held, late := [], heldLines := i.heldLines.filter fun l => held.any fun p => decide (p.1 / 64 = l.1) }

/-- The proof buffers of an instance commit at a complete cut (R226): what the cut covers goes to memory. -/
def State.commitCut (s : State) (id : Nat) : State :=
  match aget? s.insts id with
  | none => s
  | some i =>
    let l := i.toCommit
    let s := { s with
      mem := s.mem.put l,
      package := s.package.rewritten fun k => (List.range 256).all fun b => (aget? l (256 * k + b)).isSome }
    s.setInst id i.afterCommit

end Sys2Proof.Machine
end

