-- ==== Sys2Proof/Machine/Thread.lean ====
section
/-! DEFINITION. What a thread's accesses share: the order of checks (R303), waiting in place (R92, R307), holds (R41,
R225, R226), publishing (R227), records read at issue (R206), and the return-address store (R89). -/

namespace Sys2Proof.Machine

/-- A step of the machine that always has a next state. -/
abbrev Result := Host.Outcome State Fault Refusal

/-- The launch of the acting thread ends with DATA_LOST; a thread of no launch stops (R326, log entry 11). -/
def State.endLost (s : State) : State :=
  match s.curInst with
  | some (id, _) => s.endLaunch id kDataLost 0
  | none => s.setCur { s.cur with run := .halted, wait := none }

/-- The acting thread's access waits, to be made anew (R41, R92, R225, R226). -/
def State.holdAccess (s : State) (i : Instr) (h : Hold) : State := s.waitFor (.access i h)

/-- The acting thread's access stalls in place: a fault record is posted and its tag waited for (R92, R307). -/
def State.stallThread (s : State) (i : Instr) (addr : Word) (k : AccessKind) : State :=
  let r := s.postStall s.threadAgent (.thread s.curSheet s.curCtx) k addr.toNat 0 0 0 0
  r.2.holdAccess i (.miss r.1)

/-- An access of the acting thread of `len` bytes: alignment, then translation, then rights (R303); it traps, waits, or
goes on with the location and the page kind. `i` is the instruction to make anew. -/
def State.access (s : State) (i : Instr) (addr : Word) (len : Nat) (k : AccessKind)
    (go : State → Nat → BitVec 2 → State) : State :=
  if addr.toNat % len ≠ 0 then s.trap kAlign addr
  else if s.cur.invalid = some addr then s.trap kXlate addr
  else
    let r := s.resolve s.threadAgent addr.toNat len k
    match r.2 with
    | .ok loc ord => go r.1 loc ord
    | .miss => r.1.stallThread i addr k
    | .range => r.1.holdAccess i .range
    | .full => r.1.holdAccess i .proofFull
    | .line => r.1.holdAccess i .heldLine
    | .xlate => r.1.trap kXlate addr
    | .access => r.1.trap kAccess addr
    | .lost => r.1.endLost

/-- A record of n doublewords at an 8-aligned address, read as by n `ld.d` (R96, R103, R105, R109). -/
def State.readRecord (s : State) (i : Instr) (addr : Word) (n : Nat) (got : List Byte) (go : State → List Byte → State) :
    State :=
  match n with
  | 0 => go s got
  | n + 1 => s.access i addr 8 .read fun s loc _ =>
      s.readRecord i (addr + 8) n (got ++ s.loadBytes s.curInstId loc 8) go

/-- Held bytes of a range are no more: a later write has gone to memory there. -/
def Inst.dropHeld (i : Inst) (loc n : Nat) : Inst :=
  let out (a : Nat) : Bool := decide (a < loc) || decide (loc + n ≤ a)
  { i with held := i.held.filter fun p => out p.1, late := i.late.filter fun p => out p.1 }

/-- A write of an instance to memory outside every proof buffer (R227, R228); what the instance held there is older. -/
def State.writeThrough (s : State) (inst loc : Nat) (bs : List Byte) : State :=
  ({ s with mem := s.mem.write loc bs, package := s.package.rewritten (coversWhole loc bs.length) } : State).updInst inst
    fun i => i.dropHeld loc bs.length

/-- A publishing access: at a cut its effect is made; before, the thread waits with what it has read, and a cut is requested (R227).
A thread of no instance has nothing to commit. -/
def State.publishing (s : State) (i : Instr) (read : List Byte) (atCut : Bool) (eff : State → State) : State :=
  match s.curInst with
  | none => eff s
  | some (id, _) => if atCut then eff s else (s.waitFor (.publish i read)).requestCut id

/-- A write of a thread: past the proof buffer when it publishes (R225, R227). -/
def State.threadWrite (s : State) (through : Bool) (loc : Nat) (bs : List Byte) : State :=
  if through then s.writeThrough s.curInstId loc bs else s.storeBytes s.threadAgent loc bs

/-- What the read of an indivisible access of a thread sees: of one that publishes, memory as the commit leaves it (R225, R227). -/
def State.threadRead (s : State) (through : Bool) (loc n : Nat) : List Byte :=
  if through then s.mem.read loc n else s.loadBytes s.curInstId loc n

/-- A location lies in a DS bank that another tenant holds: the acting thread reaches it through a window (R283). -/
def State.throughWindow (s : State) (loc : Nat) : Bool :=
  decide (0xFF00000100000000 ≤ loc) && decide (loc < 0xFF00000120000000) &&
    decide ((s.bulkhead ((loc - 0xFF00000100000000) / 0x800000)).tag.toNat ≠ s.tenantAt s.curSheet s.curCtx)

/-- A write publishes: to an SO page, or as a release at SYS scope (R227); through a window every access is at DEV scope (R214,
R283). -/
def State.publishes (s : State) (loc : Nat) (pageOrd : BitVec 2) (ord : MemOrd) (sc : Scope) : Bool :=
  decide (pageOrd = 0#2) || (decide (ord = .rel) && decide (sc = .sys) && !(s.throughWindow loc))

/-- The bytes of a width (R62). -/
def widthBytes : Width → Nat
  | .b => 1
  | .h => 2
  | .w => 4
  | .d => 8

/-- What an `amo` stores, on values of n bits (R91, R141). -/
def amoNew (fn : AmoFn) (n old v : Nat) : Nat :=
  match fn with
  | .add => (old + v) % 2 ^ n
  | .min => if signedLane n v < signedLane n old then v else old
  | .max => if signedLane n old < signedLane n v then v else old
  | .and => old &&& v
  | .or => old ||| v
  | .xchg => v

/-! ### The return-address store (R89) -/

/-- A return address is pushed, spilling the oldest entry where the store is full; then the thread goes on. -/
def State.pushRas (s : State) (i : Instr) (a : Word) (go : State → State) : State :=
  let t := s.cur
  if t.ras.length < 16 then go (s.setCur { t with ras := a :: t.ras })
  else if t.rasLim.toNat < t.rasBase.toNat + 8 * (t.rasSpl + 1) then s.trap kStackOvf 0
  else
    s.access i (t.rasBase + BitVec.ofNat 64 (8 * t.rasSpl)) 8 .write fun s loc _ =>
      let t := s.cur
      let s := s.storeBytes s.threadAgent loc (wordBytes 8 (t.ras.getLastD 0))
      go (s.setCur { t with ras := a :: t.ras.take 15, rasSpl := t.rasSpl + 1 })

/-- The youngest return address is popped, from the store or from the spill area. -/
def State.popRas (s : State) (i : Instr) (go : State → Word → State) : State :=
  let t := s.cur
  match t.ras with
  | a :: r => go (s.setCur { t with ras := r }) a
  | [] =>
    if t.rasSpl = 0 then s.trap kStackUnf 0
    else
      s.access i (t.rasBase + BitVec.ofNat 64 (8 * (t.rasSpl - 1))) 8 .read fun s loc _ =>
        let a := bytesWord (s.loadBytes s.curInstId loc 8)
        go (s.setCur { s.cur with rasSpl := s.cur.rasSpl - 1 }) a

/-! ### Code addresses (R88, R304) -/

/-- The pc moved by a word offset. -/
def branchTo (pc : Word) (words : Int) : Word := pc + BitVec.ofInt 64 (4 * words)

/-- An indirect target: a code offset below 0x3_C000, else an absolute address (R88, R304). -/
def indirect (ctx : Nat) (a : Word) : Word :=
  if a.toNat < 0x3C000 then BitVec.ofNat 64 (codeBase ctx) + a else a

end Sys2Proof.Machine
end

