-- ==== Sys2Proof/Machine/Message.lean ====
section
/-! DEFINITION. Active messages (R77–R80): the fields of a header, the flit counts, the completion word, and the
own-sheet scratch ranges that an operation holds in the scoreboard (R175–R180). -/

namespace Sys2Proof.Machine

/-- Class of a message (R77). -/
def msgClass (h : Word) : Nat := bitsOf h.toNat 60 4

/-- Operation of a message (R77). -/
def msgOp (h : Word) : Nat := bitsOf h.toNat 52 8

/-- Flag ORD (R77). -/
def msgOrd (h : Word) : Bool := h.getLsbD 48

/-- Flag EVT (R77). -/
def msgEvt (h : Word) : Bool := h.getLsbD 49

/-- Flag [51], which is zero (R77). -/
def msgBad (h : Word) : Bool := h.getLsbD 51

/-- The address of the completion object (R77). -/
def msgReply (h : Word) : Word := BitVec.ofNat 64 (bitsOf h.toNat 0 48)

/-- Flits of an operation, header included; none where the operation is unassigned (R78). -/
def flitCount (cls op : Nat) : Option Nat :=
  match cls, op with
  | 0, 0 | 0, 2 | 0, 3 => some 4
  | 0, 1 | 0, 4 | 0, 5 => some 5
  | 1, 0 => some 5
  | 2, 0 | 2, 1 | 2, 2 => some 4
  | 2, 3 => some 3
  | _, _ => none

/-- A message passes the checks that are made at the engine (R79). -/
def msgOk (flits : List Word) : Bool :=
  let h := flits.getD 0 0
  !(msgBad h) && decide (flitCount (msgClass h) (msgOp h) = some flits.length)

/-- A completion word (R80). -/
def completionWord (status cls op count : Nat) : Word :=
  BitVec.ofNat 64 (status * 2 ^ 60 + cls * 2 ^ 56 + op * 2 ^ 48 + count % 2 ^ 48)

/-- Bytes of one element of a format code (R177). -/
def elemBytes (code : Nat) : Nat :=
  match code with
  | 0 | 1 => 4
  | 2 | 3 | 7 => 2
  | _ => 1

/-- Planes of a Q code (R152). -/
def planesOf (q : Nat) : Nat :=
  match q with
  | 0 => 3
  | 1 => 4
  | 2 => 8
  | _ => 12

/-- Bytes of a plane image, and of its packed form (R152, R153). -/
def imageBytes (q : Nat) : Nat := 2048 * planesOf q + 1024

/-- A range an operation names: an address and a length, or the whole level of the address (R175). -/
inductive NamedRange where
  | bytes (addr : Word) (len : Nat)
  | level (addr : Word)
  deriving DecidableEq, Repr

/-- The ranges of an operation that the tables name for the scoreboard (R175–R180). -/
def namedRanges (flits : List Word) : List NamedRange :=
  let h := flits.getD 0 0
  let f (k : Nat) : Word := flits.getD k 0
  let n := bitsOf (f 3).toNat 0 32
  match msgClass h, msgOp h with
  | 0, 0 => [.bytes (f 1) n, .bytes (f 2) n]
  | 0, 1 => [.bytes (f 1) (n * elemBytes (bitsOf (f 4).toNat 0 3)), .bytes (f 2) (n * elemBytes (bitsOf (f 4).toNat 8 3))]
  | 0, 2 => [.bytes (f 1) (bitsOf (f 2).toNat 0 32)]
  | 0, 3 => [.bytes (f 2) ((bitsOf (f 3).toNat 8 8 + 1) * imageBytes (bitsOf (f 3).toNat 0 2))]
  | 0, 4 => [.bytes (f 1) (4 * bitsOf (f 4).toNat 0 32), .level (f 2),
             .bytes (f 3) (bitsOf (f 4).toNat 0 32 * bitsOf (f 4).toNat 32 16)]
  | 0, 5 => [.bytes (f 1) (4 * bitsOf (f 4).toNat 0 32), .bytes (f 2) (bitsOf (f 4).toNat 0 32 * bitsOf (f 4).toNat 32 16),
             .level (f 3)]
  | 1, 0 => [.level (f 1), .level (f 2), .bytes (f 3) 64]
  | 2, 0 => [.bytes (f 1) n]
  | 2, 1 => [.bytes (f 1) n]
  | _, _ => []

/-- The range on the issuing sheet's own scratch, first and last location; none where it lies elsewhere or is empty. -/
def ownRange (sheet : Nat) (r : NamedRange) : Option (Nat × Nat) :=
  match r with
  | .bytes addr len =>
    if len = 0 then none
    else match decodeAddr sheet true addr.toNat with
      | some (.ts sh off) => if sh = sheet then some (sheetLoc sh off, sheetLoc sh off + len - 1) else none
      | some (.ss sh off) => if sh = sheet then some (ssLoc sh off, ssLoc sh off + len - 1) else none
      | _ => none
  | .level addr =>
    match decodeAddr sheet true addr.toNat with
    | some (.ts sh _) => if sh = sheet then some (sheetLoc sh 0, sheetLoc sh 0x1FFFFF) else none
    | some (.ss sh _) => if sh = sheet then some (ssLoc sh 0, ssLoc sh 0x3FFFFF) else none
    | _ => none

/-- The scoreboard entries an operation takes (R175). A message that fails the engine's checks takes none. -/
def scoreRanges (sheet : Nat) (flits : List Word) : List (Nat × Nat) :=
  if msgOk flits then (namedRanges flits).filterMap (ownRange sheet) else []

/-- The first destination byte and the length of what an operation writes where its extent is known at issue (R228). -/
def destRange (flits : List Word) : Word × Nat :=
  let h := flits.getD 0 0
  let f (k : Nat) : Word := flits.getD k 0
  let n := bitsOf (f 3).toNat 0 32
  match msgClass h, msgOp h with
  | 0, 0 => (f 2, n)
  | 0, 1 => (f 2, n * elemBytes (bitsOf (f 4).toNat 8 3))
  | 0, 2 => (f 1, bitsOf (f 2).toNat 0 32)
  | 0, 3 => (f 2, (bitsOf (f 3).toNat 8 8 + 1) * imageBytes (bitsOf (f 3).toNat 0 2))
  | 0, 4 => (f 3, bitsOf (f 4).toNat 0 32 * bitsOf (f 4).toNat 32 16)
  | 0, 5 => (f 3, 1)
  | _, _ => (f 2, 1)

/-- A virtual address lies on an SO page of a tenant. -/
def State.onSo (s : State) (tenant addr : Nat) : Bool :=
  match decodeAddr 0 true addr with
  | some (.va v) => match (s.translate tenant v).2 with
      | .page leaf _ => decide (leafOrd leaf = 0#2)
      | _ => false
  | _ => false

/-- A 64 KiB page among n from an address on is SO. -/
def State.anySo (s : State) (tenant addr n : Nat) : Bool :=
  match n with
  | 0 => false
  | n + 1 => s.onSo tenant addr || s.anySo tenant (addr + 65536) n

/-- The operation starts only after a commit (R228): a link-engine operation, or one that writes an SO page (log entry
17). Where `ce.scatter` and `co.compose` write is judged when they are first to start (State.reachesSo). -/
def State.waitsForCommit (s : State) (tenant : Nat) (flits : List Word) : Bool :=
  let d := destRange flits
  decide (msgClass (flits.getD 0 0) = 2) ||
  (msgOk flits && s.anySo tenant d.1.toNat ((d.1.toNat % 65536 + d.2 + 65535) / 65536)) ||
  s.onSo tenant (msgReply (flits.getD 0 0)).toNat

end Sys2Proof.Machine
end

