-- ==== Sys2Proof/Machine/SeqEngine.lean ====
section
/-! DEFINITION. Engine messages as the sequencer sends them and waits for them (R103, R104). -/

namespace Sys2Proof.Machine

/-- The doublewords of a record. -/
def wordsOf (bs : List Byte) (n : Nat) : List Word :=
  (List.range n).map fun k => bytesWord ((bs.drop (8 * k)).take 8)

/-- The engine of its class and die that a message of a sheet goes to (R173). -/
def engineOf (sheet cls : Nat) : Nat := if cls = 0 then sheet % 8 else sheet % 4

/-- The message leaves the sheet: its ranges are taken and the engine thread is forked (R103, R173, R175, R228). -/
def State.sendMessage (s : State) (flits : List Word) : State :=
  let r := s.fresh
  let s := r.2
  let h := flits.getD 0 0
  let cuts := match s.curInst with
    | some (_, i) => i.cutsDone + (if i.cutting.isSome then 1 else 0)
    | none => 0
  let g := s.threadAgent
  let cls := msgClass h
  let op : EngineOp :=
    { inst := g.inst, tenant := g.tenant, sheet := s.curSheet, ctx := s.curCtx, engine := engineOf s.curSheet (msgClass h),
      die := s.curSheet / 64, flits := flits, arrived := none, started := false, progress := 0, moved := 0, stage := [], index := none, status := none,
      stall := none, invalid := false, afterCommit := decide (g.inst ≠ 0) && s.waitsForCommit g.tenant flits, released := false,
      stick := [], cut := cuts, prev := aget? s.cur.sent cls }
  let s := s.setCur { s.cur with sent := aset s.cur.sent cls r.1 }
  let sh := s.sheet s.curSheet
  let ranges := (scoreRanges s.curSheet flits).map fun p => ({ op := some r.1, node := none, ctx := s.curCtx, first := p.1, last := p.2 } : Range)
  let s := s.setSheet s.curSheet { sh with board := sh.board ++ ranges }
  { s with ops := s.ops ++ [(r.1, op)] }

/-- The scoreboard has room for what a message takes (R41). -/
def State.boardRoom (s : State) (flits : List Word) : Bool :=
  decide ((s.sheet s.curSheet).board.length + (scoreRanges s.curSheet flits).length ≤ 32)

/-- The last part of `amsg`: it waits while the scoreboard is full (R103). -/
def State.forkMessage (s : State) (f : Nat) (flits : List Word) : State :=
  if s.boardRoom flits then (s.sendMessage flits).endWait.advance else s.waitFor (.amsg f flits)

/-- `amsg` (R103): the flits are read, the sequencer's checks of R79 are made, PENDING is stored, ranges are taken, the
message leaves. -/
def doAmsg (a : Reg) (f : BitVec 11) (s : State) : State :=
  let ga := s.reg a
  if ga.toNat % 8 ≠ 0 then s.trap kAlign ga
  else s.readRecord (.amsg a f) ga f.toNat [] fun s bs =>
    let flits := wordsOf bs f.toNat
    let h := flits.getD 0 0
    if 3 ≤ msgClass h ∨ msgReply h = 0 then s.trap kIllegal 0
    else if (msgReply h).toNat % 8 ≠ 0 then s.trap kAlign 0
    else s.access (.amsg a f) (msgReply h) 8 .write fun s loc _ =>
      (s.storeBytes s.threadAgent loc (wordBytes 8 (completionWord 0 (msgClass h) (msgOp h) 0))).forkMessage f.toNat flits

/-- `amsg` (R103). -/
def execAmsg (a : Reg) (f : BitVec 11) (s : State) : Result := .next (doAmsg a f s)

/-- `await`: the completion object, once its status is not PENDING (R104). -/
def doAwait (d a : Reg) (s : State) : State :=
  if (s.reg a).toNat % 8 ≠ 0 then s.trap kAlign 0
  else s.access (.await d a) (s.reg a) 8 .read fun s loc _ =>
    let w := bytesWord (s.loadBytes s.curInstId loc 8)
    if w.extractLsb' 60 4 = 0#4 then s.waitFor (.await d a) else s.endWait.writeNext d w

/-- `await` (R104). -/
def execAwait (d a : Reg) (s : State) : Result := .next (doAwait d a s)

/-- `apoll`: the completion object as it stands (R104). -/
def doApoll (d a : Reg) (s : State) : State :=
  if (s.reg a).toNat % 8 ≠ 0 then s.trap kAlign 0
  else s.access (.apoll d a) (s.reg a) 8 .read fun s loc _ => s.writeNext d (bytesWord (s.loadBytes s.curInstId loc 8))

/-- `apoll` (R104). -/
def execApoll (d a : Reg) (s : State) : Result := .next (doApoll d a s)

end Sys2Proof.Machine
end

