-- ==== Sys2Proof/Machine/Loader.lean ====
section
/-! DEFINITION. The loader: the checks of a forme image before anything is placed (R12, R16, R18, R21, R53, R72, R73, R75,
R120, R126, R136, R138, R145, R356), what its configuration packets hold for each node (R74, R75), where a chase fits (R12,
R13), and the writing of an image at placement (R11, R14). -/

namespace Sys2Proof.Machine

/-! ### Route headers (R74) -/

/-- Bits [lo + w − 1 : lo] of a route header. -/
def pk (h : Word) (lo w : Nat) : Nat := bitsOf h.toNat lo w

/-- The payload kind (R75). -/
def pkKind (h : Word) : Nat := pk h 60 4

/-- The target offset. -/
def pkOffset (h : Word) : Nat := pk h 0 16

/-- The points of a rectangle, row by row. -/
def rectPoints (x0 y0 x1 y1 : Nat) : List (Nat × Nat) :=
  (List.range (y1 + 1 - y0)).flatMap fun j => (List.range (x1 + 1 - x0)).map fun i => (x0 + i, y0 + j)

/-- The chase sheets a packet reaches, by chase-relative index. -/
def pkSheets (w : Nat) (h : Word) : List Nat :=
  (rectPoints (pk h 56 4) (pk h 52 4) (pk h 48 4) (pk h 44 4)).map fun p => w * p.2 + p.1

/-- The tiles a packet reaches, by tile index. -/
def pkTiles (h : Word) : List Nat := (rectPoints (pk h 42 2) (pk h 40 2) (pk h 38 2) (pk h 36 2)).map fun p => 4 * p.2 + p.1

/-- The elements a packet reaches, by element index. -/
def pkElems (h : Word) : List Nat := (rectPoints (pk h 34 2) (pk h 32 2) (pk h 30 2) (pk h 28 2)).map fun p => 4 * p.2 + p.1

/-- The class of the nodes that a packet of op words or headers configures (R75). -/
def pkClass (h : Word) : Option NodeClass :=
  match pkKind h with
  | 1 | 2 => some .element
  | 0xA | 0xB => match pk h 32 4 with
    | 1 => some .ag
    | 2 => some .cv
    | 3 => some .pa
    | 4 => some .fe
    | _ => none
  | _ => none

/-- The packet reaches a node, named by chase-relative sheet. -/
def pkReaches (w : Nat) (h : Word) (n : NodeId) : Bool :=
  decide (pkClass h = some n.cls) && (pkSheets w h).contains n.sheet && (pkTiles h).contains n.tile &&
  (decide (n.cls ≠ .element) || (pkElems h).contains n.elem)

/-- The 32-bit words of a payload, two per flit, low first. -/
def words32 (fl : List Word) : List W32 := fl.flatMap fun f => [f.extractLsb' 0 32, f.extractLsb' 32 32]

/-- The 16-bit words of a payload, four per flit, low first. -/
def words16 (fl : List Word) : List (BitVec 16) :=
  fl.flatMap fun f => [f.extractLsb' 0 16, f.extractLsb' 16 16, f.extractLsb' 32 16, f.extractLsb' 48 16]

/-- The bytes of a payload. -/
def flitBytes (fl : List Word) : List Byte := fl.flatMap (wordBytes 8)

/-- A list with the values from an offset on replaced. -/
def putAt {α : Type} (l : List α) (off : Nat) (vs : List α) : List α :=
  l.take off ++ vs ++ l.drop (off + vs.length)

/-- The nodes of a tile (R9): 16 elements, AG, CV where the tile has one, PA and FE. -/
def tileNodes (sheet tile : Nat) : List NodeId :=
  ((List.range 16).map fun e => ⟨.element, sheet, tile, e⟩) ++
  ([⟨.ag, sheet, tile, 0⟩, ⟨.cv, sheet, tile, 0⟩, ⟨.pa, sheet, tile, 0⟩, ⟨.fe, sheet, tile, 0⟩].filter fun n => n.exists)

/-! ### What the packets hold for a node -/

/-- The packets of given kinds that reach a node, each with its payload laid over what came before: where two packets of one
kind write the same slot, header or data unit the later one in the image stands (DESIGN CHOICE, log entry 115). -/
def layPackets {α : Type} (v : ImageVariant) (n : NodeId) (kinds : List Nat) (vals : List Word → List α) (l : List α) : List α :=
  v.packets.foldl (fun l p =>
    if kinds.contains (pkKind p.1) && pkReaches v.w p.1 n then putAt l (pkOffset p.1) (vals p.2) else l) l

/-- The op words an image gives a node (kinds 0x1 and 0xA). -/
def ImageVariant.slots (v : ImageVariant) (n : NodeId) : Vector W32 16 :=
  let l := layPackets v n [1, 0xA] words32 (List.replicate 16 0)
  Vector.ofFn fun k => l.getD k.val 0

/-- The header flits an image gives a node (kinds 0x2 and 0xB). -/
def ImageVariant.headerFlits (v : ImageVariant) (n : NodeId) : List (Option Word) :=
  layPackets v n [2, 0xB] (fun fl => fl.map some) (List.replicate 4 none)

/-- A header flit as header and extent. -/
def flitHeader (f : Word) : W32 × BitVec 16 := (f.extractLsb' 0 32, f.extractLsb' 32 16)

/-- The headers an image gives a node. -/
def ImageVariant.headers (v : ImageVariant) (n : NodeId) : Quad (Option (W32 × BitVec 16)) :=
  let l := v.headerFlits n
  Quad.ofFn fun k => ((l.getD k none).map flitHeader)

/-- The node of an actor, its sheet chase-relative. -/
def ImageActor.node (a : ImageActor) : NodeId := ⟨a.cls, a.sheet, a.tile, a.elem⟩

/-- Header and extent of an actor of the image. -/
def ImageVariant.header (v : ImageVariant) (a : ImageActor) : Option (W32 × BitVec 16) := (v.headers a.node).get a.hdr

/-- The nodes of a tile that packets of op words or headers reach, by chase-relative sheet (R74, R75). -/
def ImageVariant.nodesOf (v : ImageVariant) (k tile : Nat) : List NodeId :=
  (tileNodes k tile).filter fun n => v.packets.any fun p => pkReaches v.w p.1 n

/-- The actors whose headers the packets put on a tile. -/
def ImageVariant.tileActors (v : ImageVariant) (k tile : Nat) : List ImageActor :=
  (v.nodesOf k tile).flatMap fun n =>
    let l := v.headerFlits n
    ((List.range 4).filter fun h => (l.getD h none).isSome).map fun h => ⟨0, n.cls, k, tile, n.elem, h⟩

/-- Every actor of an image: those its container numbers, then every other header that a packet puts on a node, numbered on
(R74, R356; log entry 5). -/
def ImageVariant.allActors (v : ImageVariant) : List ImageActor :=
  let more := ((List.range (v.w * v.h)).flatMap fun k => (List.range 16).flatMap (v.tileActors k)).filter fun a =>
    !(v.actors.any fun b => decide (b.node = a.node) && decide (b.hdr = a.hdr))
  v.actors ++ more.zipIdx.map fun p => { p.1 with number := v.actors.length + p.2 }

/-- The divider of a code (R75). -/
def dividerOf (code : Nat) : Nat :=
  match code with
  | 0 => 1
  | 1 => 2
  | 2 => 3
  | 3 => 4
  | 4 => 6
  | _ => 8

/-- The divider the image gives a stage (R21, R75); 1 without a table. DESIGN CHOICE (log entry 142): the table of the last kind 0x7 packet holds for
the whole forme. -/
def ImageVariant.divider (v : ImageVariant) (stage : Nat) : Nat :=
  v.packets.foldl (fun d p => if pkKind p.1 = 7 then dividerOf (bitsOf (p.2.headD 0).toNat (4 * stage) 4) else d) 1

/-- The stage in an extent (R71). -/
def stageOf (ext : BitVec 16) : Nat := bitsOf ext.toNat 4 4

/-- The dividers of the actors on a tile row of a chase sheet, by chase-relative index (R21). -/
def ImageVariant.rowDividers (v : ImageVariant) (sheet row : Nat) : List Nat :=
  ((List.range 4).flatMap fun x => v.tileActors sheet (4 * row + x)).filterMap fun a =>
    (v.header a).map fun x => v.divider (stageOf x.2)

/-! ### The checks of packets (R73, R74, R75, R356) -/

/-- A switch word passes (R73). -/
def switchOk (x : BitVec 16) : Bool :=
  let f (lo w : Nat) : Nat := bitsOf x.toNat lo w
  let i := f 11 2
  let o := f 9 2
  match f 13 3 with
  | 0 => decide (f 0 13 = 0)
  | 1 => decide (o = (i + 2) % 4) && (decide (f 8 1 = 1) || decide (f 0 8 = 0))
  | 2 => decide (o % 2 ≠ i % 2) && decide (f 0 9 = 0)
  | 3 => decide (o ≠ f 7 2) && decide (o ≠ i) && decide (f 7 2 ≠ i) && decide (f 0 7 = 0)
  | 4 => decide (f 0 11 = 0)
  | 5 | 6 => decide (f 0 5 = 0)
  | _ => false

/-- The payload ends within its target (R75). -/
def payloadFits (kind off n : Nat) : Bool :=
  match kind with
  | 1 | 0xA => decide (off + 2 * n ≤ 16)
  | 2 | 0xB => decide (off + n ≤ 4)
  | 3 => decide (off + 4 * n ≤ 32)
  | 4 => decide (4 * off + 8 * n ≤ 0x3C000)
  | 5 => decide (64 * off + 8 * n ≤ 0x400000)
  | 6 => decide (off = 0)
  | 7 => decide (off = 0) && decide (n = 1)
  | 8 => decide (64 * off + 8 * n ≤ 0x20000)
  | 9 => decide (128 * off + 8 * n ≤ 0x800000)
  | _ => decide (off = 0) && decide (n = 4)

/-- A header flit passes: port modes, scope, combine and extent (R72, R75). -/
def headerOk (f : Word) : Bool :=
  let h := f.extractLsb' 0 32
  let x := (f.extractLsb' 32 16).toNat
  decide (f.extractLsb' 48 16 = 0#16) &&
  ((List.range 4).all fun k => decide (portMode h k ≠ .unassigned)) &&
  decide (actorScope h ≤ 4) &&
  (decide (actorComb h = 0) || decide (2 ≤ actorClass h)) &&
  decide (bitsOf x 12 4 ≤ bitsOf x 8 4) && decide (bitsOf x 0 4 = 0)

/-- One packet passes (R73, R74, R75, R356). Its rectangle lies in the chase. -/
def packetOk (v : ImageVariant) (p : Word × List Word) : Bool :=
  let h := p.1
  let kind := pkKind h
  decide (1 ≤ kind) && decide (kind ≤ 0xC) && decide (p.2.length = pk h 16 10) && decide (p.2 ≠ []) &&
  decide (pk h 26 2 = 0) &&
  decide (pk h 56 4 ≤ pk h 48 4) && decide (pk h 52 4 ≤ pk h 44 4) && decide (pk h 48 4 < v.w) && decide (pk h 44 4 < v.h) &&
  decide (pk h 42 2 ≤ pk h 38 2) && decide (pk h 40 2 ≤ pk h 36 2) &&
  payloadFits kind (pkOffset h) p.2.length &&
  (match kind with
   | 0xA | 0xB => decide (1 ≤ pk h 32 4) && decide (pk h 32 4 ≤ 4) && decide (pk h 28 4 = 0) &&
       (decide (pk h 32 4 ≠ 2) || (pkTiles h).all fun t => decide (t = 5) || decide (t = 10))
   | 8 => decide (pk h 28 8 = 0)
   | 9 => decide (pk h 28 16 = 0)
   | 0xC => decide (pk h 28 32 = 0)
   | _ => decide (pk h 34 2 ≤ pk h 30 2) && decide (pk h 32 2 ≤ pk h 28 2)) &&
  (match kind with
   | 2 | 0xB => p.2.all headerOk
   | 3 => (words16 p.2).all switchOk
   | 7 => (List.range 16).all fun k => decide (bitsOf (p.2.headD 0).toNat (4 * k) 4 ≤ 5)
   | _ => true)

/-- Bulkheads a packet of kind 0x9 writes, as chase sheets: two sheets share one exactly when their bulkheads do, which
depends on the chase base (R75). -/
def dsTargets (base : Nat) (v : ImageVariant) (h : Word) : List Nat :=
  let shs := chaseSheets base v.w v.h
  ((pkSheets v.w h).map fun k => bhOf (shs.getD k base)).eraseDups

/-- Two payloads at offsets give every location they share one byte. -/
def sameBytes (o1 : Nat) (b1 : List Byte) (o2 : Nat) (b2 : List Byte) : Bool :=
  (List.range b1.length).all fun k =>
    decide (o1 + k < o2) || decide (o2 + b2.length ≤ o1 + k) || decide (b1.getD k 0 = b2.getD (o1 + k - o2) 0)

/-- The kind 0x9 packets of an image. -/
def ImageVariant.dsPackets (v : ImageVariant) : List (Word × List Word) := v.packets.filter fun p => decide (pkKind p.1 = 9)

/-- Kind 0x9 packets give each DS location one byte, for a chase at a base (R75). -/
def dsAgree (base : Nat) (v : ImageVariant) : Bool :=
  v.dsPackets.all fun p => v.dsPackets.all fun q =>
    !((dsTargets base v p.1).any fun b => (dsTargets base v q.1).contains b) ||
    sameBytes (128 * pkOffset p.1) (flitBytes p.2) (128 * pkOffset q.1) (flitBytes q.2)

/-- The forme is refused where its kind 0x9 packets disagree wherever the chase could lie (R75); a position at which they
disagree is never taken (DESIGN CHOICE, log entry 115). -/
def dsSound (v : ImageVariant) : Bool :=
  v.dsPackets.isEmpty || (List.range 256).any fun base =>
    decide (packX base + v.w ≤ 16) && decide (packY base + v.h ≤ 16) && dsAgree base v

/-! ### The checks of actors (R16, R18, R21, R72, R120, R126, R136, R138, R145) -/

/-- The slots a micro-sequence takes. -/
def seqSlots (c : NodeClass) (l : List (Nat × W32)) : Nat := (l.map fun p => if isConstWord c p.2 then 2 else 1).sum

/-- The micro-sequences from a slot on to the end of an extent keep the limits of R16. No micro-sequence starts at a slot
that holds zero: the slots between two sequences that no op word was placed in (log entry 33). -/
def seqsOk (c : NodeClass) (slots : Vector W32 16) (pc last fuel : Nat) : Bool :=
  match fuel with
  | 0 => true
  | fuel + 1 =>
    if last < pc then true
    else if slots.getD pc 0 = 0 then seqsOk c slots (pc + 1) last fuel
    else
      let l := microSeq c slots pc 16
      let n := seqSlots c l
      match l.getLast? with
      | none => false
      | some (_, w) => w.getLsbD 4 && decide (n ≤ 8) && decide (pc + n ≤ 16) && seqsOk c slots (pc + n) last fuel

/-- An op word that the loader refuses in an actor (R136, R138, R145): the scope of a `bndry` is compared as its mod[2:0] stands, a
reserved one too. -/
def opRefused (c : NodeClass) (header w : W32) : Bool :=
  (decide (c = .ag) && decide (opcodeOf w = 0x36) && decide (bitsOf w.toNat 5 3 ≠ actorScope header)) ||
  match decodeOp c w (some 0) with
  | .ok (.acc _ b d _ _) => decide (actorClass header < 2) || decide (b.toNat < 4) || decide (d ≠ b)
  | .ok (.scan _ b d _ _) => decide (actorClass header < 2) || decide (b.toNat < 4) || decide (4 ≤ d.toNat)
  | .ok (.rowms _ b c d _ _) => decide (b.toNat < 4) || decide (c.toNat < 4) || decide (d ≠ b)
  | _ => false

/-- The actor fires on either of two ports (R120): its first op word is `merge` or `omerge`, or it is on a CV node. -/
def firesOnEither (c : NodeClass) (slots : Vector W32 16) (ext : BitVec 16) : Bool :=
  decide (c = .cv) ||
  (decide (c = .element) && ((actorOps c slots ext).headD (0, 0)).2.extractLsb' 26 6 == 0x27#6)

/-- One actor passes. -/
def actorOk (v : ImageVariant) (a : ImageActor) : Bool :=
  match v.header a with
  | none => false
  | some (h, x) =>
    let slots := v.slots a.node
    let first := bitsOf x.toNat 12 4
    let last := bitsOf x.toNat 8 4
    a.node.exists && decide (a.hdr < 4) && decide (a.sheet < v.w * v.h) &&
    seqsOk a.cls slots first last 17 &&
    ((actorOps a.cls slots x).all fun p => !(opRefused a.cls h p.2)) &&
    (!(firesOnEither a.cls slots x) || (decide (portMode h 0 = .stream 1) && decide (portMode h 1 = .stream 1)))

/-- Two actors on one node overlap in slots or name a keep register both (R18). -/
def actorsClash (v : ImageVariant) (a b : ImageActor) : Bool :=
  decide (a.node = b.node) && decide (a.hdr ≠ b.hdr) &&
  match v.header a, v.header b with
  | some (_, x), some (_, y) =>
    let slots := v.slots a.node
    ((List.range 16).any fun k => inExtent x k && inExtent y k) ||
    (keepsUsed a.cls slots x).any fun k => (keepsUsed a.cls slots y).contains k
  | _, _ => false

/-- The actor is a `bndry` node (R145). -/
def isBndry (v : ImageVariant) (a : ImageActor) : Bool :=
  decide (a.cls = .ag) &&
  match v.header a with
  | none => false
  | some (_, x) => (actorOps .ag (v.slots a.node) x).any fun p => decide (opcodeOf p.2 = 0x36)

/-- A route passes: its ends exist, and a change of scope ends at a `bndry` node (R53). A route whose source is the `bndry` node
does not pass through it (DESIGN CHOICE, log entry 115); that an input is not off is `kyas`'s check alone. -/
def routeOk (v : ImageVariant) (r : ImageRoute) : Bool :=
  let scopeOf (a : ImageActor) : Nat := ((v.header a).map fun x => actorScope x.1).getD 0
  match r.src, r.dst with
  | .actor i k, .actor j p =>
    match v.actors[i]?, v.actors[j]? with
    | some a, some b => decide (k < 4) && decide (p < 4) && (decide (scopeOf a = scopeOf b) || isBndry v b)
    | _, _ => false
  | .actor i k, .wide sh q => decide (i < v.actors.length) && decide (k < 4) && decide (sh < v.w * v.h) && decide (q < 8)
  | .wide sh q, .actor j p =>
    decide (j < v.actors.length) && decide (p < 4) && decide (sh < v.w * v.h) && decide (q < 8)
  | .wide _ _, .wide _ _ => false

/-- The image passes the loader for one n. -/
def ImageVariant.ok (v : ImageVariant) : Bool :=
  decide (0 < v.w) && decide (0 < v.h) &&
  v.packets.all (packetOk v) &&
  decide ((v.packets.countP fun p => decide (pkKind p.1 = 0xC)) ≤ 1) &&
  v.allActors.all (actorOk v) &&
  (v.allActors.all fun a => v.allActors.all fun b => !(actorsClash v a b)) &&
  dsSound v &&
  ((List.range (v.w * v.h)).all fun sh => (List.range 4).all fun row =>
    decide ((v.rowDividers sh row).eraseDups.length ≤ 1)) &&
  v.routes.all (routeOk v) &&
  (v.code.all fun sh => decide (sh < v.w * v.h))

/-- The image passes the loader. -/
def Image.ok (m : Image) : Bool := m.variants.all ImageVariant.ok

/-- The variant for a sheet count (R12). -/
def Image.variant (m : Image) (n : Nat) : Option ImageVariant := m.variants.find? fun v => decide (v.n = n)

/-! ### Where a chase fits (R12, R13) -/

/-- The bulkhead is the tenant's: it holds it, or shares it (R275, R287). -/
def State.holdsBh (s : State) (tenant b : Nat) : Bool :=
  let x := s.bulkhead b
  decide (x.tag.toNat = tenant) && decide (x.state = .active) || x.rotation.contains tenant

/-- A sheet stands at the die's edge on a side (0 N, 1 E, 2 S, 3 W). -/
def atEdge (sheet side : Nat) : Bool :=
  match side with
  | 0 => decide (sheet / 8 % 8 = 0)
  | 1 => decide (sheet % 8 = 7)
  | 2 => decide (sheet / 8 % 8 = 7)
  | _ => decide (sheet % 8 = 0)

/-- A chase sheet has the adjacency the forme asks for (R13). -/
def needMet (shs : List Nat) (x : SheetNeed) : Bool :=
  match shs[x.sheet]? with
  | some sh => atEdge sh x.side && Config.edgeCarries (sh / 64) x.side x.span
  | none => false

/-- A rectangle of the tenant's sheets matches the pattern (R13). -/
def State.matching (s : State) (tenant : Nat) (m : Image) (v : ImageVariant) (base : Nat) : Bool :=
  let shs := chaseSheets base v.w v.h
  decide (packX base + v.w ≤ 16) && decide (packY base + v.h ≤ 16) &&
  (shs.all fun sh => s.holdsBh tenant (bhOf sh)) &&
  (m.crossDie || shs.all fun sh => decide (sh / 64 = base / 64)) &&
  m.needs.all (needMet shs) && dsAgree base v

/-- Some position could hold the chase (R12). -/
def State.couldFit (s : State) (tenant : Nat) (m : Image) (v : ImageVariant) : Bool :=
  (List.range 256).any fun base => s.matching tenant m v base

/-- The lowest context number free on every sheet. -/
def State.freeCtx (s : State) (shs : List Nat) : Option Nat :=
  (List.range 4).find? fun c => shs.all fun sh => (s.instAt sh c).isNone

/-- The rectangle and context a chase is placed at now: bases by die, then sy, then sx, which is sheet index order (R9,
R13). A bulkhead in use has its holder's tag and is ACTIVE (R287). -/
def State.findChase (s : State) (tenant : Nat) (m : Image) (v : ImageVariant) : Option (Nat × Nat) :=
  (List.range 256).findSome? fun base =>
    let shs := chaseSheets base v.w v.h
    if s.matching tenant m v base &&
        (shs.all fun sh => decide ((s.bulkhead (bhOf sh)).tag.toNat = tenant) &&
          decide ((s.bulkhead (bhOf sh)).state = .active) && decide ((s.bulkhead (bhOf sh)).busy = .no)) then
      (s.freeCtx shs).map fun c => (base, c)
    else none

/-! ### Writing an image (R11, R14, R356) -/

/-- A list of writes to memory. -/
def writeAll (m : Memory) (l : List (Nat × List Byte)) : Memory := l.foldl (fun m p => m.write p.1 p.2) m

/-- What one packet writes to scratch of the chase, as locations and bytes (R75). TS data waits for its tile. -/
def packetWrites (shs : List Nat) (w ctx : Nat) (p : Word × List Word) : List (Nat × List Byte) :=
  let bs := flitBytes p.2
  let off := pkOffset p.1
  let at_ := (pkSheets w p.1).filterMap fun k => shs[k]?
  match pkKind p.1 with
  | 4 => at_.map fun sh => (ssLoc sh (0x300000 + 0x3C000 * ctx + 4 * off), bs)
  | 5 => at_.map fun sh => (ssLoc sh (64 * off), bs)
  | 9 => ((at_.map bhOf).eraseDups).map fun b => (dsLoc b (128 * off), bs)
  | _ => []

/-- What one packet writes to the TS of a tile of a chase sheet (R75). -/
def tileWrites (shs : List Nat) (w : Nat) (k tile : Nat) (p : Word × List Word) : List (Nat × List Byte) :=
  if pkKind p.1 = 8 ∧ (pkSheets w p.1).contains k = true ∧ (pkTiles p.1).contains tile = true then
    match shs[k]? with
    | some sh => [(sheetLoc sh (0x20000 * tile + 64 * pkOffset p.1), flitBytes p.2)]
    | none => []
  else []

/-- The keep ranges an image gives, with the sheets they are on (R75). -/
def ImageVariant.keepRanges (v : ImageVariant) (shs : List Nat) : List (Nat × Nat × Nat) :=
  v.packets.flatMap fun p =>
    if pkKind p.1 = 6 then
      ((pkSheets v.w p.1).filterMap fun k => shs[k]?).flatMap fun sh =>
        p.2.map fun f => (sh, bitsOf f.toNat 0 32, bitsOf f.toNat 32 32)
    else []

/-- The colour region mask of an image (R75). -/
def ImageVariant.regionMask (v : ImageVariant) : BitVec 256 :=
  match v.packets.find? fun p => decide (pkKind p.1 = 0xC) with
  | some p => (p.2.getD 3 0) ++ (p.2.getD 2 0) ++ (p.2.getD 1 0) ++ (p.2.getD 0 0)
  | none => 0

/-- The absolute sheet reference of an edge word moved by the chase base (R14, R73). -/
def rebaseWord (bx by_ : Nat) (x : BitVec 16) : BitVec 16 :=
  if x.extractLsb' 13 3 = 1#3 ∧ x.getLsbD 8 = true then
    x.extractLsb' 8 8 ++ (x.extractLsb' 4 4 + BitVec.ofNat 4 bx) ++ (x.extractLsb' 0 4 + BitVec.ofNat 4 by_)
  else x

/-- The switch words an image gives a tile of a chase sheet, as the imposer writes them (R14). -/
def ImageVariant.switchWords (v : ImageVariant) (base k tile : Nat) : List (BitVec 16) :=
  (v.packets.foldl (fun l p =>
    if pkKind p.1 = 3 && (pkSheets v.w p.1).contains k && (pkTiles p.1).contains tile then
      putAt l (pkOffset p.1) (words16 p.2) else l) (List.replicate 32 0#16)).map (rebaseWord (packX base) (packY base))

/-! ### The way that switch words give a route (R73) -/

/-- A place on a way through switches: sheet and tile, and the side by which a token comes in. -/
structure WayPoint where
  tile : Nat × Nat
  side : Nat
  deriving DecidableEq, Repr

/-- The out directions of a switch word for a token that comes in by a side; none for one that does not take it (R73). -/
def switchOuts (x : BitVec 16) (side : Nat) : List Nat :=
  let f (lo w : Nat) : Nat := bitsOf x.toNat lo w
  if f 11 2 ≠ side then []
  else match f 13 3 with
    | 1 | 2 => [f 9 2]
    | 3 => [f 9 2, f 7 2]
    | 4 => (List.range 4).filter fun d => decide (d ≠ side)
    | _ => []

/-- An `inject` word of an element's output, with its out direction (R73). -/
def injectDir (elem out : Nat) (x : BitVec 16) : Option Nat :=
  if bitsOf x.toNat 13 3 = 6 ∧ bitsOf x.toNat 7 4 = elem ∧ bitsOf x.toNat 5 2 = out then some (bitsOf x.toNat 11 2) else none

/-- An `eject` word that takes a token that comes in by a side to a port of an element (R73). -/
def ejects (elem port side : Nat) (x : BitVec 16) : Bool :=
  decide (bitsOf x.toNat 13 3 = 5) && decide (bitsOf x.toNat 11 2 = side) && decide (bitsOf x.toNat 7 4 = elem) &&
  decide (bitsOf x.toNat 5 2 = port)

/-- A word leads from a sheet to another: an edge word that names it (R73). -/
def leadsTo (x : BitVec 16) (sheet : Nat) : Bool :=
  decide (bitsOf x.toNat 13 3 = 1) && decide (bitsOf x.toNat 8 1 = 1) && decide (bitsOf x.toNat 4 4 = packX sheet) &&
  decide (bitsOf x.toNat 0 4 = packY sheet)

/-- One tile on from a tile of a chase in a direction, by a word that lets the token through; none outside the chase (R73, R355). -/
def wayStep (shs : List Nat) (t : Nat × Nat) (d : Nat) (x : BitVec 16) : Option WayPoint :=
  let p := tileXY t
  let q := stepDir p.1 p.2 d
  let u := tileAt q.1 q.2
  if q ≠ p ∧ shs.contains u.1 = true ∧ (u.1 = t.1 ∨ leadsTo x u.1 = true) then some ⟨u, (d + 2) % 4⟩ else none

/-- The first way from some places to one that is wanted, breadth first, each place once. -/
def findWay (fuel : Nat) (next : WayPoint → List WayPoint) (home : WayPoint → Bool) (open_ : List (WayPoint × List (Nat × Nat)))
    (seen : List WayPoint) : List (Nat × Nat) :=
  match fuel, open_ with
  | 0, _ | _, [] => []
  | fuel + 1, (p, way) :: r =>
    if home p then (p.tile :: way).reverse
    else if seen.contains p then findWay fuel next home r seen
    else findWay fuel next home (r ++ (next p).map fun q => (q, p.tile :: way)) (p :: seen)

/-- The way that the switch words of an image give a route between two elements, from the `inject` word of its output to the `eject`
word of its input; none where they give no whole way (R73; DESIGN CHOICE, log entry 6). -/
def ImageVariant.wordWay (v : ImageVariant) (base : Nat) (a b : NodeId) (out port : Nat) : List (Nat × Nat) :=
  let shs := chaseSheets base v.w v.h
  let words (t : Nat × Nat) : List (BitVec 16) := v.switchWords base (shs.findIdx fun s => decide (s = t.1)) t.2
  let start := (words (a.sheet, a.tile)).filterMap fun x =>
    (injectDir a.elem out x).bind fun d => (wayStep shs (a.sheet, a.tile) d x).map fun p => (p, [(a.sheet, a.tile)])
  let next (p : WayPoint) : List WayPoint := (words p.tile).flatMap fun x => (switchOuts x p.side).filterMap fun d => wayStep shs p.tile d x
  let home (p : WayPoint) : Bool := decide (p.tile = (b.sheet, b.tile)) && (words p.tile).any (ejects b.elem port p.side)
  if a.cls = .element ∧ b.cls = .element then findWay 4096 next home start [] else []

/-- A node of the chase is configured for a context (R11, R31, R154). -/
def State.configureNode (s : State) (v : ImageVariant) (ctx sheet : Nat) (n : NodeId) : State :=
  let m := { n with sheet := sheet }
  let queues := (s.nodeCtx m ctx).queues
  s.setNodeCtx m ctx { NodeCtx.reset with slots := v.slots n, headers := v.headers n, queues := queues }

/-- A tile of an instance is configured: its nodes, its switch words, its TS data (R11, R75). Tokens that have arrived
already stay. -/
def State.configureTile (s : State) (i : Inst) (k tile : Nat) : State :=
  let shs := i.sheets
  let sheet := shs.getD k i.base
  let s := (i.image.nodesOf k tile).foldl (fun s n => s.configureNode i.image i.ctx sheet n) s
  let t := s.tile sheet tile
  let s := s.setTile sheet tile { t with switch := t.switch.set i.ctx (i.image.switchWords i.base k tile) }
  { s with mem := writeAll s.mem (i.image.packets.flatMap fun p => tileWrites shs i.w k tile p) }

end Sys2Proof.Machine
end

