-- ==== Sys2Proof/Machine/Queues.lean ====
section
/-! DEFINITION. Queues and galleys: where an arriving push goes, refill, and pops (R105–R107, R253, R271), and the
drover's message filter (R292, R293). -/

namespace Sys2Proof.Machine

/-- A queue of a sheet. -/
def State.queue (s : State) (sheet q : Nat) : Queue := agetD (s.sheet sheet).queues q Queue.reset

/-- The state with one queue replaced. -/
def State.setQueue (s : State) (sheet q : Nat) (v : Queue) : State :=
  s.setSheet sheet { s.sheet sheet with queues := aset (s.sheet sheet).queues q v }

/-- Entries a galley holds. -/
def Galley.count (g : Galley) : Nat := g.held.length

/-- The ring's head: the number of its oldest entry, or of the next where it holds none (R271). -/
def Galley.head (g : Galley) : Nat := (g.held.head?.map fun e => e.j).getD g.next

/-- Slots of the ring into which no entry may yet go: those from its head on (R271). -/
def Galley.span (g : Galley) : Nat := g.next - g.head

/-- Entries a queue holds, its galley's counted (R106). -/
def Queue.count (q : Queue) : Nat :=
  q.hw.length + match q.galley with
    | some g => g.count
    | none => 0

/-- A queue that the thread has bound holds an entry, in the hardware queue or its galley (R108, R254). -/
def State.boundEntry (s : State) (sheet ctx : Nat) : Option (Nat × Word) :=
  (List.range 32).findSome? fun q => match aget? (s.thread sheet ctx).binds q with
    | some h => if 0 < (s.queue sheet q).count then some (q, h) else none
    | none => none

/-- Where an arriving push goes (R253). -/
inductive PushTo where
  | hardware | galley | waits
  deriving DecidableEq, Repr

/-- Where an arriving push goes (R253). -/
def Queue.pushTo (q : Queue) : PushTo :=
  match q.galley with
  | none => if q.hw.length < 32 then .hardware else .waits
  | some g =>
    if q.hw.length < 32 ∧ g.count = 0 then .hardware
    else if g.span < g.size then .galley else .waits

/-- Entries that would be accepted before one had to wait (R253). -/
def Queue.room (q : Queue) : Nat :=
  match q.galley with
  | none => 32 - q.hw.length
  | some g => (if g.count = 0 then 32 - q.hw.length else 0) + (g.size - g.span)

/-- The agent as which the queue hardware reaches a ring: for the instance that pushed the entry. -/
def Galley.agent (g : Galley) (sheet inst : Nat) : Agent := { cls := .thread, sheet := sheet, ctx := 0, tenant := g.tenant, inst := inst, covered := none }

/-- The address of a ring slot (R271). -/
def Galley.addr (g : Galley) (j : Nat) : Nat := g.base.toNat + 32 * (j % g.size)

/-- The location of a ring slot (R271): none where the page is missing or not the tenant's, or the slot's line carries another tag
(R279). -/
def State.ringLoc (s : State) (sheet : Nat) (g : Galley) (j : Nat) (k : AccessKind) : Option Nat :=
  let ans := match decodeAddr sheet false (g.addr j) with
    | some (.va v) => match (s.translate g.tenant v).2 with
        | .page leaf p => s.pageAns (g.agent sheet 0) leaf p k
        | _ => .access
    | some r => s.scratchAns (g.agent sheet 0) r k
    | none => .access
  match ans with
  | .ok loc _ => some loc
  | _ => none

/-- A ring slot cannot be reached: the launch that set the ring ends with DATA_LOST (R337, log entry 40); where a line's tag is what
stands against it, that is an isolation event as well (R279). -/
def State.ringLost (s : State) (sheet inst : Nat) (g : Galley) (j : Nat) (k : AccessKind) : State :=
  let s := match decodeAddr sheet false (g.addr j) with
    | some r => if s.strays (g.agent sheet inst) r k then s.isolationEvent (g.agent sheet inst) r.loc else s
    | none => s
  s.endLaunch g.owner kDataLost 0

/-- Every instance with the sheet in its chase makes progress: an entry was accepted by or popped from its queue (R255). -/
def State.progressAt (s : State) (sheet : Nat) : State :=
  { s with insts := amap s.insts fun _ i => if i.sheets.contains sheet then { i with watchdog := 0 } else i }

/-- What becomes of an arriving push (R253): accepted; waiting for room, or for its ring slot; its ring slot cannot be reached. -/
inductive Accepted where
  | done (s : State)
  | full
  | held
  | lost
  deriving DecidableEq, Repr

/-- The ring slot of the push that is due cannot be reached (R279, R337). -/
def State.pushLost (s : State) (sheet q inst : Nat) : State :=
  match (s.queue sheet q).galley with
  | some g => s.ringLost sheet inst g g.next .write
  | none => s

/-- A push to a queue of a sheet whose bulkhead another tenant holds, or is being switched to or from the tenant, waits at the pusher
(R288, R289). -/
def State.parkedFor (s : State) (sheet tenant : Nat) : Bool :=
  let b := s.bulkhead (bhOf sheet)
  decide (b.tag.toNat ≠ tenant) || decide (b.state = .switching)

/-- A tenant is parked on a bulkhead, or is being switched to or from there (R289). -/
def Bulkhead.parks (b : Bulkhead) (t : Nat) : Bool :=
  b.shared && b.rotation.contains t && (decide (b.state = .active) || (decide (b.state = .switching) && decide (b.nextTag ≠ 0 ∨ b.busy = .parking)))

/-- The DS bank of a ring is parked: the ring is as it was when the bank comes back (R289). -/
def State.ringParked (s : State) (sheet : Nat) (g : Galley) : Bool :=
  match decodeAddr sheet false g.base.toNat with
  | some (.ds bank _) =>
    let b := s.bulkhead bank
    b.parks g.tenant && (decide (b.tag.toNat ≠ g.tenant) || decide (b.state = .switching))
  | _ => false

/-- An arriving push is accepted, or waits (R253): for room, for a ring slot in a line that another instance holds (R226), for a line of a
full proof buffer (R225), or for a parked bank (R289). -/
def State.accept (s : State) (sheet q : Nat) (e : QEntry) : Accepted :=
  let x := s.queue sheet q
  match x.pushTo, x.galley with
  | .hardware, _ =>
    .done ((s.setQueue sheet q { x with hw := x.hw ++ [{ e with num := x.pushes, place := none }], pushes := x.pushes + 1 }).progressAt sheet)
  | .galley, some g =>
    if s.ringParked sheet g then .held
    else match s.ringLoc sheet g g.next .write with
    | none => .lost
    | some loc =>
      if heldByOther s.insts e.inst (loc / 64) || (!(isSheetScratch loc) && s.proofFull (g.agent sheet e.inst) (loc / 64)) then .held else
      let s := s.storeBytes (g.agent sheet e.inst) loc (padBytes 32 e.bytes)
      let g := { g with next := g.next + 1, held := g.held ++ [{ j := g.next, inst := e.inst, num := x.pushes }] }
      .done ((s.setQueue sheet q { x with galley := some g, pushes := x.pushes + 1 }).progressAt sheet)
  | _, _ => .full

/-- An instance is stopped under R257, or is being restored (R315): its queues are held as they stand. -/
def State.stalledInst (s : State) (id : Nat) : Bool := ((aget? s.insts id).map fun i => i.stalled || i.restoring).getD false

/-- The galley's head moves into the hardware queue's tail, with the bytes its slot holds by now; a slot in a line that another instance
than the pusher holds is read once that is committed (R226, R253, R271). -/
def State.refill (s : State) (sheet q : Nat) : State :=
  let x := s.queue sheet q
  match x.galley with
  | none => s
  | some g =>
    match g.held with
    | [] => s
    | e :: rest =>
      if 32 ≤ x.hw.length ∨ s.stalledInst g.owner = true ∨ s.parkedFor sheet g.tenant = true ∨ s.ringParked sheet g = true then s
      else match s.ringLoc sheet g e.j .read with
        | none => s.ringLost sheet e.inst g e.j .read
        | some loc =>
          if heldByOther s.insts e.inst (loc / 64) then s else
          let moved : QEntry := { bytes := s.loadBytes e.inst loc 32, inst := e.inst, num := e.num, place := some (g.set, e.j) }
          s.setQueue sheet q { x with hw := x.hw ++ [moved], galley := some { g with held := rest } }

/-- A waiting thread's instruction retires (R84): the thread moves on and is charged. -/
def State.retireWait (s : State) (sheet ctx size : Nat) : State :=
  let s := s.setThread sheet ctx ({ s.thread sheet ctx with wait := none }.advance size)
  match s.instAt sheet ctx with
  | some (id, _) => (s.charge id).progress id
  | none => s

/-- The oldest waiting push is accepted if there is room; its pusher's `qpush` retires (R105, R253). -/
def State.acceptWaiting (s : State) (sheet q : Nat) : State :=
  let x := s.queue sheet q
  match x.waiting with
  | [] => s
  | p :: rest =>
    let tenant := match p.pusher with
      | some (sh, c) => s.tenantAt sh c
      | none => (s.bulkhead (bhOf sheet)).tag.toNat
    if s.parkedFor sheet tenant || s.stalledInst p.entry.inst then s
    else match (s.setQueue sheet q { x with waiting := rest }).accept sheet q p.entry with
      | .full | .held => s
      | .lost => s.pushLost sheet q p.entry.inst
      | .done s => match p.pusher with
        | some (sh, c) => if (s.thread sh c).wait = some .qpush then s.retireWait sh c 4 else s
        | none => s

/-! ### The message filter (R292, R293) -/

/-- The drover's answer to a record of `len` words for filter entry e, and the state after it (R109, R293). A record that finds room but
not its ring slot's line, or pushes that wait before it, is taken and waits for its place; one whose ring slot cannot be reached is not
delivered (DESIGN CHOICE, log entry 40). -/
def State.filterSend (s : State) (tenant e len : Nat) (bytes : List Byte) : State × Nat :=
  let v := (agetD s.drover.filters e 0).toNat
  let sheet := bitsOf v 105 8
  let q := bitsOf v 102 3
  let dst := bitsOf v 113 7
  let bh := s.bulkhead (bhOf sheet)
  let lacks := agetD s.drover.buckets e 0
  if bitsOf v 127 1 = 0 ∨ bitsOf v 120 7 ≠ tenant then (s, 1)
  else if (bh.state ≠ .active ∨ bh.tag.toNat ≠ dst) ∧ bh.parks dst = false then (s, 1)
  else if len = 0 ∨ bitsOf v 98 4 < len then (s, 2)
  else if bitsOf v 74 8 * 1000000 < lacks + 1000000 then (s, 3)
  else if bh.tag.toNat ≠ dst ∨ bh.state ≠ .active then (s, 4)
  else
    let x := s.queue sheet q
    let rec_ : QEntry := { bytes := padBytes 32 bytes, inst := 0, num := 0, place := none }
    let taken (s : State) : State × Nat := ({ s with drover := { s.drover with buckets := aset s.drover.buckets e (lacks + 1000000) } }, 0)
    let queued : State := s.setQueue sheet q { x with waiting := x.waiting ++ [{ entry := rec_, pusher := none }] }
    if x.room ≤ x.waiting.length then (s, 4)
    else if let some l := s.strayArray dst [⟨sheet, .queues, q⟩] then
      (s.send (.isolation l.number (agetD s.arrayTags l 0).toNat dst), 4)
    else if x.waiting ≠ [] then taken queued
    else match s.accept sheet q rec_ with
      | .done s => taken s
      | .held => taken queued
      | .full => (s, 4)
      | .lost => (s.pushLost sheet q 0, 4)

end Sys2Proof.Machine
end

