-- ==== Sys2Proof/Machine/SeqStream.lean ====
section
/-! DEFINITION. Streams as the sequencer starts, chooses and ends them (R95–R102). -/

namespace Sys2Proof.Machine

/-- The descriptor in a 32-byte image (R95). -/
def descOf (bs : List Byte) : Desc :=
  let v := leNat bs
  { base := BitVec.ofNat 64 (bitsOf v 0 64), c0 := BitVec.ofNat 24 (bitsOf v 64 24), fmt := BitVec.ofNat 3 (bitsOf v 88 3),
    slot := BitVec.ofNat 4 (bitsOf v 92 4), s0 := BitVec.ofNat 32 (bitsOf v 96 32), c1 := BitVec.ofNat 32 (bitsOf v 128 24),
    colour := BitVec.ofNat 8 (bitsOf v 152 8), s1 := BitVec.ofNat 32 (bitsOf v 160 32),
    c2 := BitVec.ofNat 24 (bitsOf v 192 24), iter := BitVec.ofNat 8 (bitsOf v 216 8), s2 := BitVec.ofNat 32 (bitsOf v 224 32) }

/-- `dset`: the image at ga into slot N of the thread (R96). -/
def doDset (n : BitVec 5) (a : Reg) (s : State) : State :=
  let ga := s.reg a
  if ga.toNat % 8 ≠ 0 then s.trap kAlign ga
  else s.readRecord (.dset n a) ga 4 [] fun s bs =>
    let x := descOf bs
    if x.c0 = 0 ∨ x.c1 = 0 ∨ x.c2 = 0 ∨ bitsOf (leNat bs) 91 1 = 1 then s.trap kIllegal ga
    else if x.base.toNat % 4 ≠ 0 ∨ x.s0.toNat % 4 ≠ 0 ∨ x.s1.toNat % 4 ≠ 0 ∨ x.s2.toNat % 4 ≠ 0 then s.trap kAlign ga
    else s.setCur ({ s.cur with descs := aset s.cur.descs n.toNat x }.advance 4)

/-- `dset` (R96). -/
def execDset (n : BitVec 5) (a : Reg) (s : State) : Result := .next (doDset n a s)

/-- The stream still occupies its port: it is issued and neither drained, stopped nor cancelled (R97, R30). -/
def StreamState.open : StreamState → Bool
  | .group | .held | .live => true
  | .drained | .stopped | .cancelled => false

/-- A port of a sheet carries a stream of a context in a direction (R97). -/
def State.portTaken (s : State) (sheet ctx port : Nat) (inbound : Bool) : Bool :=
  s.streams.any fun p => decide (p.2.sheet = sheet) && decide (p.2.ctx = ctx) && decide (p.2.port = port) &&
    decide (p.2.inbound = inbound) && p.2.state.open

/-- `strin` and `strout`: a stream from the pattern in slot N joins the thread's issue group; at an occupied port the
instruction waits, at an empty slot it traps (R96–R98). -/
def doStream (inbound : Bool) (k n x : BitVec 5) (s : State) : State :=
  match aget? s.cur.descs n.toNat with
  | none => s.trap kIllegal (n.setWidth 64)
  | some d =>
    if s.portTaken s.curSheet s.curCtx k.toNat inbound then s.waitFor (.port inbound k n x)
    else
      let r := s.fresh
      let st : Stream :=
        { inst := s.curInstId, sheet := s.curSheet, ctx := s.curCtx, inbound := inbound, port := k.toNat, bank := x.toNat,
          desc := d, cursor := 0, ahead := [], state := .group, stall := none, invalid := false }
      let s := { r.2 with streams := r.2.streams ++ [(r.1, st)] }
      s.setCur ({ s.cur with group := s.cur.group ++ [r.1] }.advance 4)

/-- `strin` (R97). -/
def execStrin (k n x : BitVec 5) (s : State) : Result := .next (doStream true k n x s)

/-- `strout` (R97). -/
def execStrout (k n x : BitVec 5) (s : State) : Result := .next (doStream false k n x s)

/-- The live streams a thread has issued (R102). -/
def State.liveStreams (s : State) (sheet ctx : Nat) : List Nat :=
  (s.streams.filter fun p => decide (p.2.sheet = sheet) && decide (p.2.ctx = ctx) && decide (p.2.state = .live)).map Prod.fst

/-- `stbar`: waits until every live stream issued before it has drained (R102). -/
def execStbar (s : State) : Result :=
  let l := s.liveStreams s.curSheet s.curCtx
  .next (if l.isEmpty then s.advance else s.waitFor (.stbar l))

/-- A stream cancelled: what it waits for is dropped, and it moves nothing more (R100). -/
def Stream.cancel (st : Stream) : Stream := { st with state := .cancelled, stall := none, ahead := [] }

/-- Streams cancelled, with the accesses they wait for (R100). -/
def State.cancelStreams (s : State) (l : List Nat) : State :=
  { s with
    streams := amap s.streams fun k st => if l.contains k then st.cancel else st,
    drover := { s.drover with tags := s.drover.tags.filter fun p => match p.2.who with
      | .stream k => !(l.contains k)
      | _ => true } }

/-- The streams of a list that are in a bank. -/
def State.inBank (s : State) (l : List Nat) (bank : Nat) : List Nat :=
  l.filter fun k => match aget? s.streams k with
    | some st => decide (st.bank = bank)
    | none => false

/-- The held set resolved: the streams of one bank live, those of the other cancelled (R100). -/
def State.resolveHeld (s : State) (bank : Nat) : State :=
  let t := s.cur
  let keep := s.inBank t.held bank
  let s := s.cancelStreams (s.inBank t.held (1 - bank))
  let s := { s with streams := amap s.streams fun k st => if keep.contains k then { st with state := .live } else st }
  s.setCur { t with held := [] }

/-- `bsel`: bank A where ga[0] is 0, bank B where it is 1 (R100). -/
def execBsel (a : Reg) (s : State) : Result := .next (s.resolveHeld (if (s.reg a).getLsbD 0 then 1 else 0)).advance

/-- `scancel`: every stream of the bank that has not drained (R101). -/
def execScancel (x : BitVec 5) (s : State) : Result :=
  let mine := (s.streams.filter fun p => decide (p.2.sheet = s.curSheet) && decide (p.2.ctx = s.curCtx) &&
    decide (p.2.bank = x.toNat) && p.2.state.open).map Prod.fst
  let s := s.cancelStreams mine
  .next (s.setCur { s.cur with held := s.cur.held.filter fun k => !(mine.contains k) }).advance

end Sys2Proof.Machine
end

