-- ==== Sys2Proof/Machine/SeqForme.lean ====
section
/-! DEFINITION. Forme control as the sequencer sees it (R110, R111): `fload`, `fplace`, `frun`, `fhalt`, `bell`, `flay`, and
the barrier release that a `fhalt` can bring about (R112). -/

namespace Sys2Proof.Machine

/-! ### Barriers (R112) -/

/-- The chase sheets whose threads take part in a barrier: those that run (R29, R112). -/
def State.barrierSheets (s : State) (i : Inst) : List Nat :=
  i.sheets.filter fun sh => decide ((s.thread sh i.ctx).run = .running)

/-- Every thread that takes part waits in a barrier. -/
def State.barrierFull (s : State) (i : Inst) (b : BitVec 3) : Bool :=
  (s.barrierSheets i).all fun sh => decide ((s.thread sh i.ctx).wait = some (.bar b))

/-- Threads released from their barrier: their `bar` retires. -/
def State.releaseThreads (s : State) (ctx : Nat) (l : List Nat) : State :=
  match l with
  | [] => s
  | sh :: r => (s.retireWait sh ctx 4).releaseThreads ctx r

/-- A barrier that is full and that somebody waits in is released (R112). -/
def State.tryRelease (s : State) (i : Inst) (b : BitVec 3) : State :=
  let l := s.barrierSheets i
  if s.barrierFull i b then s.releaseThreads i.ctx l else s

/-- A thread has left every barrier: a barrier that the others fill is released (R111, R112). -/
def State.tryReleaseAny (s : State) (i : Inst) : State :=
  match (s.barrierSheets i).head? with
  | none => s
  | some sh => match (s.thread sh i.ctx).wait with
    | some (.bar b) => s.tryRelease i b
    | _ => s

/-! ### Preparing the next phase (R110) -/

/-- The instance and slice of the acting thread where it stands on the chase base sheet. -/
def State.basePhase (s : State) : Option (Nat × Inst × Slice) :=
  match s.curInst with
  | none => none
  | some (id, i) =>
    if i.base ≠ s.curSheet then none
    else match aget? s.slices i.slice with
      | some x => some (id, i, x)
      | none => none

/-- The lowest handle from 1 to 15 that is not in use (R110). -/
def Slice.freeHandle (x : Slice) : Option Nat := ((List.range 15).map (· + 1)).find? fun h => (aget? x.handles h).isNone

/-- Bytes of the images a slice has loaded. -/
def Slice.imageBytes (x : Slice) : Nat := (x.handles.map fun p => p.2.bytes).sum

/-- A location in a DS bank that the tenant holds, or in DM (R110). -/
def State.isImagePlace (s : State) (tenant loc : Nat) : Bool :=
  (decide (0xFF00000100000000 ≤ loc) && decide (loc < 0xFF00000120000000) &&
    decide ((s.bulkhead ((loc - 0xFF00000100000000) / 0x800000)).tag.toNat = tenant)) || decide (loc < 768 * 2 ^ 30)

/-- What the drover answers to `fload` of an image at a location: −1 where there is none or the loader refuses it, −2
where there is no room, else the handle (R110). -/
def State.loadImage (s : State) (slice loc : Nat) : State × Word :=
  match aget? s.images loc, aget? s.slices slice with
  | some m, some x =>
    if !(s.isImagePlace x.tenant loc && m.ok) then (s, -1)
    else match x.freeHandle with
      | none => (s, -2)
      | some h =>
        if Config.formeArea < x.imageBytes + m.bytes then (s, -2)
        else (s.setSlice slice { x with handles := aset x.handles h m }, BitVec.ofNat 64 h)
  | _, _ => (s, -1)

/-- `fload`: on the chase base sheet only (R110). DESIGN CHOICE (log entry 44): a ga that is not 8-aligned traps ALIGN with TVAL ga. -/
def doFload (d a : Reg) (s : State) : State :=
  match s.basePhase with
  | none => s.trap kIllegal 0
  | some (_, i, _) =>
    s.access (.fload d a) (s.reg a) 8 .read fun s loc _ =>
      let r := s.loadImage i.slice loc
      r.1.writeNext d r.2

/-- `fload` (R110). -/
def execFload (d a : Reg) (s : State) : Result := .next (doFload d a s)

/-- What the drover answers to `fplace` (R110, R12). -/
def State.placeAnswer (s : State) (x : Slice) (h n : Nat) : Word :=
  match aget? x.handles h with
  | none => -1
  | some m => match m.variant n with
    | none => -2
    | some v => if s.couldFit x.tenant m v then 0 else -3

/-- `fplace`: on the chase base sheet only; an accepted one is the next phase (R110). DESIGN CHOICE (log entry 125): one that is not
accepted leaves an earlier accepted one as it is. -/
def execFplace (d a b : Reg) (s : State) : Result :=
  .next (match s.basePhase with
    | none => s.trap kIllegal 0
    | some (id, i, x) =>
      let h := (s.reg a).toNat
      let n := (s.reg b).toNat
      let r := s.placeAnswer x h n
      let s := if r = 0 then s.setInst id { i with accepted := some (h, n) } else s
      s.writeNext d r)

/-- `frun`: the accepted next phase with the eight parameters at ga (R110). DESIGN CHOICE (log entry 44): a ga that is not 8-aligned
traps ALIGN with TVAL ga. -/
def doFrun (a : Reg) (s : State) : State :=
  match s.basePhase with
  | none => s.trap kIllegal 0
  | some (id, i, _) =>
    match i.accepted with
    | none => s.trap kIllegal 0
    | some (h, n) =>
      if (s.reg a).toNat % 8 ≠ 0 then s.trap kAlign (s.reg a)
      else s.readRecord (.frun a) (s.reg a) 8 [] fun s bs =>
        let ps := (List.range 8).map fun k => bytesWord ((bs.drop (8 * k)).take 8)
        (s.updInst id fun i => { i with nextPhase := some (h, n, ps) }).advance

/-- `frun` (R110). -/
def execFrun (a : Reg) (s : State) : Result := .next (doFrun a s)

/-! ### The end of a thread, cuts and the layout log (R111) -/

/-- A thread that has halted: no bindings, no waits (R111). -/
def Thread.halt (t : Thread) : Thread :=
  { t with run := .halted, held := [], binds := [], laterBinds := [], invocation := none, wait := none }

/-- `fhalt` (R111): held streams cancelled, bindings removed, the thread ends and leaves every barrier. -/
def execFhalt (s : State) : Result :=
  let s := s.cancelStreams s.cur.held
  let s := s.setCur s.cur.halt
  .next (match s.curInst with
    | some (_, i) => s.tryReleaseAny i
    | none => s)

/-- `bell`: a cut at once; the thread goes on (R111, R308). -/
def execBell (s : State) : Result := .next (s.advance.requestCut s.curInstId)

/-- A node as the layout log names it (R111). -/
def nodeRef (n : NodeId) : BitVec 16 := BitVec.ofNat 8 n.sheet ++ BitVec.ofNat 4 n.tile ++ BitVec.ofNat 4 n.elem

/-- A layout log entry as its 256 bits (R111). -/
def LogEntry.bits (e : LogEntry) : BitVec 256 :=
  e.time ++ e.tokens ++ 0#24 ++ classCodeOf e.after ++ classCodeOf e.before ++ nodeRef e.after ++ nodeRef e.before ++ e.actor ++
    0#5 ++ e.member ++ e.kind ++ e.version
where
  /-- The number of a node's class (R111). -/
  classCodeOf (n : NodeId) : BitVec 4 :=
    match n.cls with
    | .element => 0
    | .ag => 1
    | .cv => 2
    | .pa => 3
    | .fe => 4

/-- The 32 bytes of an entry. -/
def LogEntry.bytes (e : LogEntry) : List Byte := natBytes 32 e.bits.toNat

/-- What is wrong with the place `flay` is to write to (R111): own SS, a DS bank of the tenant, or DM pages. -/
def State.flayPlace (s : State) (addr : Word) : Bool :=
  let tenant := s.tenantAt s.curSheet s.curCtx
  match decodeAddr s.curSheet false addr.toNat with
  | some (.ss _ off) => decide (off < 0x300000)
  | some (.ds bank _) => decide ((s.bulkhead bank).tag.toNat = tenant) && decide ((s.bulkhead bank).state = .active)
  | some (.va v) => match (s.translate tenant v).2 with
    | .page leaf _ => !(leaf.getLsbD 61)
    | _ => true
  | _ => false

/-- Doublewords written one after another as by `st.d`, once every one of them may be (R85, R111); where one lies on an SO page, as
publishing accesses at a cut (R227). -/
def State.writeRecord (s : State) (i : Instr) (atCut : Bool) (addr : Word) (ws : List (List Byte)) (got : List (Nat × List Byte))
    (so : Bool) (go : State → State) : State :=
  match ws with
  | [] =>
    let eff (through : Bool) (s : State) : State := go (got.foldl (fun s p => s.threadWrite through p.1 p.2) s)
    if so then s.publishing i [] atCut (eff true) else eff false s
  | w :: r => s.access i addr 8 .write fun s loc ord =>
      s.writeRecord i atCut (addr + 8) r (got ++ [(loc, w)]) (so || decide (ord = 0#2)) go

/-- A list of bytes in pieces of eight. -/
def pieces8 (bs : List Byte) : List (List Byte) := (List.range (bs.length / 8)).map fun k => (bs.drop (8 * k)).take 8

/-- `flay`: the layout log, oldest entry first, to ga (R28, R111). -/
def doFlay (d a : Reg) (atCut : Bool) (s : State) : State :=
  let ga := s.reg a
  if ga.toNat % 32 ≠ 0 then s.trap kAlign ga
  else if !(s.flayPlace ga) then s.trap kAccess ga
  else
    let log := match s.curInst with
      | some (_, i) => i.log
      | none => []
    let lost := match s.curInst with
      | some (_, i) => i.overwritten
      | none => 0
    s.writeRecord (.flay d a) atCut ga (pieces8 (log.flatMap LogEntry.bytes)) [] false fun s =>
      s.writeNext d (BitVec.ofNat 32 lost ++ BitVec.ofNat 32 log.length)

/-- `flay` (R111). -/
def execFlay (d a : Reg) (s : State) : Result := .next (doFlay d a false s)

end Sys2Proof.Machine
end

