-- ==== Sys2Proof/Machine/SeqQueue.lean ====
section
/-! DEFINITION. Queue instructions (R105–R109). -/

namespace Sys2Proof.Machine

/-- The chase sheet with a chase-relative index (R105). -/
def State.chaseSheet (s : State) (k : Word) : Option Nat :=
  match s.curInst with
  | some (_, i) => i.sheets[k.toNat]?
  | none => none

/-- The push leaves: accepted at once where there is room and nothing waits before it, else it waits (R105, R253). -/
def State.push (s : State) (sheet q : Nat) (e : QEntry) : State :=
  let x := s.queue sheet q
  let later := (s.setQueue sheet q { x with waiting := x.waiting ++ [{ entry := e, pusher := some (s.curSheet, s.curCtx) }] })
  if x.waiting ≠ [] ∨ s.parkedFor sheet (s.tenantAt s.curSheet s.curCtx) = true then later.waitFor .qpush
  else match s.accept sheet q e with
    | .done s => s.advance
    | .full | .held => later.waitFor .qpush
    | .lost => (later.waitFor .qpush).pushLost sheet q e.inst

/-- `qpush`: the 32-byte record at gb to queue K of chase sheet ga (R105). -/
def doQpush (k : BitVec 5) (a b : Reg) (s : State) : State :=
  match s.chaseSheet (s.reg a) with
  | none => if (s.reg b).toNat % 8 ≠ 0 then s.trap kAlign (s.reg b) else s.trap kAccess (s.reg a)
  | some sheet =>
    if (s.reg b).toNat % 8 ≠ 0 then s.trap kAlign (s.reg b)
    else s.readRecord (.qpush k a b) (s.reg b) 4 [] fun s bs =>
      s.push sheet k.toNat { bytes := bs, inst := s.curInstId, num := 0, place := none }

/-- `qpush` (R105). -/
def execQpush (k : BitVec 5) (a b : Reg) (s : State) : Result := .next (doQpush k a b s)

/-- `qpop`: the head entry to the pop buffer, its first doubleword to gd; waits while the hardware queue is empty (R106,
R253). -/
def doQpop (d : Reg) (k : Nat) (s : State) : State :=
  let x := s.queue s.curSheet k
  match x.hw with
  | [] => s.waitFor (.qpop d k)
  | e :: rest =>
    let gone : Popped := { seq := x.pops, inst := s.curInstId, entry := e }
    let s := (s.setQueue s.curSheet k { x with hw := rest, pops := x.pops + 1, popped := x.popped ++ [gone] }).progressAt s.curSheet
    let s := { s with mem := s.mem.write (ssLoc s.curSheet (popBuffer s.curCtx)) (padBytes 32 e.bytes) }
    let s := s.setCur { s.cur with popless := false, barren := false }
    s.endWait.writeNext d (bytesWord (e.bytes.take 8))

/-- `qpop` (R106). -/
def execQpop (d : Reg) (k : BitVec 5) (s : State) : Result := .next (doQpop d k.toNat s)

/-- `qcnt`: entries in the hardware queue and its galley (R106). -/
def execQcnt (d : Reg) (k : BitVec 5) (s : State) : Result :=
  .next (s.writeNext d (BitVec.ofNat 64 (s.queue s.curSheet k.toNat).count))

/-- What is wrong with a ring's place, page by page (R107). -/
inductive RingPlace where
  | good | illegal | fm | miss (addr : Nat) | xlate (addr : Nat)
  deriving DecidableEq, Repr

/-- The pages from a virtual address on, n of them, are pinned DM pages of the tenant (R107, R337). DESIGN CHOICE (log entry 123): a page
that is not pinned is as one that is no DM page; the walk of a page can miss, and then stalls the instruction as a write there would; a
page declared invalid faults XLATE. -/
def State.ringPages (s : State) (tenant va n : Nat) : RingPlace :=
  match n with
  | 0 => .good
  | n + 1 =>
    if s.cur.invalid = some (BitVec.ofNat 64 va) then .xlate va
    else match (s.translate tenant (va % 2 ^ 48)).2 with
    | .page leaf p =>
      if leaf.getLsbD 61 then .fm
      else if leaf.getLsbD 59 = false then .illegal
      else match s.pageAns { s.threadAgent with tenant := tenant } leaf p .write with
        | .ok _ _ => s.ringPages tenant (va / 65536 * 65536 + 65536) n
        | _ => .illegal
    | .miss => .miss va
    | .invalid => .xlate va
    | .access => .illegal

/-- The place of a ring of n bytes (R107): own SS outside the code regions and the private area, a DS bank of the tenant,
or DM pages. -/
def State.ringPlace (s : State) (tenant : Nat) (addr : Word) (n : Nat) : RingPlace :=
  match decodeAddr s.curSheet false addr.toNat with
  | some (.ss _ off) => if off + n ≤ 0x300000 then .good else .illegal
  | some (.ds bank off) =>
    if (s.bulkhead bank).tag.toNat = tenant ∧ (s.bulkhead bank).state = .active ∧ off + n ≤ 0x800000 then .good else .illegal
  | some (.va v) =>
    if 2 ^ 48 < v + n then .illegal else s.ringPages tenant v ((v % 65536 + n + 65535) / 65536)
  | _ => .illegal

/-- `qctl`: the galley of queue K a ring of gb entries at ga; none for gb = 0 (R107). -/
def doQctl (k : BitVec 5) (a b : Reg) (s : State) : State :=
  let ga := s.reg a
  let n := (s.reg b).toNat
  let x := s.queue s.curSheet k.toNat
  let tenant := s.tenantAt s.curSheet s.curCtx
  let held := match x.galley with
    | some g => decide (g.count ≠ 0)
    | none => false
  if ga.toNat % 32 ≠ 0 then s.trap kIllegal ga
  else if 1048576 < n then s.trap kIllegal (s.reg b)
  else if held then s.trap kIllegal ga
  else if n = 0 then (s.setQueue s.curSheet k.toNat { x with galley := none }).advance
  else match s.ringPlace tenant ga (32 * n) with
    | .good =>
      let g : Galley :=
        { base := ga, tenant := tenant, size := n, set := x.settings, next := 0, held := [], owner := s.curInstId }
      (s.setQueue s.curSheet k.toNat { x with galley := some g, settings := x.settings + 1 }).advance
    | .illegal => s.trap kIllegal ga
    | .fm => s.trap kAccess 0
    | .miss v => s.stallThread (.qctl k a b) (BitVec.ofNat 64 v) .write
    | .xlate v => s.trap kXlate (BitVec.ofNat 64 v)

/-- `qctl` (R107). -/
def execQctl (k : BitVec 5) (a b : Reg) (s : State) : Result := .next (doQctl k a b s)

/-- Another thread of the sheet has bound the queue (R108). -/
def State.boundElsewhere (s : State) (sheet ctx q : Nat) : Bool :=
  (List.range 4).any fun c => decide (c ≠ ctx) && (aget? (s.thread sheet c).binds q).isSome

/-- A binding set or removed (R108). -/
def Thread.bind (t : Thread) (q : Nat) (h : Option Word) : Thread :=
  match h with
  | some a => { t with binds := aset t.binds q a }
  | none => { t with binds := adel t.binds q }

/-- `qbind`: at once, or when the invocation in progress ends (R108). -/
def execQbind (k : BitVec 5) (o : BitVec 16) (s : State) : Result :=
  let t := s.cur
  let h := if o = 0 then none else some (branchTo t.pc o.toInt)
  .next (if s.boundElsewhere s.curSheet s.curCtx k.toNat then s.trap kIllegal 0
    else match t.invocation with
      | none => s.setCur ((t.bind k.toNat h).advance 4)
      | some _ => s.setCur ({ t with laterBinds := t.laterBinds ++ [(k.toNat, h)] }.advance 4))

/-- The record of an `xq` goes to the drover, and gd gets its answer (R109, R293). -/
def sendXq (d a : Reg) (bs : List Byte) (s : State) : State :=
  let ga := (s.reg a).toNat
  let len := bitsOf ga 8 4
  let r := s.filterSend (s.tenantAt s.curSheet s.curCtx) (bitsOf ga 0 8) len (bs.take (4 * len))
  r.1.writeNext d (BitVec.ofNat 64 r.2)

/-- `xq`: the record is read, and goes to the drover at a cut (R109, R227). -/
def doXq (d a b : Reg) (s : State) : State :=
  let len := bitsOf (s.reg a).toNat 8 4
  if (s.reg b).toNat % 8 ≠ 0 then s.trap kAlign 0
  else s.readRecord (.xq d a b) (s.reg b) (if len ≤ 8 then (len + 1) / 2 else 0) [] fun s bs =>
    s.publishing (.xq d a b) bs false (sendXq d a bs)

/-- `xq` (R109). -/
def execXq (d a b : Reg) (s : State) : Result := .next (doXq d a b s)

end Sys2Proof.Machine
end

