-- ==== Sys2Proof/Machine/SeqSync.lean ====
section
/-! DEFINITION. Barriers and event flags (R112). -/

namespace Sys2Proof.Machine

/-- `bar`: the thread waits; when it is the last, all are released (R112). A thread of no instance is alone. -/
def execBar (a : Reg) (s : State) : Result :=
  let b := (s.reg a).extractLsb' 0 3
  .next (match s.curInst with
    | none => s.advance
    | some (_, i) =>
      let s := s.waitFor (.bar b)
      if s.barrierFull i b then
        (s.releaseThreads i.ctx ((s.barrierSheets i).filter fun sh => decide (sh ≠ s.curSheet))).endWait.advance
      else s)

/-- Event flags of a thread set. -/
def State.signal (s : State) (sheet ctx : Nat) (mask : BitVec 16) : State :=
  let t := s.thread sheet ctx
  s.setThread sheet ctx { t with events := t.events ||| mask }

/-- `evsig`: the masked flags of the same context's thread on a chase sheet; ACCESS beyond the chase (R112). -/
def execEvsig (a b : Reg) (s : State) : Result :=
  .next (match s.chaseSheet (s.reg a) with
    | none => s.trap kAccess (s.reg a)
    | some sh => (s.signal sh s.curCtx ((s.reg b).extractLsb' 0 16)).advance)

/-- `evwait` with a mask: the masked flags that are set go to gd and are cleared; while there are none the thread waits
(R112). -/
def doEvwait (d : Reg) (mask : BitVec 16) (s : State) : State :=
  let t := s.cur
  let got := t.events &&& mask
  if got = 0 then s.waitFor (.evwait d mask)
  else (s.setCur { t with events := t.events &&& ~~~mask }).endWait.writeNext d (got.setWidth 64)

/-- `evwait`: a mask of 0 is ILLEGAL (R112). -/
def execEvwait (d a : Reg) (s : State) : Result :=
  let mask := (s.reg a).extractLsb' 0 16
  .next (if mask = 0 then s.trap kIllegal 0 else doEvwait d mask s)

end Sys2Proof.Machine
end

