-- ==== Sys2Proof/Machine/Stick.lean ====
section
/-! DEFINITION. Sticks: the words of R76, the checks of R76 and R178, and the walk they describe (R179). -/

namespace Sys2Proof.Machine

/-- One level of a walk (R179). -/
structure Level where
  count : Nat
  stride : Int
  gath : Bool
  tile : Option Nat
  before : Nat
  after : Nat
  skip : Nat
  deriving DecidableEq, Repr

/-- A level no word names (R179). -/
def Level.plain : Level := { count := 1, stride := 0, gath := false, tile := none, before := 0, after := 0, skip := 0 }

/-- A stick as read (R179). -/
structure Stick where
  levels : List Level          -- levels 0 to 5
  order : List Nat             -- outermost first
  emit : Option Nat
  swap : Option Nat
  plane : Option Nat           -- Q code
  bad : Bool                   -- a check of R76 or R178 fails
  ended : Bool
  deriving DecidableEq, Repr

/-- A stick of which no word has been read. -/
def Stick.start : Stick :=
  { levels := List.replicate 6 Level.plain, order := [5, 4, 3, 2, 1, 0], emit := none, swap := none, plane := none, bad := false,
    ended := false }

/-- A level of the stick. -/
def Stick.level (s : Stick) (k : Nat) : Level := s.levels.getD k Level.plain

/-- The stick with a level replaced; a level above 5 fails its check (R76). -/
def Stick.setLevel (s : Stick) (k : Nat) (l : Level) : Stick :=
  if 6 ≤ k then { s with bad := true } else { s with levels := s.levels.set k l }

/-- The stick whose check fails unless `ok`. -/
def Stick.check (s : Stick) (ok : Bool) : Stick := { s with bad := s.bad || !ok }

/-- A 13-bit field read as signed (R76). -/
def signed13 (v : Nat) : Int := if 4096 ≤ v then (v : Int) - 8192 else v

/-- A list with the places of two values exchanged. -/
def swapPlaces (l : List Nat) (a b : Nat) : List Nat := l.map fun x => if x = a then b else if x = b then a else x

/-- One stick word (R76, R178, R179). -/
def Stick.word (s : Stick) (w : W32) : Stick :=
  let v := w.toNat
  let L := bitsOf v 25 3
  let x := s.level L
  let n := bitsOf v 13 12
  let low := decide (bitsOf v 0 13 = 0)
  let size := 2 ^ bitsOf v 26 2
  match bitsOf v 28 4 with
  | 0 => s.setLevel L { x with count := n + 1, stride := signed13 (bitsOf v 0 13) }
  | 1 => (s.setLevel L { x with tile := some (n + 1) }).check (low && x.tile.isNone)
  | 2 =>
    let b := bitsOf v 22 3
    ({ s with order := swapPlaces s.order L b }).check
      (decide (L < 6) && decide (b < 6) && decide (L ≠ b) && decide (bitsOf v 0 22 = 0))
  | 3 => (s.setLevel L { x with gath := true }).check (decide (bitsOf v 0 25 = 0) && !x.gath)
  | 4 => (s.setLevel L { x with before := bitsOf v 19 6, after := bitsOf v 13 6 }).check low
  | 5 => ({ s with emit := some size }).check (decide (bitsOf v 0 26 = 0) && s.emit.isNone)
  | 6 => (s.setLevel L { x with skip := n }).check low
  | 7 => ({ s with swap := some size }).check (decide (bitsOf v 0 26 = 0) && s.swap.isNone)
  | 8 => ({ s with plane := some (bitsOf v 26 2) }).check (decide (bitsOf v 0 26 = 0) && s.plane.isNone)
  | 9 => ({ s with ended := true }).check (decide (bitsOf v 0 28 = 0))
  | _ => s.check false

/-- The stick read word by word up to its end (R76). -/
def Stick.read (s : Stick) (ws : List W32) : Stick :=
  match ws with
  | [] => s
  | w :: r => if s.ended then s else (s.word w).read r

/-- The stick in 16 words. -/
def stickOf (ws : List W32) : Stick := Stick.start.read ws

/-- Positions of a level: those that remain after `skip`, with the padding around them (R179). -/
def Level.positions (l : Level) : Nat := l.before + (l.count - l.skip) + l.after

/-- Tiles of a level (R179). -/
def Level.tiles (l : Level) : Nat :=
  match l.tile with
  | some t => (l.positions + t - 1) / t
  | none => 1

/-- Positions of a level inside one tile. -/
def Level.inner (l : Level) : Nat := l.tile.getD l.positions

/-- The loops of the walk, outermost first: tile loops before all others, each as its level, whether it is a tile loop, and
its length (R179). -/
def Stick.loops (s : Stick) : List (Nat × Bool × Nat) :=
  ((s.order.filter fun k => (s.level k).tile.isSome).map fun k => (k, true, (s.level k).tiles)) ++
    s.order.map fun k => (k, false, (s.level k).inner)

/-- Elements the walk yields. -/
def Stick.elements (s : Stick) : Nat := (s.loops.map fun l => l.2.2).foldl (· * ·) 1

/-- The counters of the loops at element e, in the order of the loops. -/
def loopDigits (loops : List (Nat × Bool × Nat)) (e : Nat) : List (Nat × Bool × Nat) :=
  match loops with
  | [] => []
  | (k, t, n) :: r =>
    let below := (r.map fun l => l.2.2).foldl (· * ·) 1
    (k, t, e / below % n) :: loopDigits r (e % below)

/-- The counter of a level's tile or inner loop among the digits. -/
def digitOf (ds : List (Nat × Bool × Nat)) (k : Nat) (tile : Bool) : Nat :=
  ((ds.find? fun d => decide (d.1 = k) && (d.2.1 == tile)).map fun d => d.2.2).getD 0

/-- The index on which a level stands at element e: none on a pad position or a partial-tile position (R179). -/
def Stick.index (s : Stick) (e k : Nat) : Option Nat :=
  let l := s.level k
  let ds := loopDigits s.loops e
  let p := digitOf ds k true * l.inner + digitOf ds k false
  if l.before ≤ p ∧ p < l.before + (l.count - l.skip) then some (l.skip + (p - l.before)) else none

/-- The indexes of the six levels at element e; none where the element is zero (R179). -/
def Stick.indexes (s : Stick) (e : Nat) : Option (List Nat) :=
  if (List.range 6).all fun k => (s.index e k).isSome then some ((List.range 6).map fun k => (s.index e k).getD 0) else none

/-- The source byte of an element that stands at byte b of its output (R179: `swap`). -/
def Stick.swapped (s : Stick) (b : Nat) : Nat :=
  match s.swap with
  | some z => b / z * z + (z - 1 - b % z)
  | none => b

/-- Bytes of the walk (R179). -/
def Stick.bytes (s : Stick) : Nat := s.emit.getD 1 * s.elements

/-- A level reads the index array. -/
def Stick.gathers (s : Stick) : Bool := s.levels.any fun l => l.gath

/-- The checks of R76 and R178, given flit 4. -/
def Stick.ok (s : Stick) (index : Nat) (imageBytes : Nat → Nat) : Bool :=
  !s.bad && s.ended &&
  (match s.emit with
   | none => false
   | some z => match s.swap with
     | none => true
     | some y => decide (y ≤ z) && decide (z % y = 0)) &&
  !(s.gathers && decide (index = 0)) &&
  match s.plane with
  | none => true
  | some q => decide (s.emit = some 1) && decide (s.bytes % imageBytes q = 0)

/-- Bit offsets, in the packed form of one tile, of the eight weights in byte o of its image (R152, R153). -/
def packedBits (Q o : Nat) : List Nat :=
  let q := o / 2048
  let k := o % 2048 / 16
  (List.range 8).map fun j => (128 * k + 8 * (o % 16) + j) * Q + q

/-- The bytes of the packed form that byte o of an image comes from (R152, R153). -/
def packedSources (Q o : Nat) : List Nat := if 2048 * Q ≤ o then [o] else (packedBits Q o).map fun b => b / 8

/-- Byte o of an image, from the bytes of its sources (R152, R153). -/
def imageByte (Q o : Nat) (bs : List Byte) : Byte :=
  if 2048 * Q ≤ o then bs.getD 0 0
  else
    let bit (j : Nat) : Nat := if (bs.getD j 0).getLsbD ((packedBits Q o).getD j 0 % 8) then 2 ^ j else 0
    BitVec.ofNat 8 ((List.range 8).map bit).sum

end Sys2Proof.Machine
end

