-- ==== Sys2Proof/Machine/Engine.lean ====
section
/-! DEFINITION. Engine operations as they run: admission and order (R173, R290), the checks before a byte moves, the copy
engine (R176, R177) and the compositor (R178, R179), and the final write (R80, R174). -/

namespace Sys2Proof.Machine

/-! ### Statuses (R80) -/

def stDone : BitVec 4 := 1
def stAccess : BitVec 4 := 2
def stXlate : BitVec 4 := 3
def stAlign : BitVec 4 := 4
def stIllegal : BitVec 4 := 5
def stLost : BitVec 4 := 6
def stCancelled : BitVec 4 := 7

/-- Flit k of an operation. -/
def EngineOp.flit (o : EngineOp) (k : Nat) : Nat := (o.flits.getD k 0).toNat

/-- The header of an operation. -/
def EngineOp.header (o : EngineOp) : Word := o.flits.getD 0 0

/-- An operation replaced. -/
def State.setOp (s : State) (k : Nat) (o : EngineOp) : State := { s with ops := aset s.ops k o }

/-- An operation as an agent. -/
def EngineOp.agent (o : EngineOp) : Agent :=
  { cls := if msgClass o.header = 0 then .copy else .engine, sheet := o.sheet, ctx := o.ctx, tenant := o.tenant, inst := o.inst,
    covered := some o.cut }

/-- Engines of a class on a die (R173). -/
def engineCount (cls : Nat) : Nat := if cls = 0 then 8 else 4

/-- The engine that serves the messages of an engine: itself, or the next of its class that is not disabled (R173, R328). -/
def State.servingFrom (s : State) (cls die idx fuel : Nat) : Nat :=
  match fuel with
  | 0 => idx
  | fuel + 1 =>
    if s.drover.disabledEngines.contains (cls, die, idx) then s.servingFrom cls die ((idx + 1) % engineCount cls) fuel else idx

/-- The engine that runs an operation. -/
def State.engineFor (s : State) (o : EngineOp) : Nat × Nat × Nat :=
  let c := msgClass o.header
  (c, o.die, s.servingFrom c o.die o.engine (engineCount c))

/-- The operations at the same engine. -/
def State.sameEngine (s : State) (o : EngineOp) : Assoc Nat EngineOp :=
  s.ops.filter fun p => decide (s.engineFor p.2 = s.engineFor o)

/-- The engine has a slot for one more operation of the tenant: 8, or 4 while another tenant has messages there (R173,
R290). -/
def State.slotRoom (s : State) (o : EngineOp) : Bool :=
  let l := s.sameEngine o
  let mine := l.countP fun p => p.2.arrived.isSome && decide (p.2.tenant = o.tenant)
  let others := l.any fun p => decide (p.2.tenant ≠ o.tenant)
  decide ((l.countP fun p => p.2.arrived.isSome) < 8) && (!others || decide (mine < 4))

/-- Tenants in rising order from the one after t on, and then from the lowest. -/
def tenantsFrom (t : Nat) : List Nat := (List.range 128).map fun k => (t + 1 + k) % 128

/-- The message at the head of a tenant's inbox of an engine, where there is a slot for it (R290). -/
def State.inboxHead (s : State) (e : Nat × Nat × Nat) (tenant : Nat) : Option (Nat × EngineOp) :=
  (s.ops.find? fun p => decide (s.engineFor p.2 = e) && decide (p.2.tenant = tenant) && p.2.arrived.isNone).filter fun p => s.slotRoom p.2

/-- An engine admits a message, round robin over the tenants that have one waiting: it has arrived (R173, R290). -/
def State.admitNext (s : State) (e : Nat × Nat × Nat) : State :=
  match (tenantsFrom (agetD s.drover.served e 0)).findSome? (s.inboxHead e) with
  | none => s
  | some (k, o) =>
    let r := s.fresh
    let s := r.2.setOp k { o with arrived := some r.1 }
    { s with drover := { s.drover with served := aset s.drover.served e o.tenant } }

/-- The engines admit what waits in their inboxes, as far as there are slots (R290). -/
def State.admitMessages (s : State) : State :=
  (s.ops.filter fun p => p.2.arrived.isNone).foldl (fun s p => s.admitNext (s.engineFor p.2)) s

/-- The instance of an operation holds its engine operations: it is stopped or being restored (R257, R315). -/
def State.opHeld (s : State) (o : EngineOp) : Bool :=
  match aget? s.insts o.inst with
  | some i => i.stalled || i.restoring
  | none => false

/-- The operation waits for a commit before it starts or goes on (R228). -/
def EngineOp.awaitsCommit (o : EngineOp) : Bool := o.afterCommit && !o.released

/-- Under ORD it waits for its thread's operation before it on the engine (R77). -/
def State.ordWaits (s : State) (o : EngineOp) : Bool := msgOrd o.header && (o.prev.map fun p => (aget? s.ops p).isSome).getD false

/-- An operation that has arrived keeps no later one from its start (R173): it has started, or it waits for a commit, or its instance
holds it (DEDUCED, log entry 79). -/
def State.letsPass (s : State) (o : EngineOp) : Bool := o.started || o.awaitsCommit || s.opHeld o

/-- The operation may start (R77, R173, R228, R290): it has arrived, those that arrived before it have started, and it waits neither for
the operation before it nor for a commit. -/
def State.mayStart (s : State) (k : Nat) (o : EngineOp) : Bool :=
  match o.arrived with
  | none => false
  | some a =>
    !o.started && !(s.ordWaits o) && !o.awaitsCommit &&
    (s.sameEngine o).all fun p => decide (p.1 = k) || s.letsPass p.2 || decide (a < p.2.arrived.getD (a + 1))

/-! ### Reading and writing -/

/-- What an engine access comes to: a state and a value, or what stopped it, where and at what kind of access. -/
abbrev Got (α : Type) := State × Except (Ans × Nat × AccessKind) α

/-- The value gone on with. -/
def Got.andThen {α β : Type} (r : Got α) (k : State → α → Got β) : Got β :=
  match r with
  | (s, .ok a) => k s a
  | (s, .error e) => (s, .error e)

/-- One byte read at each of several addresses, in order. -/
def State.fetchBytes (s : State) (o : EngineOp) (as : List Nat) : Got (List Byte) :=
  match as with
  | [] => (s, .ok [])
  | a :: r =>
    match s.resolve o.agent a 1 .read with
    | (s, .ok loc _) => Got.andThen (s.fetchBytes o r) fun s bs => (s, .ok (s.loadBytes o.inst loc 1 ++ bs))
    | (s, e) => (s, .error (e, a, .read))

/-- The words of a stick in its 64 bytes (R178). -/
def stickWords (bs : List Byte) : List W32 := (List.range 16).map fun i => BitVec.ofNat 32 (leNat ((bs.drop (4 * i)).take 4))

/-- A run of bytes read. -/
def State.fetchRun (s : State) (o : EngineOp) (a n : Nat) : Got (List Byte) :=
  s.fetchBytes o ((List.range n).map fun k => (a + k) % 2 ^ 64)

/-- Bytes that an operation has written without a gap up to the next one: of `ce.scatter`, those of its element (R177, R180). -/
def EngineOp.run (o : EngineOp) : Nat :=
  match msgClass o.header, msgOp o.header with
  | 0, 5 => o.moved % bitsOf (o.flit 4) 32 16
  | 2, _ => o.progress
  | _, _ => o.moved

/-- The write of an operation that is not held has reached the end of a line of which it has given all bytes: the line's loss at rest
is over (R326; DEDUCED, log entry 77). -/
def State.endLine (s : State) (o : EngineOp) (loc n : Nat) : State :=
  if (o.afterCommit || (aget? s.insts o.inst).isNone) && decide ((loc + n) % 256 = 0) && decide (256 ≤ o.run + n) then
    { s with package := s.package.rewritten fun l => decide (256 * l + 256 = loc + n) }
  else s

/-- Bytes written at an address aligned to their number; held unless the operation started after a commit (R225, R228). A write that
comes to an SO page of which nothing was known before is not made: the operation waits for the commit first (log entry 17). -/
def State.putBytes (s : State) (o : EngineOp) (a : Nat) (bs : List Byte) : Got Unit :=
  match s.resolve o.agent a bs.length .write with
  | (s, .ok loc ord) =>
    if ord = 0#2 ∧ o.inst ≠ 0 ∧ o.afterCommit = false then (s, .error (.ok loc ord, a, .write)) else
    ((if o.afterCommit then s.writeThrough o.inst loc bs else s.storeBytes o.agent loc bs).endLine o loc bs.length, .ok ())
  | (s, e) => (s, .error (e, a, .write))

/-- The 32-bit word of an index array (R177, R179). -/
def State.fetchIndex (s : State) (o : EngineOp) (base i : Nat) : Got Nat :=
  Got.andThen (s.fetchRun o (base + 4 * i) 4) fun s bs => (s, .ok (leNat bs))

/-! ### Checks before a byte moves (R79, R176, R178) -/

/-- Two ranges of an operation overlap as decoded (R176). -/
def EngineOp.overlap (o : EngineOp) (a alen b blen : Nat) : Bool :=
  decide (0 < alen) && decide (0 < blen) &&
  match decodeAddr o.sheet true a, decodeAddr o.sheet true b with
  | some x, some y => decide (x.loc < y.loc + blen) && decide (y.loc < x.loc + alen)
  | _, _ => false

/-- A range runs past the level it lies in. -/
def EngineOp.pastLevel (o : EngineOp) (a len : Nat) : Bool :=
  match decodeAddr o.sheet true a with
  | some r => decide (r.room < len)
  | none => false

/-- An 8-bit floating-point format code (R177). -/
def isE8 (code : Nat) : Bool := decide (code = 4) || decide (code = 5)

/-- A format code that `ce.copyc` refuses beside an 8-bit float (R176). -/
def noE8 (code : Nat) : Bool := decide (code = 0) || decide (code = 1) || decide (code = 7)

/-- The status with which an operation of the copy engine ends before a byte moves (R176). -/
def EngineOp.copyCheck (o : EngineOp) : Option (BitVec 4) :=
  let f := o.flit
  let n := bitsOf (f 3) 0 32
  match msgOp o.header with
  | 0 =>
    if bitsOf (f 3) 32 32 ≠ 0 ∨ n = 0 ∨ o.overlap (f 1) n (f 2) n = true then some stIllegal else none
  | 1 =>
    let x := bitsOf (f 4) 0 3
    let y := bitsOf (f 4) 8 3
    if bitsOf (f 3) 32 32 ≠ 0 ∨ n = 0 ∨ bitsOf (f 4) 3 5 ≠ 0 ∨ bitsOf (f 4) 11 5 ≠ 0 ∨ bitsOf (f 4) 17 47 ≠ 0 ∨
        o.overlap (f 1) (n * elemBytes x) (f 2) (n * elemBytes y) = true ∨ (isE8 x && noE8 y) = true ∨
        (isE8 y && noE8 x) = true then some stIllegal
    else if f 1 % elemBytes x ≠ 0 ∨ f 2 % elemBytes y ≠ 0 then some stAlign else none
  | 2 =>
    let n := bitsOf (f 2) 0 32
    if bitsOf (f 2) 32 32 ≠ 0 ∨ n = 0 then some stIllegal
    else if n % 8 ≠ 0 ∨ f 1 % 8 ≠ 0 then some stAlign else none
  | 3 =>
    let len := (bitsOf (f 3) 8 8 + 1) * imageBytes (bitsOf (f 3) 0 2)
    if bitsOf (f 3) 2 6 ≠ 0 ∨ bitsOf (f 3) 16 48 ≠ 0 ∨ o.pastLevel (f 1) len = true ∨ o.pastLevel (f 2) len = true then
      some stIllegal
    else if f 2 % 256 ≠ 0 then some stAlign else none
  | _ =>
    let e := bitsOf (f 4) 32 16
    if bitsOf (f 4) 48 16 ≠ 0 ∨ bitsOf (f 4) 0 32 = 0 ∨ e = 0 ∨ 4096 < e then some stIllegal else none

/-- The status with which an operation of the link engine ends before anything is sent (R180). -/
def EngineOp.linkCheck (o : EngineOp) : Option (BitVec 4) :=
  let f := o.flit
  match msgOp o.header with
  | 0 | 1 => if bitsOf (f 3) 48 16 ≠ 0 ∨ bitsOf (f 3) 0 32 = 0 then some stIllegal else none
  | 2 =>
    let size := if bitsOf (f 3) 3 1 = 1 then 8 else 4
    if 6 ≤ bitsOf (f 3) 0 3 ∨ bitsOf (f 3) 4 28 ≠ 0 ∨ bitsOf (f 3) 48 16 ≠ 0 then some stIllegal
    else if f 1 % size ≠ 0 then some stAlign else none
  | _ =>
    if bitsOf (f 2) 48 16 ≠ 0 then some stIllegal else if f 1 % 8 ≠ 0 then some stAlign else none

/-- The status with which the checks made at the engine end an operation (R79, R176, R180). -/
def EngineOp.check (o : EngineOp) : Option (BitVec 4) :=
  if !(msgOk o.flits) then some stIllegal
  else match msgClass o.header with
    | 0 => o.copyCheck
    | 2 => o.linkCheck
    | _ => none

/-! ### Units -/

/-- How an operation goes on when the first m bytes of its stage are written: `unit` bytes make one unit of its count; an index word is
done with at the end of its element. -/
def EngineOp.wrote (o : EngineOp) (m unit : Nat) : EngineOp :=
  let n := o.moved + m
  { o with moved := n, progress := n / unit, stage := o.stage.drop m, index := if n % unit = 0 then none else o.index }

/-- What stops an operation ends it with a status, stalls it, or makes it wait, for a commit where it has come to an SO page (R174, R228,
R307, R326). -/
def State.stopOp (s : State) (k : Nat) (o : EngineOp) (e : Ans) (addr : Nat) (kind : AccessKind) : State :=
  match e with
  | .miss =>
    let p := s.postStall o.agent (.engine k) kind addr 0 0 0 0
    p.2.setOp k { o with stall := some p.1 }
  | .xlate => s.setOp k { o with status := some stXlate }
  | .access => s.setOp k { o with status := some stAccess }
  | .lost => s.setOp k { o with status := some stLost }
  | .ok _ _ => s.setOp k { o with afterCommit := true }
  | .range | .full | .line => s.setOp k o

/-- A byte has been moved, which is progress of the instance (R255). -/
def State.opProgress (s : State) (o : EngineOp) : State := s.progress o.inst

/-- Bytes from an address to the end of its aligned 8-byte unit, at most n (R207). -/
def unitRoom (a n : Nat) : Nat := min (8 - a % 8) n

/-- The next bytes of the stage written at an address, up to the end of the aligned unit there (R207). -/
def State.writeStage (s : State) (o : EngineOp) (a unit : Nat) : Got EngineOp :=
  let m := unitRoom a o.stage.length
  Got.andThen (s.putBytes o a (o.stage.take m)) fun s _ => (s, .ok (o.wrote m unit))

/-- The operation as it stood, with the state as it was, when the last unit was whole, stopped by what stops the unit in hand: a unit is
written whole or not at all (R207). -/
def State.stopWhole (s : State) (k : Nat) (o : EngineOp) (old : State × EngineOp) (e : Ans) (addr : Nat) (kind : AccessKind) : State :=
  if o.moved = old.2.moved then s.stopOp k o e addr kind
  else (old.1.resolve old.2.agent addr 1 kind).1.stopOp k old.2 e addr kind

/-- An operation moved on from its last whole unit, step by step, until `parts` aligned units of its destination are written; `total` is
the length of its output, and `ends` says whether a step has ended a unit. Each unit is written whole (R207). At the end the status is
DONE (R174). -/
def State.unitsFrom (s : State) (k : Nat) (o : EngineOp) (old : State × EngineOp) (total parts fuel : Nat)
    (ends : EngineOp → EngineOp → Bool) (step : State → EngineOp → Got EngineOp) : State :=
  if total ≤ o.moved then s.setOp k { o with status := some stDone }
  else if parts = 0 then s.setOp k o
  else match fuel with
    | 0 => if o.moved = old.2.moved then s.setOp k o else old.1.setOp k old.2
    | fuel + 1 =>
      match step s o with
      | (s, .error (e, a, kind)) => s.stopWhole k o old e a kind
      | (s, .ok o') =>
        if o'.moved = o.moved then s.unitsFrom k o' old total parts fuel ends step
        else
          let s := s.opProgress o
          if ends o o' then s.unitsFrom k o' (s, o') total (parts - 1) fuel ends step
          else s.unitsFrom k o' old total parts fuel ends step

/-- An operation moved on by some units of its destination (R174, R207). -/
def State.runUnits (s : State) (k : Nat) (o : EngineOp) (total parts fuel : Nat) (ends : EngineOp → EngineOp → Bool)
    (step : State → EngineOp → Got EngineOp) : State :=
  s.unitsFrom k o (s, o) total parts fuel ends step

/-- A step has ended an aligned unit of a contiguous destination (R207). -/
def endsUnit (dst : Nat) (_ o' : EngineOp) : Bool := decide ((dst + o'.moved) % 8 = 0)

/-- An operation whose destination only its data say writes an SO page: an element of `ce.scatter`, or what the walk of `co.compose`
yields (R228), or whose pages were not all mapped when it was sent. It is judged as the tables, the index array and the stick stand when
it is first to start (log entry 17). -/
def State.reachesSo (s : State) (o : EngineOp) : Bool :=
  if !(msgOk o.flits) || decide (o.inst = 0) then false
  else if s.waitsForCommit o.tenant o.flits then true
  else match msgClass o.header, msgOp o.header with
    | 0, 5 =>
      let e := bitsOf (o.flit 4) 32 16
      (List.range (bitsOf (o.flit 4) 0 32)).any fun i => match (s.fetchIndex o (o.flit 1) i).2 with
        | .ok x => s.anySo o.tenant (o.flit 3 + x * e) (((o.flit 3 + x * e) % 65536 + e + 65535) / 65536)
        | .error _ => false
    | 1, 0 => match (s.fetchRun o (o.flit 3) 64).2 with
      | .ok bs =>
        let n := (stickOf (stickWords bs)).bytes
        s.anySo o.tenant (o.flit 2) ((o.flit 2 % 65536 + n + 65535) / 65536)
      | .error _ => false
    | _, _ => false

/-- Under ORD it comes behind an operation that waits for a commit, and waits for that with it (R77, R228; log entry 17). -/
def State.behindCommit (s : State) (o : EngineOp) : Bool :=
  msgOrd o.header && ((o.prev.bind (aget? s.ops)).map EngineOp.awaitsCommit).getD false

/-- The operation is to wait for a commit, as is seen now that it is to start (R228). -/
def State.mustAwait (s : State) (o : EngineOp) : Bool := !o.afterCommit && (s.reachesSo o || s.behindCommit o)

/-- An operation of a class and number started, if it may start; the checks at the engine may end it there (R79, R173). -/
def State.startOp (s : State) (k cls op : Nat) : State × Option EngineOp :=
  match aget? s.ops k with
  | none => (s, none)
  | some o =>
    if msgClass o.header ≠ cls ∨ msgOp o.header ≠ op ∨ o.status.isSome = true ∨ o.stall.isSome = true ∨ s.opHeld o = true then (s, none)
    else if o.started then if o.awaitsCommit then (s, none) else (s, some o)
    else if s.mustAwait o then (s.setOp k { o with afterCommit := true }, none)
    else if !(s.mayStart k o) then (s, none)
    else
      let o := { o with started := true }
      match o.check with
      | some st => (s.setOp k { o with status := some st }, none)
      | none => (s.setOp k o, some o)

/-- A woken operation whose page was declared invalid ends with XLATE, another runs its units (R174, R307). -/
def State.runOp (s : State) (k cls op units : Nat) (run : State → EngineOp → Nat → State) : State :=
  match s.startOp k cls op with
  | (s, none) => s
  | (s, some o) => if o.invalid then s.setOp k { o with status := some stXlate, invalid := false } else run s o units

/-! ### Copy engine (R177) -/

/-- Steps of an operation for some aligned units: each takes a few reads and writes. -/
def stepFuel (units : Nat) : Nat := 40 * units + 40

/-- What an operation reads next of a contiguous source: the aligned unit at byte `off` of `len` bytes at `src` (R207). -/
def State.fetchUnit (s : State) (o : EngineOp) (src off len : Nat) : Got (List Byte) :=
  s.fetchRun o (src + off) (unitRoom (src + off) (len - off))

/-- A step of a contiguous copy: the next unit of the source is read, or what has been read is written. -/
def State.copyStep (s : State) (o : EngineOp) (total : Nat) : Got EngineOp :=
  if o.stage.isEmpty then
    Got.andThen (s.fetchUnit o (o.flit 1) o.moved total) fun s bs => (s, .ok { o with stage := bs })
  else s.writeStage o (o.flit 2 + o.moved) 1

/-- `ce.copy`: bytes from src to dst (R177). -/
def execCeCopy (k units : Nat) (s : State) : Result :=
  .next (s.runOp k 0 0 units fun s o units =>
    let total := bitsOf (o.flit 3) 0 32
    s.runUnits k o total units (stepFuel units) (endsUnit (o.flit 2)) fun s o => s.copyStep o total)

/-- Elements of a size in a run of bytes, as numbers. -/
def elementsOf (size : Nat) (bs : List Byte) : List Nat :=
  (List.range (bs.length / size)).map fun i => leNat ((bs.drop (size * i)).take size)

/-- `ce.copyc`: elements converted by the rules of `cvt` (R147, R177). -/
def execCeCopyc (k units : Nat) (s : State) : Result :=
  .next (s.runOp k 0 1 units fun s o units =>
    let x := BitVec.ofNat 3 (bitsOf (o.flit 4) 0 3)
    let y := BitVec.ofNat 3 (bitsOf (o.flit 4) 8 3)
    let sat := decide (bitsOf (o.flit 4) 16 1 = 1)
    let n := bitsOf (o.flit 3) 0 32
    s.runUnits k o (n * elemBytes y.toNat) units (stepFuel units) (endsUnit (o.flit 2)) fun s o =>
      if o.stage.isEmpty then
        Got.andThen (s.fetchUnit o (o.flit 1) (o.progress * elemBytes x.toNat) (n * elemBytes x.toNat)) fun s bs =>
          let out := (elementsOf (elemBytes x.toNat) bs).map fun v => natBytes (elemBytes y.toNat) (convertLane x y sat v)
          (s, .ok { o with stage := out.flatten })
      else s.writeStage o (o.flit 2 + o.moved) (elemBytes y.toNat))

/-- `ce.fill`: the 64-bit pattern over and over (R177). -/
def execCeFill (k units : Nat) (s : State) : Result :=
  .next (s.runOp k 0 2 units fun s o units =>
    s.runUnits k o (bitsOf (o.flit 2) 0 32) units (stepFuel units) (endsUnit (o.flit 1)) fun s o =>
      if o.stage.isEmpty then (s, .ok { o with stage := natBytes 8 (o.flit 3) })
      else s.writeStage o (o.flit 1 + o.moved) 1)

/-- A step of an operation that makes plane images: its stage is filled with the packed form of a tile, piece by piece, and then the
image is written from it (R152, R153). -/
def State.planeStep (s : State) (o : EngineOp) (q dst : Nat) (next : State → EngineOp → Got (List Byte)) : Got EngineOp :=
  let size := imageBytes q
  if o.stage.length < size then Got.andThen (next s o) fun s bs => (s, .ok { o with stage := o.stage ++ bs })
  else
    let off := o.moved % size
    let m := unitRoom (dst + o.moved) (size - off)
    let image := (List.range m).map fun j =>
      imageByte (planesOf q) (off + j) ((packedSources (planesOf q) (off + j)).map fun b => o.stage.getD b 0)
    Got.andThen (s.putBytes o (dst + o.moved) image) fun s _ =>
      let o' := o.wrote m 1
      (s, .ok { o' with stage := if off + m = size then [] else o.stage })

/-- `ce.plane`: tiles from the packed form to plane images; a tile is read before its image is written (R177). -/
def execCePlane (k units : Nat) (s : State) : Result :=
  .next (s.runOp k 0 3 units fun s o units =>
    let q := bitsOf (o.flit 3) 0 2
    let size := imageBytes q
    s.runUnits k o ((bitsOf (o.flit 3) 8 8 + 1) * size) units (units + size) (endsUnit (o.flit 2)) fun s o =>
      s.planeStep o q (o.flit 2) fun s o => s.fetchUnit o (o.flit 1 + o.moved / size * size) o.stage.length size)

/-- A step of an element-by-element copy: the element's index word is read, then its next unit, or what has been read is written
(R177). -/
def State.indexedStep (s : State) (o : EngineOp) (e : Nat) (src dst : Nat → Nat) : Got EngineOp :=
  match o.index with
  | none => Got.andThen (s.fetchIndex o (o.flit 1) o.progress) fun s i => (s, .ok { o with index := some i })
  | some i =>
    if o.stage.isEmpty then
      Got.andThen (s.fetchUnit o (src i) (o.moved % e) e) fun s bs => (s, .ok { o with stage := bs })
    else s.writeStage o (dst i + o.moved % e) e

/-- `ce.gather`: dst[i] := src[idx[i]], element by element (R177). -/
def execCeGather (k units : Nat) (s : State) : Result :=
  .next (s.runOp k 0 4 units fun s o units =>
    let e := bitsOf (o.flit 4) 32 16
    s.runUnits k o (bitsOf (o.flit 4) 0 32 * e) units (stepFuel units) (endsUnit (o.flit 3)) fun s o =>
      s.indexedStep o e (fun i => o.flit 2 + i * e) (fun _ => o.flit 3 + o.moved / e * e))

/-- `ce.scatter`: dst[idx[i]] := src[i], element by element (R177). -/
def execCeScatter (k units : Nat) (s : State) : Result :=
  .next (s.runOp k 0 5 units fun s o units =>
    let e := bitsOf (o.flit 4) 32 16
    s.runUnits k o (bitsOf (o.flit 4) 0 32 * e) units (stepFuel units)
      (fun o o' => decide (o'.index ≠ o.index) || decide ((o'.flit 3 + (o'.index.getD 0) * e + o'.moved % e) % 8 = 0)) fun s o =>
      s.indexedStep o e (fun _ => o.flit 2 + o.moved / e * e) (fun i => o.flit 3 + i * e))

/-! ### Compositor (R178, R179) -/

/-- The offsets of several levels added up; a `gath` level reads its index word (R179). -/
def State.offsets (s : State) (o : EngineOp) (st : Stick) (is : List Nat) (k : Nat) : Got Int :=
  match is with
  | [] => (s, .ok 0)
  | i :: r =>
    let l := st.level k
    let first : Got Nat := if l.gath then s.fetchIndex o (o.flit 4) i else (s, .ok i)
    Got.andThen first fun s x => Got.andThen (s.offsets o st r (k + 1)) fun s y => (s, .ok ((x : Int) * l.stride + y))

/-- Element j of what the walk yields, read whole: its bytes in the order of `swap`, zeros where nothing is read (R179). -/
def State.walkElement (s : State) (o : EngineOp) (st : Stick) (j : Nat) : Got (List Byte) :=
  let z := st.emit.getD 1
  match st.indexes j with
  | none => (s, .ok (List.replicate z 0))
  | some is =>
    Got.andThen (s.offsets o st is 0) fun s off =>
      let a : Int := (o.flit 1 : Int) + (z : Int) * off
      Got.andThen (s.fetchRun o (a % 2 ^ 64).toNat z) fun s bs => (s, .ok ((List.range z).map fun b => bs.getD (st.swapped b) 0))

/-- A step of a compositor: of the walk an element is read or what has been read is written; with `plane`, of the images in its place
(R179). -/
def State.composeStep (s : State) (o : EngineOp) (st : Stick) : Got EngineOp :=
  match st.plane with
  | some q => s.planeStep o q (o.flit 2) fun s o => s.walkElement o st (o.moved / imageBytes q * imageBytes q + o.stage.length)
  | none =>
    if o.stage.isEmpty then
      Got.andThen (s.walkElement o st (o.moved / st.emit.getD 1)) fun s bs => (s, .ok { o with stage := bs })
    else s.writeStage o (o.flit 2 + o.moved) 1

/-- The stick read, once, before a byte moves (R178). -/
def State.readStick (s : State) (k : Nat) (o : EngineOp) : State :=
  if o.flit 3 % 4 ≠ 0 then s.setOp k { o with status := some stAlign }
  else match s.fetchRun o (o.flit 3) 64 with
    | (s, .error (e, a, kind)) => s.stopOp k o e a kind
    | (s, .ok bs) =>
      let ws := stickWords bs
      if (stickOf ws).ok (o.flit 4) imageBytes then s.setOp k { o with stick := ws }
      else s.setOp k { o with status := some stIllegal }

/-- `co.compose`: the stick is read and checked, then the output is written in ascending order (R178, R179). -/
def execCoCompose (k units : Nat) (s : State) : Result :=
  .next (s.runOp k 1 0 units fun s o units =>
    if o.stick.isEmpty then s.readStick k o
    else
      let st := stickOf o.stick
      let fuel := stepFuel units + (st.plane.map imageBytes).getD 0
      s.runUnits k o st.bytes units fuel (endsUnit (o.flit 2)) fun s o => s.composeStep o st)

/-! ### The final write (R80, R174) -/

/-- The engine thread joins: its ranges are released, event 0 of the issuing thread is signalled under EVT (R77, R175). -/
def State.joinOp (s : State) (k : Nat) (o : EngineOp) : State :=
  let s := s.dropOps [k]
  if msgEvt o.header then s.signal o.sheet o.ctx 1 else s

/-- What the operation writes last: the old value of an atomic beside the completion object, then the completion word
(R80, R180). -/
def State.finalWrite (s : State) (o : EngineOp) (st : BitVec 4) : Got Unit :=
  let reply := (msgReply o.header).toNat
  let word := completionWord st.toNat (msgClass o.header) (msgOp o.header) o.progress
  let old : Got Unit :=
    if msgClass o.header = 2 ∧ msgOp o.header = 2 ∧ st = stDone then s.putBytes o (reply + 8) (natBytes 8 o.moved)
    else (s, .ok ())
  Got.andThen old fun s _ => s.putBytes o reply (wordBytes 8 word)

/-- The status an operation ends with: the one its run decided, or ILLEGAL where its op is unassigned and it may start
(R79). -/
def State.endStatus (s : State) (k : Nat) (o : EngineOp) : Option (BitVec 4) :=
  if o.status.isNone && (flitCount (msgClass o.header) (msgOp o.header)).isNone && s.mayStart k o then some stIllegal
  else o.status

/-- The engine's single final write, once the status is decided; a reply page that has gone leaves nothing to write (R174,
R175). -/
def execEngineCompletion (k : Nat) (s : State) : Result :=
  .next (match aget? s.ops k with
    | none => s
    | some o =>
      match s.endStatus k o with
      | none => s
      | some st =>
        if o.stall.isSome || s.opHeld o || o.awaitsCommit then s
        else if o.invalid then s.joinOp k o
        else match s.finalWrite o st with
          | (s, .ok ()) => s.joinOp k o
          | (s, .error (.miss, a, kind)) => s.stopOp k o .miss a kind
          | (s, .error (.full, _, _)) | (s, .error (.line, _, _)) => s
          | (s, .error (.ok loc ord, a, kind)) => s.stopOp k o (.ok loc ord) a kind
          | (s, .error _) => s.joinOp k o)

end Sys2Proof.Machine
end

