-- ==== Sys2Proof/Machine/Clock.lean ====
section
/-! DEFINITION. Time: what passes with it (R8, R37, R285), the STALL watchdog's count (R255, R256), and the conditions
under which threads, nodes and streams of an instance may move at all (R118, R242, R257, R305, R315). -/

namespace Sys2Proof.Machine

/-! ### Who may move -/

/-- The instance lets nothing of it move on a sheet but its base thread: frozen, not yet thawed there, or restoring
(R305, R315). -/
def Inst.holds (i : Inst) (sheet : Nat) : Bool := i.frozen || i.restoring || i.thawing.contains sheet

/-- The thread is its instance's base thread and may run its handler: a report is open, or none is queued and the base
thread has closed the last one (R305). -/
def Inst.baseMay (i : Inst) (sheet : Nat) : Bool :=
  decide (i.base = sheet) && !i.restoring && (i.openReport.isSome || i.reports.isEmpty)

/-- The base thread has a report to take before its next instruction (R305). -/
def State.mustDeliver (s : State) (sheet ctx : Nat) : Option Nat :=
  match s.instAt sheet ctx with
  | some (id, i) => if i.base = sheet ∧ i.openReport = none ∧ i.reports ≠ [] ∧ i.restoring = false then some id else none
  | none => none

/-- A report abandons the wait (R305): every wait but that of an access stalled in place (log entry 14). -/
def Wait.abandoned : Wait → Bool
  | .access _ (.miss _) => false
  | _ => true

/-- The thread waits for nothing that a report would not end. -/
def State.waitsForNothing (s : State) (sheet ctx : Nat) : Bool :=
  match (s.thread sheet ctx).wait with
  | none => true
  | some w => w.abandoned && (s.mustDeliver sheet ctx).isSome

/-- The thread runs and its instance and its clock let it move (R242, R285, R305, R315). -/
def State.threadMay (s : State) (sheet ctx : Nat) : Bool :=
  decide ((s.thread sheet ctx).run = .running) && !(s.stopped sheet) &&
  match s.instAt sheet ctx with
  | none => true
  | some (_, i) => !(i.holds sheet) || i.baseMay sheet

/-- The thread can issue: it may move, waits for nothing, and has a unit in hand (R84, R242, R305). -/
def State.canIssue (s : State) (sheet ctx : Nat) : Bool :=
  s.threadMay sheet ctx && s.waitsForNothing sheet ctx && decide (0 < (s.sheet sheet).units.get ctx)

/-- A handler invocation of the thread can start: it waits in `wfi` and a queue it has bound holds an entry (R108, R254). -/
def State.canInvoke (s : State) (sheet ctx : Nat) : Bool :=
  s.threadMay sheet ctx && decide ((s.thread sheet ctx).wait = some .wfi) && (s.boundEntry sheet ctx).isSome &&
    decide (0 < (s.sheet sheet).units.get ctx)

/-- The thread has an issue opportunity: for an instruction or for the start of an invocation (R246, R254). -/
def State.mayMove (s : State) (sheet ctx : Nat) : Bool := s.canIssue sheet ctx || s.canInvoke sheet ctx

/-- The highest rank among the threads of a sheet that can issue (R246). -/
def State.bestRank (s : State) (sheet : Nat) : Nat :=
  (((List.range 4).filter fun c => s.mayMove sheet c).map fun c => ((s.sheet sheet).rank.get c).toNat).foldl max 0

/-- The context of a rank that issued last on a sheet (R246). -/
def Sheet.lastOf (sh : Sheet) (rank : BitVec 16) : Option Nat := sh.issued.find? fun c => decide (sh.rank.get c = rank)

/-- The thread the sequencer issues for (R246): the highest rank; among equals, the turn of the last one while it has
instructions left of 16, then the next in context order. -/
def State.chooseThread (s : State) (sheet : Nat) : Option Nat :=
  let sh := s.sheet sheet
  let best := s.bestRank sheet
  let may (c : Nat) : Bool := s.mayMove sheet c && decide ((sh.rank.get c).toNat = best)
  match sh.lastOf (BitVec.ofNat 16 best) with
  | none => (List.range 4).find? may
  | some l =>
    if may l && decide (sh.turn.get l < 16) then some l
    else ((List.range 4).map fun k => (l + 1 + k) % 4).find? may

/-- A turn counts one more instruction of a context: its own goes on where it was the last of its rank to issue (R246). -/
def Sheet.countTurn (sh : Sheet) (ctx : Nat) : Sheet :=
  let n := if sh.lastOf (sh.rank.get ctx) = some ctx ∧ sh.turn.get ctx < 16 then sh.turn.get ctx + 1 else 1
  { sh with issued := ctx :: sh.issued.filter fun c => decide (c ≠ ctx), turn := sh.turn.set ctx n }

/-! ### The watchdog (R255, R256) -/

/-- The tokens a node holds for a context, parameter tokens excluded. -/
def NodeCtx.tokens (c : NodeCtx) : Nat :=
  ((List.range 4).map fun k => (c.queues.get k).length + ((c.inject.get k).countP fun x => x.2.2.isToken)).sum +
  (c.rings.map fun r => r.count).sum

/-- The tokens an instance holds in its chase (R255, R257). -/
def State.heldTokens (s : State) (i : Inst) : Nat :=
  ((s.nodes.filter fun p => i.sheets.contains p.1.sheet).map fun p => (p.2.ctxs.get i.ctx).tokens).sum +
  ((s.tiles.filter fun p => i.sheets.contains p.1.1).map fun p =>
    p.2.store.countP fun e => decide (e.qt.tok.ctx.toNat = i.ctx)).sum +
  (i.edges.map fun p => (p.2.items.countP Item.isToken) + (p.2.next.countP Item.isToken)).sum +
  ((s.sheets.filter fun p => i.sheets.contains p.1).map fun p =>
    ((p.2.wide.filter fun w => decide (w.1.2 = i.ctx)).map fun w => w.2.countP Item.isToken).sum).sum +
  (i.forme.actors.map fun p => p.2.outs.countP fun o => o.2.isOut).sum

/-- A thread's wait is pending work (R255). -/
def Thread.pending (t : Thread) : Bool :=
  match t.wait with
  | some (.await _ _) | some (.qpop _ _) | some (.bar _) | some (.evwait _ _) => true
  | some .wfi => t.binds.isEmpty && decide (t.events = 0)
  | _ => false

/-- The instance has pending work (R255); an entry whose handler ended without a pop is some (R254; DEDUCED, log entry 126). -/
def State.pendingWork (s : State) (id : Nat) (i : Inst) : Bool :=
  decide (0 < s.heldTokens i) ||
  (s.streams.any fun p => decide (p.2.inst = id) && (decide (p.2.state = .held) || decide (p.2.state = .live))) ||
  i.sheets.any fun sh => (s.thread sh i.ctx).pending || ((s.thread sh i.ctx).barren && (s.boundEntry sh i.ctx).isSome)

/-- The matching store holds a token of a context for a node (R32). -/
def State.storeHolds (s : State) (n : NodeId) (ctx : Nat) : Bool :=
  (s.tile n.sheet n.tile).store.any fun e => decide (e.node = n) && decide (e.qt.tok.ctx.toNat = ctx)

/-- A node that holds work of the instance runs a firing of a context of equal or higher rank (R256). -/
def State.busyNode (s : State) (i : Inst) : Bool :=
  s.nodes.any fun p => i.sheets.contains p.1.sheet &&
    (match p.2.running with
     | none => false
     | some f => (decide (0 < (p.2.ctxs.get i.ctx).tokens) || s.storeHolds p.1 i.ctx || decide (f.ctx = i.ctx)) &&
         decide (i.forme.rank.toNat ≤ ((s.sheet p.1.sheet).rank.get f.ctx).toNat))

/-- A thread or firing of the instance waits for a proof-buffer commit (R256). -/
def State.waitsCommit (s : State) (i : Inst) : Bool :=
  (i.sheets.any fun sh => match (s.thread sh i.ctx).wait with
    | some (.publish _ _) => true
    | some (.access _ .proofFull) => true
    | some (.access _ .heldLine) => true
    | _ => false) ||
  s.nodes.any fun p => i.sheets.contains p.1.sheet &&
    (match p.2.running with
     | some f => decide (f.ctx = i.ctx) && (decide (f.wait = .proofFull) || decide (f.wait = .publish))
     | none => false)

/-- Something excuses the instance from the watchdog (R256, R287, R305). -/
def State.excused (s : State) (id : Nat) (i : Inst) : Bool :=
  i.frozen || i.restoring || s.busyNode i ||
  (s.drover.tags.any fun p => p.2.who.isOf s id i.ctx i.sheets) ||
  (s.ops.any fun p => decide (p.2.inst = id) && p.2.stall.isSome) ||
  ((aget? s.slices i.slice).map fun x => x.heldForBudget).getD false ||
  s.waitsCommit i ||
  i.bulkheads.any fun b => decide ((s.bulkhead b).tag.toNat ≠ i.tenant)

/-- An edge ends at an input port of a node. -/
def Inst.endsAt (i : Inst) (e : Edge) (n : NodeId) (p : Nat) : Bool :=
  match e.dst with
  | .actor b q => decide (q = p) && ((aget? i.forme.actors b).map fun x => decide (x.members.headD x.home = n)).getD false
  | .wide _ _ => false

/-- Occupancy of an input port of a node for a context, 0 to 8: the tokens in the port's queue, and those next on the edges to the
port, which stand in its eject buffer; the actors of one element share both (R265). -/
def State.portOcc (s : State) (i : Inst) (a : Actor) (p : Nat) : Nat :=
  let n := a.members.headD a.home
  min 4 ((s.nodeCtx n i.ctx).queues.get p).length +
  min 4 ((i.edges.filter fun e => i.endsAt e.2 n p).map fun e => e.2.items.countP Item.isToken).sum

/-- Tokens of a context that wait at a wide port, counted up to 8 (R265). -/
def State.wideOccNow (s : State) (i : Inst) (k : Nat × Nat) : Nat :=
  min 8 ((agetD (s.sheet k.1).wide (k.2, i.ctx) []).countP Item.isToken)

/-- Some cycles of a rate window are measured (R265); cycles past its end are not counted (log entry 29). -/
def State.measure (s : State) (cycles : Nat) (i : Inst) : Inst :=
  let n := min cycles (4096 * (i.window + 1) - i.cycle)
  let occ (a : Actor) : Quad Nat := Quad.ofFn fun p => a.inOcc.get p + n * s.portOcc i a p
  { i with
    forme := { i.forme with actors := amap i.forme.actors fun _ a => { a with inOcc := occ a } },
    wideOcc := amap i.wideOcc fun k v => v + n * s.wideOccNow i k }

/-- Time passes for an instance: CYCLE, its watchdog and the measurements of its rate window, unless no cycle of one of its bulkheads
passes; half of them pass while one of its bulkheads is degraded (R37, R255, R265, R285, R353; of an instance on several bulkheads DEDUCED,
log entry 134). -/
def State.passInst (s : State) (id all : Nat) (i : Inst) : Inst :=
  if i.sheets.any s.stopped then i
  else
    let cycles := if i.bulkheads.any fun b => (s.bulkhead b).degraded then (s.cycle + all) / 2 - s.cycle / 2 else all
    let w := if s.pendingWork id i && !(s.excused id i) then i.watchdog + cycles else i.watchdog
    { s.measure cycles i with cycle := i.cycle + cycles, watchdog := w }

/-- A bucket refills at the entry's rate in records per millisecond (R293). -/
def State.refillBucket (s : State) (ns entry lacks : Nat) : Nat :=
  lacks - ns * ((agetD s.drover.filters entry 0).extractLsb' 82 16).toNat

/-- The slot tables that the drover has written take effect as a whole with the next frame of 256 cycles (R258, R261). -/
def Drover.nextFrame (d : Drover) : Drover :=
  match d.slotsComing with
  | some (slots, ports) => { d with slotOwners := slots, portOwners := ports, slotsComing := none }
  | none => d

/-- ns nanoseconds and some fabric cycles pass (R8). -/
def State.passTime (s : State) (ns cycles : Nat) : State :=
  let frame := decide (s.cycle / 256 ≠ (s.cycle + cycles) / 256)
  let d := if frame then s.drover.nextFrame else s.drover
  { s with
    time := s.time + ns, cycle := s.cycle + cycles, drover := { d with buckets := amap d.buckets (s.refillBucket ns) },
    insts := amap s.insts fun id i => s.passInst id cycles i }

/-! ### Issue -/

/-- The instruction belongs to an issue group: `strin` and `strout`, and `dset` between them (R98). -/
def inGroup : Instr → Bool
  | .strin _ _ _ | .strout _ _ _ | .dset _ _ => true
  | _ => false

/-- What issuing an instruction does before its own effect (R84, R98, R242, R246, R306): the thread acts, a unit is taken,
the turn counts, an open issue group ends unless the instruction belongs to it, and the first fetch of a handler is made, unless it fails. -/
def State.beginInstr (s : State) (sheet ctx : Nat) (i : Instr) : State :=
  let s := s.setSheet sheet (((s.sheet sheet).takeUnit ctx).countTurn ctx)
  let s := { s with curSheet := sheet, curCtx := ctx }
  let s := match i with
    | .instructionFetchFault => s
    | _ => s.setCur { s.cur with entering := false }
  if inGroup i then s else s.endGroupOf sheet ctx

/-- What issuing an instruction does after its own effect: it retires unless it waits or has trapped (R84, R246). -/
def State.afterInstr (s : State) : State :=
  if s.cur.wait.isSome || s.cur.entering then s.endTurn s.curSheet s.curCtx else s.retire

/-- A fetch address lies in the thread's own code region (R82). -/
def inCode (ctx pc : Nat) : Bool := decide (codeBase ctx ≤ pc) && decide (pc < codeBase ctx + 0x3C000)

/-- The location of a code address. -/
def codeLoc (sheet : Nat) (a : Word) : Nat := ssLoc sheet (a.toNat - 0xFF00000001000000)

/-- The line of a code address carries another tag than the thread's tenant (R279). -/
def State.strayLine (s : State) (sheet ctx : Nat) (a : Word) : Bool :=
  decide (s.lineTag (codeLoc sheet a) (bhOf sheet) ≠ s.tenantAt sheet ctx)

/-- The word at a code address can be fetched: in the region (R82), on a line of the thread's own tenant (R279) that can be read
(R306). -/
def State.canFetch (s : State) (sheet ctx : Nat) (a : Word) : Bool :=
  inCode ctx a.toNat && !(s.strayLine sheet ctx a) && !(s.isFaulty (codeLoc sheet a))

/-- What a fetch finds: the bytes of the word and of what follows, or the address at which it faults (R82). A pair needs both its
words. -/
def State.fetch (s : State) (sheet ctx : Nat) : Except Word (List Byte) :=
  let pc := (s.thread sheet ctx).pc
  let bs := s.mem.read (codeLoc sheet pc) 8
  if !(s.canFetch sheet ctx pc) then .error pc
  else match takeWord bs with
    | none => .error pc
    | some (w, _) => if isPairWord w && !(s.canFetch sheet ctx (pc + 4)) then .error (pc + 4) else .ok bs

/-- The address at which a fetch fails; the pc where it does not. -/
def State.fetchAddr (s : State) (sheet ctx : Nat) : Word :=
  match s.fetch sheet ctx with
  | .error a => a
  | .ok _ => (s.thread sheet ctx).pc

/-- A fetch fails for its line's tag alone (R279). -/
def State.strayFetch (s : State) (sheet ctx : Nat) : Bool :=
  let a := s.fetchAddr sheet ctx
  inCode ctx a.toNat && s.strayLine sheet ctx a

/-- The word a decode failure names in TVAL: both words of a pair (R66). -/
def failedWord (bs : List Byte) : Word :=
  match takeWord bs with
  | none => 0
  | some (w, rest) =>
    if isPairWord w then
      match takeWord rest with
      | some (a, _) => w ++ a
      | none => 0#32 ++ w
    else 0#32 ++ w

/-- The instruction a thread is to execute: what its bytes decode to, or the event of a failed fetch or decode (R66,
R82). -/
def State.nextInstr (s : State) (sheet ctx : Nat) : Instr :=
  match s.fetch sheet ctx with
  | .error _ => .instructionFetchFault
  | .ok bs =>
    match decodeSeq bs with
    | .ok (i, _) => i
    | .error _ => .illegalInstruction (failedWord bs)

/-! ### A node's next op word -/

/-- The op word a running firing stands at, decoded for the node's class (R67, R68). -/
def State.nextOp (s : State) (n : NodeId) (f : Firing) : Except Reject Instr :=
  let slots := (s.nodeCtx n f.ctx).slots
  if h : f.pc < 16 then
    let imm := if h2 : f.pc + 1 < 16 then some slots[f.pc + 1] else none
    decodeOp n.cls slots[f.pc] imm
  else .error .truncated

/-! ### Units by name (R9) -/

/-- The instruction is an event: no word stands for it, and it is not what a thread's fetch or decode raises. -/
def isEvent (i : Instr) : Bool :=
  i.wordClass.isNone &&
  match i with
  | .illegalInstruction _ | .instructionFetchFault => false
  | _ => true

/-- The package has the unit a turn names. -/
def Turn.named : Turn → Bool
  | .issue sheet => decide (sheet < 256)
  | .node n => n.exists
  | .event i => i.wf && isEvent i
  | .transit n ctx k => n.exists && decide (ctx < 4) && decide (k < 4)
  | .time _ _ => true

/-- The turn taken when the agenda says nothing: the first listed sheet with a thread that can issue, else time passes
(log entry 1). -/
def State.idleTurn (s : State) : Turn :=
  match s.sheets.find? fun p => decide (p.1 < 256) && (s.chooseThread p.1).isSome with
  | some p => .issue p.1
  | none => .time 10 7

end Sys2Proof.Machine
end

