-- ==== Sys2Proof/Machine/Operands.lean ====
section
/-! DEFINITION. Every operand form of an op word and what running one does (R15, R67, R115–R118): what an operand code
reads, the destination forms, the end of a firing, and a firing that stops at a fault. -/

namespace Sys2Proof.Machine

/-! ### Reading operands (R115, R116) -/

/-- The header of a firing's actor on its node; all ports off where the node has none. -/
def State.headerOf (s : State) (n : NodeId) (f : Firing) : W32 :=
  match (s.nodeCtx n f.ctx).headers.get f.hdr with
  | some (h, _) => h
  | none => 0

/-- The token in whose place a value with the firing's tag stands: a keep register, or a parameter port before the
first arrival, whose INT32 0 takes the colour and iteration of the firing (DESIGN CHOICE, log entry 118). -/
def Firing.token (f : Firing) (v : Val) (port : Nat) : Token :=
  { width := 0, ctx := BitVec.ofNat 2 f.ctx, colour := f.tag.colour, iter := f.tag.iter, slot := f.tag.slot,
    port := BitVec.ofNat 2 port, fmt := v.tag, value := v.value }

/-- A value the spec leaves open (log entry 2): what an op word after the first reads from the port that a firing on
either of two ports did not take (R120). -/
def State.openVal (s : State) : Val :=
  let w := Config.freeWord s.free
  ⟨w.extractLsb' 32 3, w.extractLsb' 0 32⟩

/-- The token at the head of a consumed stream port, never past the last (R115). -/
def headToken (l : List Token) (h : Nat) : Option Token := l[min h (l.length - 1)]?

/-- The node that holds the parameter tokens of a firing's actor: its first member, where they arrive; clones and replicas read
them there (R116, R195). -/
def State.paramNode (s : State) (n : NodeId) (f : Firing) : NodeId :=
  match s.instAt n.sheet f.ctx with
  | none => n
  | some (id, _) => ((s.actor? id f.actor).map fun a => a.members.headD a.home).getD n

/-- The token that a parameter port of a firing's actor holds (R116). -/
def State.paramToken (s : State) (n : NodeId) (f : Firing) (k : Nat) : Option Token :=
  let c := s.nodeCtx (s.paramNode n f) f.ctx
  let h := (((s.nodeCtx n f.ctx).headers.get f.hdr).bind fun x => c.headerOf x.2).getD f.hdr
  ((c.params.get h).get k).map fun q => q.tok

/-- What an operand code reads: none where the port is off (R67, R115, R116). -/
def State.operand (s : State) (n : NodeId) (f : Firing) (x : Src) : Option Token :=
  let c := s.nodeCtx n f.ctx
  let k := x.toNat
  if 4 ≤ k then some (f.token (c.keeps.get (k - 4)) 0)
  else match portMode (s.headerOf n f) k with
    | .off | .unassigned => none
    | .tagged => some ((headToken (f.operands.get k) 0).getD (f.token s.openVal k))
    | .stream 0 => some ((s.paramToken n f k).getD (f.token ⟨0, 0⟩ k))
    | .stream _ => some ((headToken (f.operands.get k) (f.heads.get k)).getD (f.token s.openVal k))

/-- What several operand codes read; none where a port among them is off. -/
def State.operands (s : State) (n : NodeId) (f : Firing) (xs : List Src) : Option (List Token) :=
  match xs with
  | [] => some []
  | x :: r =>
    match s.operand n f x, s.operands n f r with
    | some t, some ts => some (t :: ts)
    | _, _ => none

/-- The head of port k after an op word that read the given codes (R115). -/
def movedHead (header : W32) (f : Firing) (uses : List Src) (k : Nat) : Nat :=
  match portMode header k with
  | .stream (r + 1) => if uses.any fun x => decide (x.toNat = k) then min (f.heads.get k + 1) r else f.heads.get k
  | _ => f.heads.get k

/-- The heads after an op word (R115). -/
def Firing.moveHeads (f : Firing) (header : W32) (uses : List Src) : Firing :=
  { f with heads := Quad.ofFn (movedHead header f uses) }

/-! ### The end of a firing -/

/-- The state with the node's firing replaced. -/
def State.setRunning (s : State) (n : NodeId) (f : Option Firing) : State := s.setNode n { s.node n with running := f }

/-- The last local prefix of a block of a SCAN set: the state register of the member it was dealt to (R199, R234). -/
def State.blockPrefix (s : State) (ctx : Nat) (a : Actor) (seq : Nat) : Option SetItem :=
  let m := a.memberOf seq
  (stateReg (s.nodeCtx m ctx).slots a.extent).map fun k => .block ((s.nodeCtx m ctx).keeps.get k)

/-- A firing of an actor is no longer in progress: behind the last of a block of a set with a carry stands the block's end (R199),
and what waits behind the set is let go (R194, R224, R234). -/
def State.finishFiring (s : State) (id ctx aid seq : Nat) : State :=
  match s.actor? id aid with
  | none => s
  | some a =>
    let outs := if a.carry.isSome && a.blockEnd seq then
        match s.blockPrefix ctx a seq with
        | some x => insertOut a.outs (seq, x)
        | none => a.outs
      else a.outs
    let a := { a with active := a.active.filter fun q => decide (q ≠ seq), outs := outs }
    let s := s.updActor id aid fun _ => a
    if a.outs.isEmpty then s else s.release id ctx aid a a.outs

/-- The scoreboard entries of a node's `tmove` are released (R142). -/
def State.freeNodeRanges (s : State) (n : NodeId) : State :=
  let sh := s.sheet n.sheet
  if sh.board.any fun r => decide (r.node = some n) then
    s.setSheet n.sheet { sh with board := sh.board.filter fun r => decide (r.node ≠ some n) }
  else s

/-- The firing on a node ends. -/
def State.endFiring (s : State) (n : NodeId) (f : Firing) : State :=
  let s := (s.setRunning n none).freeNodeRanges n
  match s.instAt n.sheet f.ctx with
  | some (id, _) => s.finishFiring id f.ctx f.actor f.seq
  | none => s

/-- A number of a node class in CAUSE and in the STALL record (R257, R301). -/
def classCode (c : NodeClass) : BitVec 4 :=
  match c with
  | .element => 0
  | .ag => 1
  | .cv => 2
  | .pa => 3
  | .fe => 4

/-- A report that a node makes (R301, R302). -/
def nodeReport (n : NodeId) (ctx : Nat) (slot : BitVec 4) (kind sub : BitVec 8) (tval : Word) (stop : Option Nat) : Report :=
  { kind := kind, src := classCode n.cls, sub := sub, sheet := n.sheet, tile := n.tile, elem := n.elem, ctx := ctx,
    slot := slot, tval := tval, record := [], node := stop.map fun h => (n, h), discard := none }

/-- A node's actor takes no further firing until the report has been handled (R118). -/
def State.stopHeader (s : State) (n : NodeId) (ctx hdr : Nat) : State :=
  let c := s.nodeCtx n ctx
  s.setNodeCtx n ctx { c with stopped := hdr :: c.stopped }

/-- The firing on a node stops at its op word (R118): its earlier effects stand, its tokens stay consumed, the kind is
reported, and the actor takes no further firing. -/
def State.opFault (s : State) (n : NodeId) (f : Firing) (kind sub : BitVec 8) (tval : Word) : State :=
  let s := (s.stopHeader n f.ctx f.hdr).endFiring n f
  match s.instAt n.sheet f.ctx with
  | some (id, _) => s.report id (nodeReport n f.ctx (BitVec.ofNat 4 f.pc) kind sub tval (some f.hdr))
  | none => s

/-- The op word a firing stands at. -/
def State.opWord (s : State) (n : NodeId) (f : Firing) : W32 :=
  if h : f.pc < 16 then (s.nodeCtx n f.ctx).slots[f.pc] else 0

/-- ILLEGAL_OP at an op word (R302). -/
def State.opIllegal (s : State) (n : NodeId) (f : Firing) (sub : BitVec 8) : State :=
  s.opFault n f kIllegalOp sub ((s.opWord n f).setWidth 64)

/-! ### Running an op word -/

/-- What an op word comes to. -/
inductive OpRes where
  | done (s : State)                       -- its effect; the firing goes on
  | hold (s : State)                       -- it has not ended: the firing stays at it
  | fmt (t : Word)                         -- FMT, with the token or entry that failed
  | illegal (sub : BitVec 8)               -- ILLEGAL_OP
  | fault (kind : BitVec 8) (tval : Word)  -- XLATE, ACCESS, ALIGN of an AG

/-- The firing goes on to the next op word, or ends where the end bit is set (R16). -/
def State.opDone (s : State) (n : NodeId) (uses : List Src) (size : Nat) (e : Bool) : State :=
  match (s.node n).running with
  | none => s
  | some f =>
    let f := { (f.moveHeads (s.headerOf n f) uses) with
      pc := f.pc + size, progress := 0, lanes := [], rows := 0, latched := [], pending := [], wait := .none, invalid := false }
    let s := { s with free := s.free + 1 }
    if e then s.endFiring n f else s.setRunning n (some f)

/-- What an op word reads: each operand once, when it begins; while it is held it keeps what it has read (R115; log entry 136). -/
def State.readOnce (s : State) (n : NodeId) (f : Firing) (uses : List Src) : Option (List Token) :=
  if f.latched.isEmpty then s.operands n f uses else some f.latched

/-- The firing that stays at its op word keeps what the op word has read. -/
def State.latch (s : State) (n : NodeId) (f : Firing) (ts : List Token) : State :=
  match (s.node n).running with
  | some g => if g.seq = f.seq ∧ g.pc = f.pc then s.setRunning n (some { g with latched := ts }) else s
  | none => s

/-- An op word of the acting node's firing: its operands are read, its body says what it does, and the firing goes on,
stays or stops. Without a running firing nothing happens. -/
def State.opWith (s : State) (uses : List Src) (size : Nat) (e : Bool) (body : NodeId → Firing → List Token → OpRes) : State :=
  let n := s.curNode
  match (s.node n).running with
  | none => s
  | some f =>
    match s.readOnce n f uses with
    | none => s.opIllegal n f 0
    | some ts =>
      match body n f ts with
      | .done s' => s'.opDone n uses size e
      | .hold s' => s'.latch n f ts
      | .fmt t => s.opFault n f kFmt 0 t
      | .illegal sub => s.opIllegal n f sub
      | .fault kind tval => s.opFault n f kind 0 tval

/-! ### Results (R117) -/

/-- A token of the firing with a result: its tag, its colour's width, and the slot given (R117). -/
def State.resultToken (s : State) (n : NodeId) (f : Firing) (slot : BitVec 4) (v : Val) : Token :=
  let w := match s.instAt n.sheet f.ctx with
    | some (_, i) => i.forme.widthField f.tag.colour
    | none => 0
  { width := w, ctx := BitVec.ofNat 2 f.ctx, colour := f.tag.colour, iter := f.tag.iter, slot := slot, port := 0,
    fmt := v.tag, value := v.value }

/-- A token with another colour, and that colour's width (R117). -/
def State.recolour (s : State) (n : NodeId) (f : Firing) (t : Token) (colour : BitVec 8) : Token :=
  let w := match s.instAt n.sheet f.ctx with
    | some (_, i) => i.forme.widthField colour
    | none => 0
  { t with colour := colour, width := w }

/-- A token is emitted on output k and not counted (R140, R146, R151). -/
def State.emitFree (s : State) (n : NodeId) (f : Firing) (k : Nat) (t : Token) : State :=
  s.sendToken ((s.instAt n.sheet f.ctx).map Prod.fst |>.getD 0) f.ctx f.actor f.seq n k t

/-- The output has emitted as many tokens of this firing as its declared rate allows (R17). -/
def State.rateUsed (s : State) (n : NodeId) (k : Nat) : Bool :=
  match (s.node n).running with
  | some f => decide (outRate (s.headerOf n f) k ≤ f.emitted.get k)
  | none => false

/-- A token is emitted on output k and counts toward its rate; none where it exceeds the rate (R17, R117). -/
def State.emit (s : State) (n : NodeId) (k : Nat) (t : Token) : Option State :=
  match (s.node n).running with
  | none => some s
  | some f =>
    if s.rateUsed n k then none
    else some ((s.setRunning n (some { f with emitted := f.emitted.set k (f.emitted.get k + 1) })).emitFree n f k t)

/-- A keep register of the firing's context is written (R117). -/
def State.setKeep (s : State) (n : NodeId) (ctx k : Nat) (v : Val) : State :=
  let c := s.nodeCtx n ctx
  s.setNodeCtx n ctx { c with keeps := c.keeps.set k v }

/-- An emission's end: done, or ILLEGAL_OP where the rate is exceeded (R17, R301). -/
def OpRes.ofEmit (r : Option State) : OpRes :=
  match r with
  | some s => .done s
  | none => .illegal 3

/-- A result goes to dst: a keep register takes value and tag, an output emits one token with nslot (R117). -/
def State.writeDst (s : State) (n : NodeId) (f : Firing) (d : Dst) (nslot : BitVec 4) (v : Val) : OpRes :=
  if 4 ≤ d.toNat then .done (s.setKeep n f.ctx (d.toNat - 4) v)
  else .ofEmit (s.emit n d.toNat (s.resultToken n f nslot v))

/-- A token result goes to an output; ILLEGAL_OP where dst names a keep register (R117). -/
def State.writeOut (s : State) (n : NodeId) (d : Dst) (t : Token) : OpRes :=
  if 4 ≤ d.toNat then .illegal 0 else .ofEmit (s.emit n d.toNat t)

/-- The token that stands at a place among the operands. -/
def operandAt (ts : List Token) (k : Nat) : Token :=
  ts.getD k { width := 0, ctx := 0, colour := 0, iter := 0, slot := 0, port := 0, fmt := 0, value := 0 }

/-- The first of several operands whose tag is not the first one's (R121). -/
def oddTag (ts : List Token) : Option Token :=
  match ts with
  | [] => none
  | t :: r => r.find? fun u => decide (u.fmt ≠ t.fmt)

/-- Operands of one tag give a result, or FMT names the operand that fails: the first where its tag is not accepted,
else the first that differs from it (R121, R302). -/
def aluRes (ts : List Token) (v : Option W32) (s : State) (n : NodeId) (f : Firing) (d : Dst) (nslot : BitVec 4)
    (tag : BitVec 3) : OpRes :=
  match v with
  | none => .fmt (operandAt ts 0).bits
  | some w =>
    match oddTag ts with
    | some t => .fmt t.bits
    | none => s.writeDst n f d nslot ⟨tag, w⟩

/-- An op word whose operands carry one tag and whose result keeps it (R121). -/
def State.alu (s : State) (uses : List Src) (d : Dst) (nslot : BitVec 4) (e : Bool)
    (f : BitVec 3 → W32 → W32 → W32 → Option W32) : State :=
  s.opWith uses 1 e fun n r ts =>
    let a := operandAt ts 0
    aluRes ts (f a.fmt a.value (operandAt ts 1).value (operandAt ts 2).value) s n r d nslot a.fmt

end Sys2Proof.Machine
end

