-- ==== Sys2Proof/Machine/Windows.lean ====
section
/-! DEFINITION. Iteration windows (R25, R131, R249) and the colour pool (R132, R252). -/

namespace Sys2Proof.Machine

/-! ### Windows (R131) -/

/-- The window of a colour on a sheet. -/
def State.window (s : State) (sheet ctx : Nat) (colour : BitVec 8) : Window :=
  agetD ((s.sheet sheet).windows.get ctx) colour.toNat Window.reset

/-- Iterations that have been taken and not all retired, from lo to hi (R131). -/
def Window.span (w : Window) : Nat := (w.hi - w.lo).toNat

/-- The iteration is live (R131). -/
def Window.isLive (w : Window) (t : BitVec 8) : Bool :=
  decide ((t - w.lo).toNat < w.span) && w.live.getLsbD (t.toNat % 64)

/-- A bit of the live mask set or cleared. -/
def Window.mark (w : Window) (t : BitVec 8) (v : Bool) : Window :=
  let b : BitVec 64 := 1#64 <<< (t.toNat % 64)
  { w with live := if v then w.live ||| b else w.live &&& ~~~b }

/-- lo moves past iterations that are not live (R131). -/
def Window.slide (w : Window) (fuel : Nat) : Window :=
  match fuel with
  | 0 => w
  | fuel + 1 => if w.lo ≠ w.hi ∧ w.live.getLsbD (w.lo.toNat % 64) = false then { w with lo := w.lo + 1 }.slide fuel else w

/-- retire(t) (R131). -/
def Window.retire (w : Window) (t : BitVec 8) : Window := (w.mark t false).slide 256

/-- The next iteration is taken (R131). -/
def Window.takeNext (w : Window) : Window := { (w.mark w.hi true) with hi := w.hi + 1 }

/-- The window is full (R131). -/
def Window.full (w : Window) : Bool := decide (64 ≤ w.span)

/-- A change of lo on its way to every tile of the chase (R249). -/
def State.sendLo (s : State) (i : Inst) (colour lo : BitVec 8) : State :=
  (i.sheets.flatMap fun sh => (List.range 16).map fun t => (sh, t)).foldl (fun s k =>
    let t := s.tile k.1 k.2
    s.setTile k.1 k.2 { t with loComing := t.loComing ++ [((i.ctx, colour.toNat), lo)] }) s

/-- A window replaced; a change of lo is sent to the tiles. -/
def State.setWindow (s : State) (sheet ctx : Nat) (colour : BitVec 8) (w : Window) : State :=
  let old := s.window sheet ctx colour
  let sh := s.sheet sheet
  let s := s.setSheet sheet { sh with windows := sh.windows.set ctx (aset (sh.windows.get ctx) colour.toNat w) }
  if old.lo = w.lo then s
  else match s.instAt sheet ctx with
    | some (_, i) => s.sendLo i colour w.lo
    | none => s

/-- A cut of the instance is in progress and the node has not saved into it: what the node does belongs to the cut (R310, log
entry 61). -/
def State.inCut (s : State) (i : Inst) (k : NodeId) : Bool := i.cutting.isSome && !(s.nodeCtx k i.ctx).saved

/-- A saved window changed. -/
def Area.updWindow (a : Area) (sheet : Nat) (colour : BitVec 8) (g : Window → Window) : Area :=
  { a with sheets := a.sheets.map fun v =>
      if v.sheet = sheet then
        { v with windows := aset v.windows colour.toNat (g (agetD v.windows colour.toNat Window.reset)) }
      else v }

/-- A firing of a node changes a window, and the saved copy with it while what the node does belongs to the cut. -/
def State.updWindow (s : State) (k : NodeId) (sheet ctx : Nat) (colour : BitVec 8) (g : Window → Window) : State :=
  let s := s.setWindow sheet ctx colour (g (s.window sheet ctx colour))
  match s.instAt sheet ctx with
  | some (id, i) =>
    if s.inCut i k then s.setInst id { i with cutting := i.cutting.map fun a => a.updWindow sheet colour g } else s
  | none => s

/-- The forme state changed, and what the cut in progress has saved of it where the change belongs to the cut. -/
def Inst.updForme (i : Inst) (inCut : Bool) (g : FormeState → FormeState) : Inst :=
  { i with
    forme := g i.forme,
    cutting := if inCut then i.cutting.map fun a => { a with forme := a.forme.map g } else i.cutting }

/-- The oldest change of lo for a colour reaches a tile's copy (R249). -/
def Tile.takeLo (t : Tile) (ctx : Nat) (colour : BitVec 8) : Tile :=
  match t.loComing.findIdx? fun p => decide (p.1 = (ctx, colour.toNat)) with
  | none => t
  | some k => match t.loComing[k]? with
    | none => t
    | some p => { t with lo := aset t.lo p.1 p.2, loComing := t.loComing.eraseIdx k }

/-! ### The colour pool (R132, R252) -/

/-- A colour that `tcall` may take: not 0, in no region of the forme, not taken, not promised (R132). -/
def Inst.colourFree (i : Inst) (c : Nat) : Bool :=
  decide (c ≠ 0) && !(i.regionMask.getLsbD c) && (aget? i.forme.frames c).isNone && !(i.grants.any fun g => decide (g.2.2.2 = c))

/-- The lowest-numbered free colour (R132). -/
def Inst.lowestColour (i : Inst) : Option Nat := (List.range 256).find? i.colourFree

/-- The colour promised to a `tcall` firing, named by its actor, node and tag (R252). -/
def Inst.granted (i : Inst) (n : NodeId) (actor : Nat) (tag : FireTag) : Option Nat :=
  (i.grants.find? fun g => decide (g.1 = n) && decide (g.2.1 = actor) && decide (g.2.2.1 = tag)).map fun g => g.2.2.2

/-- A promise taken up. -/
def Inst.dropGrant (i : Inst) (n : NodeId) (actor : Nat) (tag : FireTag) : Inst :=
  { i with grants := i.grants.filter fun g => !(decide (g.1 = n) && decide (g.2.1 = actor) && decide (g.2.2.1 = tag)) }

/-- A `tcall` firing asks for its colour: it has a promise, or takes the lowest free colour, or waits its turn in the pool's
order (R252). -/
def Inst.askColour (i : Inst) (n : NodeId) (actor : Nat) (tag : FireTag) : Inst × Bool :=
  if (i.granted n actor tag).isSome then (i, true)
  else match i.lowestColour with
    | some c => ({ i with grants := i.grants ++ [(n, actor, tag, c)] }, true)
    | none => (if i.tcalls.contains (n, actor, tag) then i else { i with tcalls := i.tcalls ++ [(n, actor, tag)] }, false)

/-- A colour is freed: to the oldest waiting request, else back to the pool (R252). -/
def Inst.freeColour (i : Inst) (inCut : Bool) (c : Nat) : Inst :=
  let i := i.updForme inCut fun f => { f with frames := adel f.frames c }
  match i.tcalls with
  | [] => i
  | (n, a, t) :: r => { i with tcalls := r, grants := i.grants ++ [(n, a, t, c)] }

/-- A firing of a node resets the windows of a colour on every sheet of the chase (R132). -/
def State.resetWindows (s : State) (i : Inst) (k : NodeId) (colour : BitVec 8) : State :=
  i.sheets.foldl (fun s sh => s.updWindow k sh i.ctx colour fun _ => Window.reset) s

end Sys2Proof.Machine
end

