-- ==== Sys2Proof/Machine/ElemLoop.lean ====
section
/-! DEFINITION. Element op words over colours, iterations and calls (R129–R133), and the two events that complete them: a
width change takes effect (R22, R130), a change of lo arrives (R249). -/

namespace Sys2Proof.Machine

/-- What keeps an op word from emitting on dst: a keep register there, or the rate used up (R17, R117). -/
def State.outBar (s : State) (n : NodeId) (d : Dst) : Option (BitVec 8) :=
  if 4 ≤ d.toNat then some 0 else if s.rateUsed n d.toNat then some 3 else none

/-- An emission that has been found possible. -/
def State.emitNow (s : State) (n : NodeId) (d : Dst) (t : Token) : State := (s.emit n d.toNat t).getD s

/-- The window table's colour and sheet for a firing. -/
def State.firingWindow (s : State) (n : NodeId) (f : Firing) : Window := s.window n.sheet f.ctx f.tag.colour

/-- The firing in progress changed. -/
def State.updRunning (s : State) (n : NodeId) (g : Firing → Firing) : State :=
  match (s.node n).running with
  | some f => s.setRunning n (some (g f))
  | none => s

/-! ### Packing colours (R129) -/

/-- A value with another colour and iteration: to a keep register, or as a token (R117, R129). -/
def State.writeColoured (s : State) (n : NodeId) (f : Firing) (d : Dst) (slot : BitVec 4) (v : Val) (colour iter : BitVec 8) :
    OpRes :=
  if 4 ≤ d.toNat then .done (s.setKeep n f.ctx (d.toNat - 4) v)
  else .ofEmit (s.emit n d.toNat { (s.recolour n f (s.resultToken n f slot v) colour) with iter := iter })

/-- The iteration of a packed token (R129). -/
def packIter (iter : BitVec 8) (b : W32) : BitVec 8 := BitVec.ofNat 8 (2 * iter.toNat + bitsOf b.toNat 8 1)

/-- The iteration of an unpacked token: within 128 of lo (R129). -/
def unpackIter (iter lo : BitVec 8) : BitVec 8 := BitVec.ofNat 8 (lo.toNat + (iter.toNat / 2 + 256 - lo.toNat) % 128)

/-- `pack` (R129). -/
def execPack (a b : Src) (d : Dst) (n : BitVec 4) (e : Bool) (s : State) : Result :=
  .next (s.opWith [a, b] 1 e fun k f ts =>
    let x := operandAt ts 0
    let y := operandAt ts 1
    if y.fmt ≠ 0#3 then .fmt y.bits
    else s.writeColoured k f d n x.val (y.value.extractLsb' 0 8) (packIter x.iter y.value))

/-- `unpack` (R129). -/
def execUnpack (a b : Src) (d : Dst) (n : BitVec 4) (e : Bool) (s : State) : Result :=
  .next (s.opWith [a, b] 1 e fun k f ts =>
    let x := operandAt ts 0
    let y := operandAt ts 1
    if y.fmt ≠ 0#3 then .fmt y.bits
    else
      let c := if x.iter.getLsbD 0 then y.value.extractLsb' 8 8 else y.value.extractLsb' 0 8
      s.writeColoured k f d n x.val c (unpackIter x.iter (s.window k.sheet f.ctx c).lo))

/-! ### Widths (R22, R130) -/

/-- A width change is asked for, and its result token counted (R17, R130). -/
def State.askWidth (s : State) (n : NodeId) (f : Firing) (d : Dst) (slot : BitVec 4) (target : BitVec 8) (w : Option Nat) :
    State :=
  let c : WidthChange := { target := target, width := w, seq := f.seq, actor := f.actor, out := d.toNat, slot := slot,
                           colour := f.tag.colour, iter := f.tag.iter }
  let s := s.updRunning n fun f => { f with emitted := f.emitted.set d.toNat (f.emitted.get d.toNat + 1) }
  match s.instAt n.sheet f.ctx with
  | some (id, i) => s.setInst id (i.updForme (s.inCut i n) fun f => { f with widthChanges := f.widthChanges ++ [c] })
  | none => s

/-- `ctxalloc`: asks for a width of 1 to 32 for a colour (R130). -/
def execCtxalloc (a : Src) (d : Dst) (n : BitVec 4) (e : Bool) (s : State) : Result :=
  .next (s.opWith [a] 1 e fun k f ts =>
    let x := operandAt ts 0
    let w := bitsOf x.value.toNat 8 6
    if x.fmt ≠ 0#3 then .fmt x.bits
    else if bitsOf x.value.toNat 14 18 ≠ 0 ∨ w = 0 ∨ 32 < w then .illegal 0
    else match s.outBar k d with
      | some sub => .illegal sub
      | none => .done (s.askWidth k f d n (x.value.extractLsb' 0 8) (some w)))

/-- `ctxfree`: asks for width 1 (R130). -/
def execCtxfree (a : Src) (d : Dst) (n : BitVec 4) (e : Bool) (s : State) : Result :=
  .next (s.opWith [a] 1 e fun k f ts =>
    let x := operandAt ts 0
    if x.fmt ≠ 0#3 then .fmt x.bits
    else if bitsOf x.value.toNat 14 18 ≠ 0 then .illegal 0
    else match s.outBar k d with
      | some sub => .illegal sub
      | none => .done (s.askWidth k f d n (x.value.extractLsb' 0 8) none))

/-- The actors of a colour's region (R22). -/
def Inst.region (i : Inst) (colour : Nat) : List Nat :=
  ((i.image.regions.filter fun r => decide (r.1 = colour)).flatMap Prod.snd).eraseDups

/-- Places for n replicas of one actor, lowest first, none taken twice (R22). -/
def State.replicaPlaces (s : State) (i : Inst) (a : Actor) (n : Nat) (taken : List NodeId) : Option (List NodeId) :=
  match n with
  | 0 => some []
  | n + 1 =>
    let m := a.members.headD a.home
    match s.freePlace i a m (s.nodeCtx m i.ctx).slots taken with
    | none => none
    | some p => (s.replicaPlaces i a n (p :: taken)).map fun ps => p :: ps

/-- Places for the replicas of every actor of a region; none where one of them does not find them all. -/
def State.regionPlaces (s : State) (i : Inst) (w : Nat) (actors : List Nat) (taken : List NodeId) :
    Option (List (Nat × List NodeId)) :=
  match actors with
  | [] => some []
  | k :: r =>
    match aget? i.forme.actors k with
    | none => s.regionPlaces i w r taken
    | some a =>
      match s.replicaPlaces i a (w - 1) taken with
      | none => none
      | some ps => (s.regionPlaces i w r (ps ++ taken)).map fun l => (k, ps) :: l

/-- The largest width up to the one asked for whose replicas all find places, and the places (R22). -/
def State.grantWidth (s : State) (i : Inst) (colour w : Nat) : Nat × List (Nat × List NodeId) :=
  match w with
  | 0 | 1 => (1, [])
  | w + 1 =>
    match s.regionPlaces i (w + 1) (i.region colour) [] with
    | some l => (w + 1, l)
    | none => s.grantWidth i colour w

/-- Replicas of an actor are placed (R22). DESIGN CHOICE (log entry 141): an actor that is cloned or folded already stays so, and its replicas
stand beside the set. -/
def State.placeReplicas (s : State) (id colour k : Nat) (ps : List NodeId) : State :=
  match aget? s.insts id with
  | none => s
  | some i => match aget? i.forme.actors k with
    | none => s
    | some a =>
      let m := a.members.headD a.home
      let slots := (s.nodeCtx m i.ctx).slots
      -- a PURE replica computes from the original's registers, another starts from what placement leaves (R195, R201)
      let keeps := if actorClass a.header = 1 then (s.nodeCtx m i.ctx).keeps else Quad.all ⟨0, 0⟩
      let s := ps.foldl (fun s p => s.setNodeCtx p i.ctx ((s.nodeCtx p i.ctx).place p.cls a slots keeps)) s
      s.updActor id k fun a => { a with replicas := a.replicas ++ [(colour, m :: ps)] }

/-- The replicas of an actor for a colour are taken off (R22). -/
def State.dropReplicas (s : State) (id colour k : Nat) : State :=
  match aget? s.insts id with
  | none => s
  | some i => match aget? i.forme.actors k with
    | none => s
    | some a => match a.replicas.find? fun r => decide (r.1 = colour) with
      | none => s
      | some r =>
        let s := s.removeClones i.ctx k a.extent (r.2.drop 1)
        s.updActor id k fun a => { a with replicas := a.replicas.filter fun r => decide (r.1 ≠ colour) }

/-- No iteration of the colour is live on any sheet of the chase (R130). -/
def State.colourIdle (s : State) (i : Inst) (colour : BitVec 8) : Bool :=
  i.sheets.all fun sh => decide ((s.window sh i.ctx colour).span = 0)

/-- A firing runs on a replica that a change of the colour's width takes off (R22, R130). -/
def State.replicasRun (s : State) (i : Inst) (c : WidthChange) : Bool :=
  c.width.isNone && (i.region c.target.toNat).any fun k => match aget? i.forme.actors k with
    | none => false
    | some a => a.replicas.any fun r => decide (r.1 = c.target.toNat) &&
        (r.2.drop 1).any fun n => ((s.node n).running.map fun f => decide (f.ctx = i.ctx) && decide (f.actor = k)).getD false

/-- The width of a colour changes as asked; the answer is the width now granted (R22, R130). -/
def State.applyWidth (s : State) (id : Nat) (i : Inst) (inCut : Bool) (c : WidthChange) : State × Nat :=
  let now := i.forme.width c.target.toNat
  match c.width with
  | none =>
    let s := (i.region c.target.toNat).foldl (fun s k => s.dropReplicas id c.target.toNat k) s
    (s.updInst id fun i => i.updForme inCut fun f => { f with widths := adel f.widths c.target.toNat }, 1)
  | some w =>
    if 1 < now then (s, now)
    else
      let g := s.grantWidth i c.target.toNat w
      let s := g.2.foldl (fun s p => s.placeReplicas id c.target.toNat p.1 p.2) s
      if g.1 = 1 then (s, 1)
      else (s.updInst id fun i => i.updForme inCut fun f => { f with widths := aset f.widths c.target.toNat g.1 }, g.1)

/-- The oldest width change asked for a colour takes effect once the colour has no live iteration and the firing that asked
has ended, once no firing runs on a replica that goes, and once the inject buffer of the output has room for the result token
(R22, R130, R244). The token carries the width that its own colour has from then on (R117), and leaves behind every token of that
firing: by the hardware nodes of a PURE set, in the firing's turn (R224). A firing of a set with a carry asks only where the set stands alone, and its tokens have left (R235). -/
def execColourWidthChange (id : Nat) (colour : BitVec 8) (s : State) : Result :=
  .next (match aget? s.insts id with
    | none => s
    | some i => match i.forme.widthChanges.find? fun c => decide (c.target = colour) with
      | none => s
      | some c =>
        let busy := match aget? i.forme.actors c.actor with
          | some a => a.active.contains c.seq || decide (4 ≤ s.buffered i.ctx c.actor a (a.members.headD a.home) c.out)
          | none => false
        if busy || i.restoring || s.replicasRun i c || !(s.colourIdle i colour) then s
        else
          let inCut := match aget? i.forme.actors c.actor with
            | some a => s.inCut i (a.members.headD a.home)
            | none => false
          let s := s.updInst id fun i => i.updForme inCut fun f => { f with widthChanges := f.widthChanges.erase c }
          let r := s.applyWidth id i inCut c
          match aget? r.1.insts id, r.1.actor? id c.actor with
          | some i, some a =>
            let t : Token := { width := i.forme.widthField c.colour, ctx := BitVec.ofNat 2 i.ctx, colour := c.colour,
                               iter := c.iter, slot := c.slot, port := 0, fmt := 0, value := BitVec.ofNat 32 r.2 }
            if a.carry.isSome then
              r.1.inject (a.members.headD a.home) i.ctx c.out c.actor (a.members.headD a.home) (.token t s.cycle)
            else r.1.sendToken id i.ctx c.actor c.seq (a.members.headD a.home) c.out t
          | _, _ => r.1)

/-! ### Iterations (R131) -/

/-- `itin`: the firing takes an iteration once; a leaves with it (R131). -/
def execItin (a : Src) (d : Dst) (n : BitVec 4) (e : Bool) (s : State) : Result :=
  .next (s.opWith [a] 1 e fun k f ts =>
    let x := operandAt ts 0
    match s.outBar k d with
    | some sub => .illegal sub
    | none =>
      let w := s.firingWindow k f
      let t := f.itin.getD w.hi
      let s := if f.itin.isSome then s
        else (s.updWindow k k.sheet f.ctx f.tag.colour Window.takeNext).updRunning k fun f => { f with itin := some t }
      .done (s.emitNow k d { (s.resultToken k f n x.val) with iter := t }))

/-- What the first `itnext` of a firing does to the window (R131). -/
def Window.advanceFrom (w : Window) (t : BitVec 8) : Window :=
  let w := w.retire t
  if t + 1 = w.hi then w.takeNext else w

/-- The iteration of an `itnext` or `itout` is dead: not live, and not one that this firing itself has retired for its first op word
of the kind (R131; DESIGN CHOICE, log entry 135). -/
def Firing.deadIter (f : Firing) (w : Window) (t : BitVec 8) : Bool :=
  !(w.isLive t) && decide (f.itnext ≠ some t) && decide (f.itout ≠ some t)

/-- `itnext`: a's iteration retires, the next one is taken if it is new, and a leaves with it (R131). -/
def execItnext (a : Src) (d : Dst) (n : BitVec 4) (e : Bool) (s : State) : Result :=
  .next (s.opWith [a] 1 e fun k f ts =>
    let x := operandAt ts 0
    let w := s.firingWindow k f
    if f.deadIter w x.iter then .illegal 5
    else match s.outBar k d with
    | some sub => .illegal sub
    | none =>
      let s := if f.itnext.isSome then s
        else (s.updWindow k k.sheet f.ctx f.tag.colour fun w => w.advanceFrom x.iter).updRunning k
          fun f => { f with itnext := some x.iter }
      .done (s.emitNow k d { (s.resultToken k f n x.val) with iter := x.iter + 1 }))

/-- `itout`: a's iteration retires, and a leaves unchanged but for its slot (R131). -/
def execItout (a : Src) (d : Dst) (n : BitVec 4) (e : Bool) (s : State) : Result :=
  .next (s.opWith [a] 1 e fun k f ts =>
    let x := operandAt ts 0
    let w := s.firingWindow k f
    if f.deadIter w x.iter then .illegal 5
    else match s.outBar k d with
    | some sub => .illegal sub
    | none =>
      let s := if f.itout.isSome then s
        else (s.updWindow k k.sheet f.ctx f.tag.colour fun w => w.retire x.iter).updRunning k
          fun f => { f with itout := some x.iter }
      .done (s.emitNow k d { (s.recolour k f (s.resultToken k f n x.val) x.colour) with iter := x.iter }))

/-- A change of lo reaches a tile (R249). -/
def execLoUpdateArrival (sheet tile ctx : Nat) (colour : BitVec 8) (s : State) : Result :=
  .next (s.setTile sheet tile ((s.tile sheet tile).takeLo ctx colour))

/-! ### Calls (R132) -/

/-- `tcall`: a leaves with a colour of its own and iteration 0; the caller's place is kept in the frame table (R132, R252).
Without a colour the firing waits for one. -/
def execTcall (a b : Src) (d : Dst) (n : BitVec 4) (e : Bool) (s : State) : Result :=
  .next (s.opWith [a, b] 1 e fun k f ts =>
    let x := operandAt ts 0
    match s.outBar k d with
    | some sub => .illegal sub
    | none => match s.instAt k.sheet f.ctx with
      | none => .done (s.emitNow k d { (s.resultToken k f n x.val) with iter := 0 })
      | some (id, i) =>
        let q := i.askColour k f.actor f.tag
        match q.1.granted k f.actor f.tag with
        | none => .hold (s.setInst id q.1)
        | some c =>
          let col := BitVec.ofNat 8 c
          let frame : Frame := { colour := x.colour, iter := x.iter, link := (operandAt ts 1).value }
          let i := (q.1.dropGrant k f.actor f.tag).updForme (s.inCut i k) fun fo =>
            { fo with frames := aset fo.frames c frame, widths := adel fo.widths c }
          let s := (s.setInst id i).resetWindows i k col
          .done (s.emitNow k d { (s.recolour k f (s.resultToken k f n x.val) col) with iter := 0 }))

/-- `tret`: a returns to the caller's colour and iteration, at the link's slot where it names one, and the colour is freed
(R132). -/
def execTret (a b : Src) (d : Dst) (n : BitVec 4) (e : Bool) (s : State) : Result :=
  .next (s.opWith [a, b] 1 e fun k f ts =>
    let x := operandAt ts 0
    match s.instAt k.sheet f.ctx with
    | none => .illegal 5
    | some (id, i) => match aget? i.forme.frames x.colour.toNat with
      | none => .illegal 5
      | some fr => match s.outBar k d with
        | some sub => .illegal sub
        | none =>
          let slot := if fr.link.getLsbD 4 then fr.link.extractLsb' 0 4 else n
          let s := s.setInst id (i.freeColour (s.inCut i k) x.colour.toNat)
          .done (s.emitNow k d { (s.recolour k f (s.resultToken k f slot x.val) fr.colour) with iter := fr.iter }))

/-- `setslot`: a leaves for the slot that b names (R133). -/
def execSetslot (a b : Src) (d : Dst) (e : Bool) (s : State) : Result :=
  .next (s.opWith [a, b] 1 e fun k f ts =>
    let y := operandAt ts 1
    if y.fmt ≠ 0#3 then .fmt y.bits
    else s.writeOut k d (s.resultToken k f (y.value.extractLsb' 0 4) (operandAt ts 0).val))

end Sys2Proof.Machine
end

