-- ==== Sys2Proof/Machine/ElemFlow.lean ====
section
/-! DEFINITION. Element op words that steer, merge and drop tokens (R134, R135). -/

namespace Sys2Proof.Machine

/-- `steer`: a on outK where b is not zero, on out(K+1) where it is (R134). -/
def execSteer (a b : Src) (d : Dst) (n : BitVec 4) (e : Bool) (s : State) : Result :=
  .next (s.opWith [a, b] 1 e fun k f ts =>
    if 3 ≤ d.toNat then .illegal 0
    else
      let out := if (operandAt ts 1).value ≠ 0 then d else d + 1
      s.writeOut k out (s.resultToken k f n (operandAt ts 0).val))

/-- `gate`: a to dst where b is not zero, else nothing (R134). -/
def execGate (a b : Src) (d : Dst) (n : BitVec 4) (e : Bool) (s : State) : Result :=
  .next (s.opWith [a, b] 1 e fun k f ts =>
    if (operandAt ts 1).value ≠ 0 then s.writeDst k f d n (operandAt ts 0).val else .done s)

/-- The outputs of a firing's actor with a nonzero declared rate (R134). -/
def State.outputs (s : State) (n : NodeId) (f : Firing) : List Nat :=
  (List.range 4).filter fun k => decide (outRate (s.headerOf n f) k ≠ 0)

/-- `fan`: a on every output with a nonzero declared rate, out0 first (R134). -/
def execFan (a : Src) (n : BitVec 4) (e : Bool) (s : State) : Result :=
  .next (s.opWith [a] 1 e fun k f ts =>
    let outs := s.outputs k f
    if outs.any fun o => s.rateUsed k o then .illegal 3
    else .done (outs.foldl (fun s o => (s.emit k o (s.resultToken k f n (operandAt ts 0).val)).getD s) s))

/-- `sink`: nothing; the firing consumed the token (R134). -/
def execSink (a : Src) (e : Bool) (s : State) : Result := .next (s.opWith [a] 1 e fun _ _ _ => .done s)

/-- The one token a firing on either of two ports consumed (R120). -/
def Firing.either (f : Firing) : Option Token :=
  match (f.operands.get 0).head? with
  | some t => some t
  | none => (f.operands.get 1).head?

/-- The one token leaves unchanged but for its slot; `after` is what becomes of the actor's state. -/
def State.passOne (s : State) (k : NodeId) (f : Firing) (d : Dst) (n : BitVec 4) (after : State → State) : OpRes :=
  match f.either with
  | none => .illegal 0
  | some t => match s.outBar k d with
    | some sub => .illegal sub
    | none => .done (after (s.emitNow k d { (s.recolour k f (s.resultToken k f n t.val) t.colour) with iter := t.iter }))

/-- `merge`: the token that arrived first, which the firing consumed (R135). -/
def execMerge (a b : Src) (d : Dst) (n : BitVec 4) (e : Bool) (s : State) : Result :=
  .next (s.opWith [a, b] 1 e fun k f _ => s.passOne k f d n fun s => s)

/-- The cycle of an `omerge` moves on by one firing (R135). -/
def State.turnOmerge (s : State) (n : NodeId) (f : Firing) : State :=
  let c := s.nodeCtx n f.ctx
  s.setNodeCtx n f.ctx
    { c with omerge := c.omerge.set f.hdr ((c.omerge.get f.hdr + 1) % (2 * actorBlock (s.headerOf n f))) }

/-- `omerge`: b tokens from in0, then b tokens from in1, and again (R135). -/
def execOmerge (a b : Src) (d : Dst) (n : BitVec 4) (e : Bool) (s : State) : Result :=
  .next (s.opWith [a, b] 1 e fun k f _ => s.passOne k f d n fun s => s.turnOmerge k f)

end Sys2Proof.Machine
end

