-- ==== Sys2Proof/Machine/ElemState.lean ====
section
/-! DEFINITION. Element op words with declared state and the row softmax (R136–R140). -/

namespace Sys2Proof.Machine

/-! ### acc and scan (R136) -/

/-- b ⊕ a under the combine of the firing's actor, given to `go`; FMT where the state's tag has no such combine, or a's tag
is another; ILLEGAL_OP for a front merge (R136). -/
def State.combining (s : State) (n : NodeId) (f : Firing) (a b : Token) (go : Val → OpRes) : OpRes :=
  let comb := actorComb (s.headerOf n f)
  if comb = 7 then .illegal 0
  else if (combIdentity comb b.fmt).isNone then .fmt b.bits
  else if a.fmt ≠ b.fmt then .fmt a.bits
  else go ⟨b.fmt, (combine comb b.fmt b.value a.value).getD b.value⟩

/-- `acc`: b := b ⊕ a, b the actor's state register and dst the same (R136). -/
def execAcc (a b : Src) (d : Dst) (n : BitVec 4) (e : Bool) (s : State) : Result :=
  .next (s.opWith [a, b] 1 e fun k f ts =>
    if b.toNat < 4 ∨ d ≠ b then .illegal 0
    else s.combining k f (operandAt ts 0) (operandAt ts 1) fun v => s.writeDst k f d n v)

/-- `scan`: b := b ⊕ a, and the new b leaves on outK (R136). -/
def execScan (a b : Src) (d : Dst) (n : BitVec 4) (e : Bool) (s : State) : Result :=
  .next (s.opWith [a, b] 1 e fun k f ts =>
    if b.toNat < 4 then .illegal 0
    else s.combining k f (operandAt ts 0) (operandAt ts 1) fun v =>
      match s.outBar k d with
      | some sub => .illegal sub
      | none => .done ((s.setKeep k f.ctx (b.toNat - 4) v).emitNow k d (s.resultToken k f n v)))

/-! ### The ring of `delay` (R137) -/

/-- A ring descriptor without reserved bits that stays in the tile's TS (R137). -/
def ringOk (v : W32) : Bool := decide (bitsOf v.toNat 27 5 = 0) && decide (ringBase v + 8 * ringCap v ≤ 0x20000)

/-- The ring of an actor that a descriptor describes: the one that holds entries under it, by whatever register, else an empty one
(R137, R140; DEDUCED, log entry 49). -/
def NodeCtx.ring (c : NodeCtx) (actor : Nat) (v : W32) : Ring :=
  (c.rings.find? fun r => decide (r.actor = actor) && decide (r.desc = v) && decide (r.count ≠ 0)).getD
    { actor := actor, codes := [], desc := v, head := 0, count := 0 }

/-- A ring that was filled under the register holds entries, and the register describes another one (R137). -/
def NodeCtx.ringBarred (c : NodeCtx) (actor code : Nat) (v : W32) : Bool :=
  c.rings.any fun r => decide (r.actor = actor) && r.codes.contains code && decide (r.count ≠ 0) && decide (r.desc ≠ v)

/-- A node's context with a ring of an actor replaced. -/
def NodeCtx.setRing (c : NodeCtx) (r : Ring) : NodeCtx :=
  { c with rings := r :: c.rings.filter fun x => decide (x.actor ≠ r.actor) || decide (x.desc ≠ r.desc) }

/-- A ring with one more entry, appended under a register (R137). -/
def Ring.append (r : Ring) (code : Nat) : Ring := { r with codes := if r.codes.contains code then r.codes else code :: r.codes, count := r.count + 1 }

/-- A ring entry: value, tag, zero (R137). -/
def entryWord (v : Val) : Word := 0#29 ++ v.tag ++ v.value

/-- The entry is held back by a range of the sheet's scoreboard (R219). -/
def State.ringHeld (s : State) (n : NodeId) (loc : Nat) : Bool := (s.sheet n.sheet).board.any fun r => r.overlaps loc 8

/-- `delay`: a into the actor's ring that b names (R137). -/
def execDelay (a b : Src) (e : Bool) (s : State) : Result :=
  .next (s.opWith [a, b] 1 e fun k f ts =>
    let y := operandAt ts 1
    let c := s.nodeCtx k f.ctx
    let r := c.ring f.actor y.value
    if y.fmt ≠ 0#3 then .fmt y.bits
    else if !(ringOk y.value) || c.ringBarred f.actor b.toNat y.value then .illegal 0
    else if ringCap y.value ≤ r.count then .illegal 0
    else
      let loc := ringEntry k y.value (r.head + r.count)
      if s.ringHeld k loc then .hold s
      else
        let s := s.setNodeCtx k f.ctx (c.setRing (r.append b.toNat))
        .done { s with mem := s.mem.write loc (wordBytes 8 (entryWord (operandAt ts 0).val)) })

/-! ### Row softmax (R138–R140) -/

/-- `rowms`: the running maximum in b and sum in c over the lanes of a (R138). -/
def execRowms (a b c : Src) (d : Dst) (_n : BitVec 4) (e : Bool) (s : State) : Result :=
  .next (s.opWith [a, b, c] 1 e fun k f ts =>
    let x := operandAt ts 0
    let m := operandAt ts 1
    let t := operandAt ts 2
    if b.toNat < 4 ∨ c.toNat < 4 ∨ d ≠ b then .illegal 0
    else match fpCompute x.fmt with
      | none => .fmt x.bits
      | some fm =>
        if m.fmt ≠ 1#3 then .fmt m.bits
        else if t.fmt ≠ 1#3 then .fmt t.bits
        else
          let r := rowms fm (lanesOf x.fmt x.value) m.value t.value
          .done ((s.setKeep k f.ctx (b.toNat - 4) ⟨1, r.1⟩).setKeep k f.ctx (c.toNat - 4) ⟨1, r.2⟩))

/-- `rowfin`: 1/s, NaN where m is NaN (R139). -/
def execRowfin (a b : Src) (d : Dst) (n : BitVec 4) (e : Bool) (s : State) : Result :=
  .next (s.opWith [a, b] 1 e fun k f ts =>
    let m := operandAt ts 0
    let t := operandAt ts 1
    if m.fmt ≠ 1#3 then .fmt m.bits
    else if t.fmt ≠ 1#3 then .fmt t.bits
    else s.writeDst k f d n ⟨1, rowfin m.value t.value⟩)

/-- The inject buffer of an output of a firing's node holds 4 tokens and is full (R244). -/
def State.injectFull (s : State) (n : NodeId) (f : Firing) (k : Nat) : Bool :=
  decide (4 ≤ match (s.instAt n.sheet f.ctx).bind fun p => s.actor? p.1 f.actor with
    | some a => s.buffered f.ctx f.actor a n k
    | none => ((s.nodeCtx n f.ctx).inject.get k).length)

/-- `rowscl`: the ring's entries leave scaled, oldest first, one in each step; its emissions are not counted (R140, R244).
-/
def execRowscl (a b c : Src) (d : Dst) (n : BitVec 4) (e : Bool) (s : State) : Result :=
  .next (s.opWith [a, b, c] 1 e fun k f ts =>
    let v := (operandAt ts 0).value
    let m := operandAt ts 1
    let t := operandAt ts 2
    let x := s.nodeCtx k f.ctx
    let r := x.ring f.actor v
    if 4 ≤ d.toNat then .illegal 0
    else if m.fmt ≠ 1#3 then .fmt m.bits
    else if t.fmt ≠ 1#3 then .fmt t.bits
    else if r.count = 0 then .done s
    else
      let loc := ringEntry k v r.head
      if s.injectFull k f d.toNat || s.ringHeld k loc then .hold s
      else
        let w := bytesWord (s.mem.read loc 8)
        let y : Val := ⟨w.extractLsb' 32 3, w.extractLsb' 0 32⟩
        match rowscl y m.value t.value with
        | none => .fmt w
        | some z =>
          let s := s.setNodeCtx k f.ctx (x.setRing { r with head := (r.head + 1) % ringCap v, count := r.count - 1 })
          let s := s.emitFree k f d.toNat (s.resultToken k f n ⟨y.tag, z⟩)
          if r.count = 1 then .done s else .hold s)

end Sys2Proof.Machine
end

