-- ==== Sys2Proof/Machine/Cv.lean ====
section
/-! DEFINITION. Converter op words (R146–R149): every firing consumes one token, data from in0 or a flush or scale from in1
(R120), changes the one partial group of the converter and emits what the lane rules give. -/

namespace Sys2Proof.Machine

/-- The firing consumed a token from in1 and none from in0 (R120). -/
def Firing.fromIn1 (f : Firing) : Bool := (f.operands.get 0).isEmpty

/-- Tokens still to emit go out while the inject buffers have room (R244). -/
def State.drain (s : State) (n : NodeId) (f : Firing) (l : List (Nat × Token)) : State × List (Nat × Token) :=
  match l with
  | [] => (s, [])
  | (k, t) :: r => if s.injectFull n f k then (s, l) else (s.emitFree n f k t).drain n f r

/-- The tokens of an op word leave, in this step and, while a buffer is full, in later ones (R146, R244). -/
def State.emitAll (s : State) (n : NodeId) (f : Firing) (l : List (Nat × Token)) : OpRes :=
  let r := s.drain n f l
  if r.2.isEmpty then .done r.1
  else .hold (r.1.updRunning n fun f => { f with progress := 1, pending := r.2 })

/-- A converter op word: it computes the group after it and the tokens it emits once, then emits them. -/
def State.convertWith (s : State) (a : Src) (d : Dst) (e : Bool)
    (body : NodeId → Firing → Token → Group → Except OpRes (Group × List (Nat × Token))) : State :=
  s.opWith [a] 1 e fun k f ts =>
    if 4 ≤ d.toNat then .illegal 0
    else if f.progress ≠ 0 then s.emitAll k f f.pending
    else
      let c := s.nodeCtx k f.ctx
      match body k f (if f.fromIn1 then f.either.getD (operandAt ts 0) else operandAt ts 0) c.group with
      | .error r => r
      | .ok (g, l) => (s.setNodeCtx k f.ctx { c with group := g }).emitAll k f l

/-- A token with the colour and iteration of the lanes it holds. -/
def State.laneToken (s : State) (n : NodeId) (f : Firing) (slot : BitVec 4) (colour iter : BitVec 8) (v : Val) : Token :=
  { (s.recolour n f (s.resultToken n f slot v) colour) with iter := iter }

/-! ### cvt (R146, R147) -/

/-- The lanes of a list as one value of a tag, missing lanes zero (R146). -/
def groupValue (tag : BitVec 3) (ls : List W32) : Val := ⟨tag, ofLanes (laneBits tag) (ls.map BitVec.toNat)⟩

/-- Lanes cut into full tokens, and what is left. -/
def fullTokens (tag : BitVec 3) (ls : List W32) (fuel : Nat) : List Val × List W32 :=
  match fuel with
  | 0 => ([], ls)
  | fuel + 1 =>
    if ls.length < laneCount tag then ([], ls)
    else
      let r := fullTokens tag (ls.drop (laneCount tag)) fuel
      (groupValue tag (ls.take (laneCount tag)) :: r.1, r.2)

/-- `cvt`: each lane of a converted to the tag; a flush closes the group (R146, R147). -/
def execCvt (a : Src) (d : Dst) (n : BitVec 4) (sat : Bool) (tag : BitVec 3) (e : Bool) (s : State) : Result :=
  .next (s.convertWith a d e fun k f x g =>
    let out (c i : BitVec 8) (v : Val) : Nat × Token := (d.toNat, s.laneToken k f n c i v)
    let close (c i : BitVec 8) (t : BitVec 3) (ls : List W32) : List (Nat × Token) :=
      if ls.isEmpty then [] else [out c i (groupValue t ls)]
    if f.fromIn1 then
      match g with
      | .lanes c i t ls => .ok (.none, close c i t ls)
      | _ => .ok (.none, [])
    else
      let new := (lanesOf x.fmt x.value).map fun l => BitVec.ofNat 32 (convertLane x.fmt tag sat l)
      let before := match g with
        | .lanes c i t ls => if c = x.colour ∧ i = x.iter ∧ t = tag then (ls, []) else ([], close c i t ls)
        | _ => ([], [])
      let r := fullTokens tag (before.1 ++ new) 8
      let left : Group := if r.2.isEmpty then .none else .lanes x.colour x.iter tag r.2
      .ok (left, before.2 ++ r.1.map (out x.colour x.iter)))

/-! ### cvtq (R148) -/

/-- The tokens of a closed group: its lanes quantized and packed, then its scale on the next output (R148). -/
def State.quantTokens (s : State) (n : NodeId) (f : Firing) (d : Dst) (slot : BitVec 4) (target : Nat) (colour iter : BitVec 8)
    (ls : List W32) : List (Nat × Token) :=
  if ls.isEmpty then []
  else
    let xs := ls.map f32
    let scale := quantScale target xs
    let q := xs.map fun x => BitVec.ofNat 32 (quantLane target scale x)
    let tag := quantTag target
    let r := fullTokens tag q 8
    let vs := if r.2.isEmpty then r.1 else r.1 ++ [groupValue tag r.2]
    vs.map (fun v => (d.toNat, s.laneToken n f slot colour iter v)) ++
      [(d.toNat + 1, s.laneToken n f slot colour iter ⟨0, BitVec.ofNat 32 scale⟩)]

/-- Lanes joined to a group, which closes at 32 (R148). -/
def State.quantAdd (s : State) (n : NodeId) (f : Firing) (d : Dst) (slot : BitVec 4) (target : Nat) (colour iter : BitVec 8)
    (held new : List W32) : Group × List (Nat × Token) :=
  let ls := held ++ new
  if ls.length < 32 then (.quant colour iter ls, [])
  else
    let left := ls.drop 32
    (if left.isEmpty then .none else .quant colour iter left, s.quantTokens n f d slot target colour iter (ls.take 32))

/-- `cvtq`: groups of 32 lanes under one scale, the scale on out(K+1) (R148). -/
def execCvtq (a : Src) (d : Dst) (n : BitVec 4) (target : BitVec 3) (e : Bool) (s : State) : Result :=
  .next (s.convertWith a d e fun k f x g =>
    let t := target.toNat
    if d.toNat = 3 then .error (.illegal 0)
    else if f.fromIn1 then
      match g with
      | .quant c i ls => .ok (.none, s.quantTokens k f d n t c i ls)
      | _ => .ok (.none, [])
    else match fpCompute x.fmt with
      | none => .error (.fmt x.bits)
      | some fm =>
        let new := (lanesOf x.fmt x.value).map fun l => rne32 (fm.decode l)
        let before := match g with
          | .quant c i ls => if c = x.colour ∧ i = x.iter then (ls, []) else ([], s.quantTokens k f d n t c i ls)
          | _ => ([], [])
        let r := s.quantAdd k f d n t x.colour x.iter before.1 new
        .ok (r.1, before.2 ++ r.2))

/-! ### cvts (R149) -/

/-- What `cvts` keeps: the scale in use and the lanes left of it, lanes that wait for the next scale, and the output lanes
held with their colour, iteration and tag. -/
structure Scaling where
  scale : Option (BitVec 16)
  left : Nat
  waiting : List (BitVec 8 × BitVec 8 × BitVec 3 × W32)
  colour : BitVec 8
  iter : BitVec 8
  tag : BitVec 3
  out : List W32
  sent : List (BitVec 8 × BitVec 8 × Val)      -- closed output tokens, oldest first
  deriving DecidableEq, Repr

/-- What a group holds for `cvts`. -/
def Group.scaling (g : Group) : Scaling :=
  match g with
  | .scaled sc left w c i t o => ⟨sc, left, w, c, i, t, o, []⟩
  | _ => { scale := Option.none, left := 0, waiting := [], colour := 0, iter := 0, tag := 0, out := [], sent := [] }

/-- The group that keeps it. -/
def Scaling.group (x : Scaling) : Group :=
  if x.left = 0 ∧ x.waiting.isEmpty = true ∧ x.out.isEmpty = true then .none
  else .scaled x.scale x.left x.waiting x.colour x.iter x.tag x.out

/-- The output lanes held are closed as one token (R146). -/
def Scaling.close (x : Scaling) : Scaling :=
  if x.out.isEmpty then x
  else { x with out := [], sent := x.sent ++ [(x.colour, x.iter, groupValue x.tag x.out)] }

/-- One lane under the scale in use; a full token closes, and so does a partial one when the scale is used up (R149). -/
def Scaling.lane (x : Scaling) (sat : Bool) (tag : BitVec 3) (l : BitVec 8 × BitVec 8 × BitVec 3 × W32) : Scaling :=
  let (c, i, src, v) := l
  let x := if x.colour = c ∧ x.iter = i ∧ x.tag = tag then x else x.close
  let y := BitVec.ofNat 32 (scaleLane src tag sat (x.scale.getD 0).toNat v.toNat)
  let x := { x with colour := c, iter := i, tag := tag, out := x.out ++ [y], left := x.left - 1 }
  if laneCount tag ≤ x.out.length ∨ x.left = 0 then x.close else x

/-- Lanes one after another: under the scale while it has lanes left, else they wait (R149). -/
def Scaling.lanes (x : Scaling) (sat : Bool) (tag : BitVec 3) (ls : List (BitVec 8 × BitVec 8 × BitVec 3 × W32)) : Scaling :=
  match ls with
  | [] => x
  | l :: r => (if x.left = 0 then { x with waiting := x.waiting ++ [l] } else x.lane sat tag l).lanes sat tag r

/-- `cvts`: a scale from in1, which waiting lanes use first; or data from in0 (R149). -/
def execCvts (a : Src) (d : Dst) (n : BitVec 4) (sat : Bool) (tag : BitVec 3) (e : Bool) (s : State) : Result :=
  .next (s.convertWith a d e fun k f x g =>
    let st := g.scaling
    let finish (y : Scaling) : Except OpRes (Group × List (Nat × Token)) :=
      .ok (y.group, y.sent.map fun p => (d.toNat, s.laneToken k f n p.1 p.2.1 p.2.2))
    if f.fromIn1 then
      if x.fmt ≠ 0#3 then .error (.fmt x.bits)
      else
        let st' : Scaling := { st with scale := some (x.value.extractLsb' 0 16), left := 32, waiting := [] }
        finish (st'.lanes sat tag st.waiting)
    else finish (st.lanes sat tag ((lanesOf x.fmt x.value).map fun l => (x.colour, x.iter, x.fmt, BitVec.ofNat 32 l))))

end Sys2Proof.Machine
end

