-- ==== Sys2Proof/Machine/Fe.lean ====
section
/-! DEFINITION. Front-element op words (R151, R164–R171). -/

namespace Sys2Proof.Machine

/-- A node's front of a context replaced. -/
def State.setFront (s : State) (n : NodeId) (ctx : Nat) (v : Front) : State :=
  s.setNodeCtx n ctx { s.nodeCtx n ctx with front := v }

/-- The configuration of the front of the acting node's firing. -/
def State.curFront (s : State) : Option FrontConfig :=
  match (s.node s.curNode).running with
  | some f => (s.nodeCtx s.curNode f.ctx).front.config
  | none => none

/-- The fields of the control token of `fcfg` (R164); none where a rule of it is broken. -/
def frontConfig (v : W32) : Option FrontConfig :=
  let nk := bitsOf v.toNat 26 2 + 1
  let dir := v.extractLsb' 22 4
  let ovf := v.extractLsb' 13 2
  let ext := bitsOf v.toNat 0 13
  if bitsOf v.toNat 29 3 ≠ 0 ∨ 2 ^ nk ≤ dir.toNat then none
  else if (if ovf = 2#2 then 0x200000 < 256 * ext + 16384 else ext ≠ 0) then none
  else some { kt := v.getLsbD 28, nk := nk, dir := dir, cap := bitsOf v.toNat 16 6 + 1, keepAll := v.getLsbD 15, ovf := ovf,
              ext := ext }

/-- `fcfg`: the front configured and emptied (R164). -/
def execFcfg (a : Src) (e : Bool) (s : State) : Result :=
  .next (s.opWith [a] 1 e fun k f ts =>
    let x := operandAt ts 0
    if x.fmt ≠ 0#3 then .fmt x.bits
    else match frontConfig x.value with
      | none => .illegal 0
      | some c => .done (s.setFront k f.ctx { Front.reset with config := some c }))

/-- The operands that carry a tuple: b only where the key count exceeds 2 (R165), so that with two keys or fewer a b that names an
off port is not checked (DESIGN CHOICE, log entry 119). -/
def tupleUses (c : Option FrontConfig) (a b x : Src) : List Src :=
  match c with
  | some c => if 2 < c.nk then [a, b, x] else [a, x]
  | none => []

/-- The key operands among those read. -/
def keyOperands (ts : List Token) : List Token := ts.take (ts.length - 1)

/-- The first key operand without the tag of the keys (R165). -/
def oddKey (c : FrontConfig) (ts : List Token) : Option Token := (keyOperands ts).find? fun t => decide (t.fmt ≠ c.keyTag)

/-- The tuple that the operands read carry (R165). -/
def tupleOf (c : FrontConfig) (ts : List Token) : Tuple :=
  let second : W32 := if 2 < c.nk then (operandAt ts 1).value else 0
  readTuple c (operandAt ts 0).value second (operandAt ts (ts.length - 1)).val

/-- The bytes of a SPILL extension are the device's own while the front holds tuples: free values (R166, log entry 2). -/
def State.stirExtension (s : State) (n : NodeId) (c : FrontConfig) : State :=
  let bytes := (List.range 16384).map fun i => Config.freeByte (16384 * s.free + i)
  if c.ovf = 2#2 then { s with mem := s.mem.write (sheetLoc n.sheet (256 * c.ext)) bytes } else s

/-- The front holds tuples in its extension (R166). -/
def Front.spilled (fr : Front) (c : FrontConfig) : Bool := decide (c.ovf = 2#2) && decide (c.cap < fr.tuples.length)

/-- A tuple is inserted in the front of a firing's context; front-full ends the firing (R166). -/
def State.insertFront (s : State) (n : NodeId) (f : Firing) (c : FrontConfig) (building : List Val) (x : Tuple) : OpRes :=
  if s.spillHeld n c then .hold s
  else
  let fr := (s.nodeCtx n f.ctx).front
  let r := fr.insert c x
  let s' := (s.setFront n f.ctx { r.1 with building := building }).stirExtension n c
  if r.2 then .hold (s'.opIllegal n f 1) else .done s'

/-- `fins` (R165, R166). -/
def execFins (a b c : Src) (e : Bool) (s : State) : Result :=
  .next (s.opWith (tupleUses s.curFront a b c) 1 e fun k f ts =>
    match s.curFront with
    | none => .illegal 0
    | some c =>
      match oddKey c ts with
      | some t => .fmt t.bits
      | none => s.insertFront k f c (s.nodeCtx k f.ctx).front.building (tupleOf c ts))

/-- `fprobe` (R168). -/
def execFprobe (a b c : Src) (d : Dst) (n : BitVec 4) (e : Bool) (s : State) : Result :=
  .next (s.opWith (tupleUses s.curFront a b c) 1 e fun k f ts =>
    match s.curFront with
    | none => .illegal 0
    | some c =>
      match oddKey c ts with
      | some t => .fmt t.bits
      | none =>
        if s.spillHeld k c && (s.nodeCtx k f.ctx).front.spilled c then .hold s
        else s.writeDst k f d n ⟨0, probeWord c (s.nodeCtx k f.ctx).front.tuples (tupleOf c ts)⟩)

/-- The tuple that the tokens of one tuple in the drain layout make (R169, R170). -/
def builtTuple (c : FrontConfig) (vs : List Val) : Tuple :=
  let at_ (k : Nat) : Val := vs.getD k ⟨0, 0⟩
  let second : W32 := if 2 < c.nk then (at_ 1).value else 0
  readTuple c (at_ 0).value second (at_ (vs.length - 1))

/-- `fmrg`: one token of the drain layout (R170). -/
def execFmrg (a : Src) (e : Bool) (s : State) : Result :=
  .next (s.opWith [a] 1 e fun k f ts =>
    match s.curFront with
    | none => .illegal 0
    | some c =>
      let x := operandAt ts 0
      let fr := (s.nodeCtx k f.ctx).front
      let keys := if 2 < c.nk then 2 else 1
      if fr.building.length < keys then
        if x.fmt ≠ c.keyTag then .fmt x.bits
        else .done (s.setFront k f.ctx { fr with building := fr.building ++ [x.val] })
      else s.insertFront k f c [] (builtTuple c (fr.building ++ [x.val])))

/-- What `fdrain` emits for one tuple: output, slot offset and value (R169). -/
def drainTokens (c : FrontConfig) (K : Nat) (x : Tuple) : List (Nat × Nat × Val) :=
  [(K, 0, ⟨c.keyTag, keyPair x 0⟩)] ++ (if 2 < c.nk then [(K + 1, 0, ⟨c.keyTag, keyPair x 2⟩)] else []) ++
    [(K + 2, 0, x.payload)]

/-- Everything `fdrain` emits, in order (R169). -/
def drainList (c : FrontConfig) (K : Nat) (l : List Tuple) : List (Nat × Nat × Val) :=
  (drainOrder c l).flatMap (drainTokens c K) ++ [(K, 1, ⟨0, BitVec.ofNat 32 l.length⟩)]

/-- `fdrain`: the front in drain order, one token in each step (R151, R169). DESIGN CHOICE (log entry 143): here and in the other front
operations an unconfigured front is reported before a wrong tag. -/
def execFdrain (a : Src) (d : Dst) (n : BitVec 4) (e : Bool) (s : State) : Result :=
  .next (s.opWith [a] 1 e fun k f ts =>
    match s.curFront with
    | none => .illegal 0
    | some c =>
      let x := operandAt ts 0
      let fr := (s.nodeCtx k f.ctx).front
      let l := drainList c d.toNat fr.tuples
      if x.fmt ≠ 0#3 then .fmt x.bits
      else if bitsOf x.value.toNat 1 31 ≠ 0 ∨ 2 ≤ d.toNat then .illegal 0
      else if s.spillHeld k c && fr.spilled c then .hold s
      else match l[f.progress]? with
        | none => .done s
        | some (out, off, v) =>
          if s.injectFull k f out then .hold s
          else
            let s := s.emitFree k f out (s.resultToken k f (n + BitVec.ofNat 4 off) v)
            if f.progress + 1 < l.length then .hold (s.updRunning k fun f => { f with progress := f.progress + 1 })
            else if x.value.getLsbD 0 then .done s
            else .done (s.setFront k f.ctx { fr with tuples := [] }))

/-- The word of `fcnt` (R171). -/
def countWord (f : Front) : W32 :=
  BitVec.ofNat 32 (f.tuples.length + (if f.ovf then 65536 else 0) + (if f.nan then 131072 else 0))

/-- `fcnt` (R171). -/
def execFcnt (d : Dst) (n : BitVec 4) (e : Bool) (s : State) : Result :=
  .next (s.opWith [] 1 e fun k f _ => s.writeDst k f d n ⟨0, countWord (s.nodeCtx k f.ctx).front⟩)

/-- `fclr`: the front emptied, its configuration kept (R171). -/
def execFclr (e : Bool) (s : State) : Result :=
  .next (s.opWith [] 1 e fun k f _ =>
    .done (s.setFront k f.ctx { Front.reset with config := (s.nodeCtx k f.ctx).front.config }))

end Sys2Proof.Machine
end

