-- ==== Sys2Proof/Machine/Ag.lean ====
section
/-! DEFINITION. Address-generator op words (R141–R145, R227). -/

namespace Sys2Proof.Machine

/-- A firing's AG as an agent. -/
def State.agAgent (s : State) (n : NodeId) (f : Firing) : Agent :=
  { cls := .ag, sheet := n.sheet, ctx := f.ctx, tenant := s.tenantAt n.sheet f.ctx,
    inst := ((s.instAt n.sheet f.ctx).map Prod.fst).getD 0, covered := if (s.nodeCtx n f.ctx).saved then none else some 0 }

/-- An instance loses data: its launch ends (R326). -/
def State.loseInst (s : State) (id : Nat) : State := s.endLaunch id kDataLost 0

/-- The access of a firing stalls in place: its operands stay in the held-address buffer, the fault counter rises, the
record names the node and both counters (R33, R143, R307). -/
def State.stallAg (s : State) (n : NodeId) (f : Firing) (k : AccessKind) (addr : Nat) : State :=
  let c := s.nodeCtx n f.ctx
  let s := s.setNodeCtx n f.ctx { c with held := f.operands, faults := c.faults + 1 }
  let r := s.postStall (s.agAgent n f) (.ag n) k addr n.tile n.elem (c.faults + 1) (s.node n).retries
  r.2.setRunning n (some { f with wait := .miss r.1 })

/-- An AG access that has passed alignment and range: it faults, waits, or goes on with its location (R141, R143). -/
def State.agResolve (s : State) (n : NodeId) (f : Firing) (addr len : Nat) (k : AccessKind) (fault : Word)
    (go : State → Nat → OpRes) : OpRes :=
  if f.invalid then .fault kXlate fault
  else
    let r := s.resolve (s.agAgent n f) addr len k
    match r.2 with
    | .ok loc _ => go r.1 loc
    | .miss => .hold (r.1.stallAg n f k addr)
    | .range => .hold r.1
    | .full | .line => .hold (r.1.setRunning n (some { f with wait := .proofFull }))
    | .xlate => .fault kXlate fault
    | .access => .fault kAccess fault
    | .lost => .hold (r.1.loseInst (s.agAgent n f).inst)

/-- The address of an own-sheet TS offset (R39). -/
def tsAddr (off : Nat) : Nat := 0xFF00000000000000 + off

/-- An access of the 32-bit word at a TS offset (R141). -/
def State.tsAccess (s : State) (n : NodeId) (f : Firing) (a : W32) (k : AccessKind) (go : State → Nat → OpRes) : OpRes :=
  let v := a.setWidth 64
  if a.toNat % 4 ≠ 0 then .fault kAlign v
  else if 0x200000 ≤ a.toNat then .fault kAccess v
  else s.agResolve n f (tsAddr a.toNat) 4 k v go

/-- The virtual address that two tokens name (R141). -/
def agVa (a b : W32) : Word := (b.setWidth 64 <<< 16) + a.setWidth 64

/-- An access of the 32-bit word at a virtual address (R141). -/
def State.vaAccess (s : State) (n : NodeId) (f : Firing) (a b : W32) (k : AccessKind) (go : State → Nat → OpRes) : OpRes :=
  let v := agVa a b
  if v.toNat % 4 ≠ 0 then .fault kAlign v
  else if 2 ^ 48 ≤ v.toNat then .fault kAccess v
  else s.agResolve n f v.toNat 4 k v go

/-- The 32-bit word an AG reads. -/
def State.agLoad (s : State) (n : NodeId) (f : Firing) (loc : Nat) : W32 :=
  BitVec.ofNat 32 (leNat (s.loadBytes (s.agAgent n f).inst loc 4))

/-- The 32-bit word an AG writes. -/
def State.agStore (s : State) (n : NodeId) (f : Firing) (loc : Nat) (v : W32) : State :=
  s.storeBytes (s.agAgent n f) loc (natBytes 4 v.toNat)

/-- The first operand of several that is not INT32 (R141). -/
def notInt32 (ts : List Token) : Option Token := ts.find? fun t => decide (t.fmt ≠ 0#3)

/-- `ldt`: the word at TS offset a, with the tag of mod (R141). -/
def execLdt (a : Src) (d : Dst) (n : BitVec 4) (tag : BitVec 3) (e : Bool) (s : State) : Result :=
  .next (s.opWith [a] 1 e fun k f ts =>
    match notInt32 ts with
    | some t => .fmt t.bits
    | none => s.tsAccess k f (operandAt ts 0).value .read fun s loc => s.writeDst k f d n ⟨tag, s.agLoad k f loc⟩)

/-- `stt`: b at TS offset a (R141). -/
def execStt (a b : Src) (e : Bool) (s : State) : Result :=
  .next (s.opWith [a, b] 1 e fun k f ts =>
    match notInt32 (ts.take 1) with
    | some t => .fmt t.bits
    | none => s.tsAccess k f (operandAt ts 0).value .write fun s loc => .done (s.agStore k f loc (operandAt ts 1).value))

/-- `ldx`: the word at a virtual address, with the tag of mod (R141). -/
def execLdx (a b : Src) (d : Dst) (n : BitVec 4) (tag : BitVec 3) (e : Bool) (s : State) : Result :=
  .next (s.opWith [a, b] 1 e fun k f ts =>
    match notInt32 ts with
    | some t => .fmt t.bits
    | none => s.vaAccess k f (operandAt ts 0).value (operandAt ts 1).value .read fun s loc =>
        s.writeDst k f d n ⟨tag, s.agLoad k f loc⟩)

/-- `stx`: c at a virtual address (R141). -/
def execStx (a b c : Src) (e : Bool) (s : State) : Result :=
  .next (s.opWith [a, b, c] 1 e fun k f ts =>
    match notInt32 (ts.take 2) with
    | some t => .fmt t.bits
    | none => s.vaAccess k f (operandAt ts 0).value (operandAt ts 1).value .write fun s loc =>
        .done (s.agStore k f loc (operandAt ts 2).value))

/-- `amox`: one indivisible read-modify-write of the word at a virtual address; the old value as INT32 to dst (R141). A
token that the output's rate does not allow leaves the word as it was (R118). -/
def execAmox (a b c : Src) (d : Dst) (n : BitVec 4) (fn : AmoFn) (e : Bool) (s : State) : Result :=
  .next (s.opWith [a, b, c] 1 e fun k f ts =>
    match notInt32 ts with
    | some t => .fmt t.bits
    | none => s.vaAccess k f (operandAt ts 0).value (operandAt ts 1).value .atomic fun s loc =>
        let old := s.agLoad k f loc
        let new := BitVec.ofNat 32 (amoNew fn 32 old.toNat (operandAt ts 2).value.toNat)
        (s.agStore k f loc new).writeDst k f d n ⟨0, old⟩)

/-! ### tmove (R142) -/

/-- The descriptor of a `tmove`. -/
structure Move where
  bad : Bool                   -- a reserved bit is set
  len : Nat
  dst : Nat
  src : Nat
  deriving DecidableEq, Repr

/-- The descriptor in 32 bytes (R142). -/
def moveOf (bs : List Byte) : Move :=
  let v := leNat bs
  { bad := decide (bitsOf v 160 96 ≠ 0), len := bitsOf v 128 32, dst := bitsOf v 64 64, src := bitsOf v 0 64 }

/-- The locations of two ranges, decoded and not translated, overlap (R176). -/
def rangesOverlap (sheet : Nat) (engine : Bool) (a alen b blen : Nat) : Bool :=
  match decodeAddr sheet engine a, decodeAddr sheet engine b with
  | some x, some y => decide (x.loc < y.loc + blen) && decide (y.loc < x.loc + alen)
  | _, _ => false

/-- Some page of a virtual range is known to be FM (R142). -/
def State.touchesFm (s : State) (tenant va n : Nat) : Bool :=
  match n with
  | 0 => false
  | n + 1 =>
    (match (s.translate tenant va).2 with
     | .page leaf _ => leaf.getLsbD 61
     | _ => false) || s.touchesFm tenant (va / 65536 * 65536 + 65536) n

/-- An end of a move that AGs may not reach: no such scratch, FM, or a bank without ownership or window (R39, R142). -/
def State.moveEndBad (s : State) (g : Agent) (addr len : Nat) (write : Bool) : Bool :=
  match decodeAddr g.sheet false addr with
  | none => true
  | some (.va v) => decide (2 ^ 48 < v + len) || s.touchesFm g.tenant v ((v % 65536 + len + 65535) / 65536)
  | some (.ds bank off) =>
    decide (0x800000 < off + len) ||
    !((decide ((s.bulkhead bank).tag.toNat = g.tenant) && decide ((s.bulkhead bank).state = .active)) ||
      s.hasWindow bank g.tenant write)
  | some r => decide (r.room < len)

/-- The kind with which a `tmove` ends before any byte moves (R142). -/
def State.moveFault (s : State) (g : Agent) (m : Move) : Option (BitVec 8 × Nat) :=
  if m.bad ∨ m.len < 8 ∨ 16 * 2 ^ 20 < m.len then some (kIllegalOp, 0)
  else if m.src % 8 ≠ 0 then some (kAlign, m.src)
  else if m.dst % 8 ≠ 0 then some (kAlign, m.dst)
  else if m.len % 8 ≠ 0 then some (kAlign, m.len)
  else if s.moveEndBad g m.src m.len false then some (kAccess, m.src)
  else if s.moveEndBad g m.dst m.len true then some (kAccess, m.dst)
  else if rangesOverlap g.sheet false m.src m.len m.dst m.len then some (kIllegalOp, 0)
  else none

/-- The own-sheet scratch ranges a move names (R41, R142). -/
def moveRanges (sheet : Nat) (m : Move) : List (Nat × Nat) :=
  [NamedRange.bytes (BitVec.ofNat 64 m.src) m.len, NamedRange.bytes (BitVec.ofNat 64 m.dst) m.len].filterMap (ownRange sheet)

/-- A move takes its scoreboard entries and keeps its descriptor, or waits while there is no room (R41, R142). -/
def State.beginMove (s : State) (n : NodeId) (f : Firing) (bs : List Byte) : State :=
  let m := moveOf bs
  let sh := s.sheet n.sheet
  let rs := moveRanges n.sheet m
  if 32 < sh.board.length + rs.length then s
  else
    let new := rs.map fun p => ({ op := none, node := some n, ctx := f.ctx, first := p.1, last := p.2 } : Range)
    (s.setSheet n.sheet { sh with board := sh.board ++ new }).setRunning n (some { f with progress := 1, lanes := wordsOf32 bs })
where
  /-- The 32-bit words of bytes. -/
  wordsOf32 (bs : List Byte) : List W32 :=
    (List.range (bs.length / 4)).map fun k => BitVec.ofNat 32 (leNat ((bs.drop (4 * k)).take 4))

/-- The address at which a move whose page was declared invalid ends: that of the end that is not reachable (R143). -/
def State.moveInvalid (s : State) (n : NodeId) (f : Firing) (src dst : Nat) : Nat :=
  match (s.resolve (s.agAgent n f) src 8 .read).2 with
  | .ok _ _ => dst
  | _ => src

/-- The next eight bytes of a move; at its end the byte count leaves (R142). -/
def State.moveStep (s : State) (n : NodeId) (f : Firing) (d : Dst) (slot : BitVec 4) : OpRes :=
  let m := moveOf (f.lanes.flatMap fun w => natBytes 4 w.toNat)
  let src := m.src + 8 * (f.progress - 1)
  let dst := m.dst + 8 * (f.progress - 1)
  if m.len ≤ 8 * (f.progress - 1) then (s.freeNodeRanges n).writeDst n f d slot ⟨0, BitVec.ofNat 32 m.len⟩
  else if f.invalid then .fault kXlate (BitVec.ofNat 64 (s.moveInvalid n f src dst))
  else
    s.agResolve n f src 8 .read (BitVec.ofNat 64 src) fun s from_ =>
    s.agResolve n f dst 8 .write (BitVec.ofNat 64 dst) fun s dest =>
      let g := s.agAgent n f
      let s := s.storeBytes g dest (s.loadBytes g.inst from_ 8)
      .hold (s.setRunning n (some { f with progress := f.progress + 1 }))

/-- `tmove`: the move that 32 bytes at TS offset a describe, eight bytes in each step (R142, R143). -/
def execTmove (a : Src) (d : Dst) (n : BitVec 4) (e : Bool) (s : State) : Result :=
  .next (s.opWith [a] 1 e fun k f ts =>
    let x := operandAt ts 0
    let v := x.value.setWidth 64
    if x.fmt ≠ 0#3 then .fmt x.bits
    else if x.value.toNat % 32 ≠ 0 then .fault kAlign v
    else if 0x200000 ≤ x.value.toNat then .fault kAccess v
    else if d.toNat < 4 ∧ s.rateUsed k d.toNat = true then .illegal 3
    else if f.progress ≠ 0 then s.moveStep k f d n
    else s.agResolve k f (tsAddr x.value.toNat) 32 .read v fun s loc =>
        let bs := s.mem.read loc 32
        match s.moveFault (s.agAgent k f) (moveOf bs) with
        | some (kind, t) => if kind = kIllegalOp then .illegal 0 else .fault kind (BitVec.ofNat 64 t)
        | none => .hold (s.beginMove k f bs))

/-! ### bndry (R145, R227) -/

/-- `bndry`: what the input region wrote is visible in the one memory already (log entry 3); at SYS scope the node waits
for a commit first. Then a leaves unchanged but for its slot (R145, R227). -/
def execBndry (a : Src) (d : Dst) (n : BitVec 4) (sc : Scope) (e : Bool) (s : State) : Result :=
  .next (s.opWith [a] 1 e fun k f ts =>
    let x := operandAt ts 0
    let pass : OpRes :=
      if 4 ≤ d.toNat then .done (s.setKeep k f.ctx (d.toNat - 4) x.val)
      else .ofEmit (s.emit k d.toNat { (s.recolour k f (s.resultToken k f n x.val) x.colour) with iter := x.iter })
    match s.instAt k.sheet f.ctx with
    | none => pass
    | some (id, _) =>
      if decide (sc = .sys) && decide (f.progress = 0) then
        .hold ((s.setRunning k (some { f with wait := .publish })).requestCut id)
      else pass)

end Sys2Proof.Machine
end

