-- ==== Sys2Proof/Machine/Pa.lean ====
section
/-! DEFINITION. Plane-array op words (R151–R163): loading weights, claiming a bank, matrix rows and reading them out; and
the arithmetic of one row (R158, R190, R191). -/

namespace Sys2Proof.Machine

/-! ### Plane images (R152) -/

/-- Q of a Q code (R152). -/
def planeQ (code : Nat) : Nat :=
  match code with
  | 0 => 3
  | 1 => 4
  | 2 => 8
  | _ => 12

/-- Bytes of a plane image (R152). -/
def planeBytes (code : Nat) : Nat := 2048 * planeQ code + 1024

/-- Bit q of w[k][n] in an image (R152). -/
def planeBit (img : List Byte) (q k n : Nat) : Bool := (img.getD (2048 * q + 16 * k + n / 8) 0).getLsbD (n % 8)

/-- w[k][n] read at precision P: its planes Q − P to Q − 1, the last one negative (R158). -/
def planeWeight (img : List Byte) (Q P k n : Nat) : Int :=
  ((List.range P).map fun j =>
    let q := Q - P + j
    let v : Int := if planeBit img q k n then 2 ^ q else 0
    if q = Q - 1 then -v else v).sum

/-- The S16 scale of group g and column n (R152). -/
def planeScale (img : List Byte) (Q g n : Nat) : Nat :=
  let at_ := 2048 * Q + 256 * g + 2 * n
  (img.getD at_ 0).toNat + 256 * (img.getD (at_ + 1) 0).toNat

/-! ### One row (R158) -/

/-- An activation lane decoded by its token's tag (R158). -/
def activation (tag : BitVec 3) (v : Nat) : FpNum :=
  match fpOf tag with
  | some f => f.decode v
  | none => FpNum.ofInt (signedLane (laneBits tag) v)

/-- The tag is one that `mm` draws (R158). -/
def mmTag (tag : BitVec 3) : Bool := decide (2 ≤ tag.toNat) && decide (tag.toNat ≤ 6)

/-- floor(log2 |A|) of a finite nonzero value. -/
def FpNum.floorLog2 (x : FpNum) : Option Int :=
  match x with
  | .fin _ m e => if m = 0 then none else some ((bitLen m : Int) - 1 + e)
  | _ => none

/-- The value is finite. -/
def FpNum.isFinite : FpNum → Bool
  | .fin _ _ _ => true
  | _ => false

/-- trunc(A · 2^(25 − E)) (R158). -/
def mmQuant (x : FpNum) (top : Int) : Int :=
  match x with
  | .fin neg m e =>
    let k := e + 25 - top
    let v : Nat := if 0 ≤ k then m * 2 ^ k.toNat else m / 2 ^ (-k).toNat
    if neg then -(v : Int) else v
  | _ => 0

/-- The largest of several numbers, if there is one. -/
def maxOf (l : List Int) : Option Int :=
  match l with
  | [] => none
  | x :: r => some (r.foldl max x)

/-- t_g of one group: 32 activations, 32 weights, one scale (R158). -/
def mmTerm (as : List FpNum) (ws : List Int) (scale : Nat) : W32 :=
  if (as.any fun a => !a.isFinite) || decide (scale / 256 = 255) then 0x7FC00000
  else match maxOf (as.filterMap FpNum.floorLog2) with
    | none => rne32 ((FpNum.fin false 0 0).mul (s16Value scale))
    | some top =>
      let total : Int := (List.zipWith (fun a w => mmQuant a top * w) as ws).sum
      rne32 ((f32 (rne32 (ofUnits total (top - 25) false))).mul (s16Value scale))

/-- An entry of an FP32 bank after a row: its four groups added in turn (R158). -/
def mmFp32 (img : List Byte) (Q P : Nat) (as : List FpNum) (n : Nat) (entry : W32) : W32 :=
  (List.range 4).foldl (fun acc g =>
    let ws := (List.range 32).map fun i => planeWeight img Q P (32 * g + i) n
    let t := mmTerm ((as.drop (32 * g)).take 32) ws (planeScale img Q g n)
    rne32 ((f32 acc).add (f32 t))) entry

/-- An entry of an INT48 bank after a row (R158). -/
def mmInt48 (img : List Byte) (Q P : Nat) (as : List Int) (n : Nat) (entry : BitVec 48) : BitVec 48 :=
  let ws := (List.range 128).map fun k => planeWeight img Q P k n
  entry + BitVec.ofInt 48 (List.zipWith (fun a w => a * w) as ws).sum

/-- A lane drawn for a row: its token's tag and its bits (R158). -/
def drawnLane (tag : BitVec 3) (v : Nat) : W32 := BitVec.ofNat 32 (65536 * tag.toNat + v)

/-- The tag of a lane drawn. -/
def drawnTag (x : W32) : BitVec 3 := x.extractLsb' 16 3

/-- The bits of a lane drawn. -/
def drawnBits (x : W32) : Nat := (x.extractLsb' 0 16).toNat

/-- Row r of a bank (R34). -/
def Bank.row (b : Bank) (r : Nat) : List (BitVec 48) := (List.range 128).map fun n => b.entries.getD (128 * r + n) 0

/-- A bank with one row replaced. -/
def Bank.setRow (b : Bank) (r : Nat) (row : List (BitVec 48)) : Bank :=
  let l := b.entries
  { b with entries := l.take (128 * r) ++ List.replicate (128 * r - l.length) 0 ++ row ++ l.drop (128 * r + 128) }

/-- The row of a bank after one row of activations (R158). -/
def Bank.rowAfter (b : Bank) (ws : WeightStore) (P r : Nat) (lanes : List W32) : List (BitVec 48) :=
  let Q := planeQ ws.q
  let old := b.row r
  if b.int48 then
    let as := lanes.map fun x => signedLane 8 (drawnBits x)
    (List.range 128).map fun n => mmInt48 ws.bytes Q P as n (old.getD n 0)
  else
    let as := lanes.map fun x => activation (drawnTag x) (drawnBits x)
    (List.range 128).map fun n => (mmFp32 ws.bytes Q P as n ((old.getD n 0).setWidth 32)).setWidth 48

/-- Every scale of the image is 1.0, as an INT48 bank asks (R158). -/
def unitScales (ws : WeightStore) : Bool :=
  (List.range 4).all fun g => (List.range 128).all fun n => decide (planeScale ws.bytes (planeQ ws.q) g n = 0x7F00)

/-! ### Stores and banks (R154) -/

/-- A weight store of a node. -/
def Node.store (n : Node) (k : Nat) : Option WeightStore := if k = 0 then n.ws0 else n.ws1

/-- A node with a weight store replaced. -/
def Node.setStore (n : Node) (k : Nat) (w : Option WeightStore) : Node :=
  if k = 0 then { n with ws0 := w } else { n with ws1 := w }

/-- A bank of a node. -/
def Node.bank (n : Node) (k : Nat) : Bank := if k = 0 then n.acc0 else n.acc1

/-- A node with a bank replaced. -/
def Node.setBank (n : Node) (k : Nat) (b : Bank) : Node := if k = 0 then { n with acc0 := b } else { n with acc1 := b }

/-- The array of a node as an agent, for a context. -/
def State.arrayAgent (s : State) (n : NodeId) (ctx : Nat) : Agent :=
  { cls := .array, sheet := n.sheet, ctx := ctx, tenant := s.tenantAt n.sheet ctx,
    inst := ((s.instAt n.sheet ctx).map Prod.fst).getD 0, covered := none }

/-- What becomes of reading the image at a TS offset: the first of its lines that may not be read, or that is held. -/
def State.imageAns (s : State) (n : NodeId) (ctx img code : Nat) : Option Ans :=
  ((List.range (planeBytes code / 256)).map fun k =>
    (s.resolve (s.arrayAgent n ctx) (tsAddr (img + 256 * k)) 256 .read).2).find? fun a => match a with
      | .ok _ _ => false
      | _ => true

/-- The image at a TS offset is in a store, owned by a context, as its bytes stand (R155). -/
def State.loadStore (s : State) (n : NodeId) (ctx st img code : Nat) : State :=
  let ws : WeightStore := { bytes := s.mem.read (sheetLoc n.sheet img) (planeBytes code), img := img, q := code, owner := ctx }
  s.setNode n ((s.node n).setStore st (some ws))

/-- The first op words of a control token are zero where they must be. -/
def zeroBits (v : W32) (lo w : Nat) : Bool := decide (bitsOf v.toNat lo w = 0)

/-- `wsload` (R155). -/
def execWsload (a : Src) (e : Bool) (s : State) : Result :=
  .next (s.opWith [a] 1 e fun k f ts =>
    let x := operandAt ts 0
    let v := x.value
    let img := bitsOf v.toNat 0 21
    let code := bitsOf v.toNat 24 2
    let st := bitsOf v.toNat 26 1
    if x.fmt ≠ 0#3 then .fmt x.bits
    else if !(zeroBits v 27 5 && zeroBits v 21 3) then .illegal 0
    else if img % 256 ≠ 0 then .fault kAlign (BitVec.ofNat 64 img)
    else if 0x200000 < img + planeBytes code then .fault kAccess (BitVec.ofNat 64 img)
    else match s.imageAns k f.ctx img code with
      | some .range => .hold s
      | some _ => .fault kAccess (BitVec.ofNat 64 img)
      | none =>
        let s := s.loadStore k f.ctx st img code
        let c := s.nodeCtx k f.ctx
        .done (s.setNodeCtx k f.ctx { c with records := c.records.set st (some (img, code)) }))

/-- `acczero`: it waits while another context owns the bank (R156). -/
def execAcczero (a : Src) (e : Bool) (s : State) : Result :=
  .next (s.opWith [a] 1 e fun k f ts =>
    let x := operandAt ts 0
    let v := x.value
    let slot := 64 * bitsOf v.toNat 0 15
    let b := bitsOf v.toNat 16 1
    if x.fmt ≠ 0#3 then .fmt x.bits
    else if !(zeroBits v 18 14 && zeroBits v 15 1) then .illegal 0
    else if 0x200000 < slot + 32832 then .fault kAccess (BitVec.ofNat 64 slot)
    else
      let bank := (s.node k).bank b
      if bank.owner.isSome ∧ bank.owner ≠ some f.ctx then .hold s
      else
        let s := s.setNode k ((s.node k).setBank b { int48 := v.getLsbD 17, owner := some f.ctx, entries := [] })
        .done (s.setNodeCtx k f.ctx { s.nodeCtx k f.ctx with saveSlot := slot }))

/-! ### mm (R158) -/

/-- The fields of the control token of `mm` (R158). -/
structure MmCtl where
  bad : Bool                   -- a reserved field, P = 0, or rows past the bank
  row0 : Nat
  rows : Nat
  p : Nat
  bank : Nat
  store : Nat
  deriving DecidableEq, Repr

/-- The control token of `mm` (R158). -/
def mmCtl (v : W32) : MmCtl :=
  let row0 := bitsOf v.toNat 18 6
  let m := bitsOf v.toNat 12 6 + 1
  let p := bitsOf v.toNat 8 4
  { bad := !(zeroBits v 24 8 && zeroBits v 2 6) || decide (p = 0) || decide (64 < row0 + m), row0 := row0, rows := m, p := p,
    bank := bitsOf v.toNat 1 1, store := bitsOf v.toNat 0 1 }

/-- The next token of port b that is the actor's, and the queue without it (R158). -/
def takeFirst (ext : BitVec 16) (l : List QToken) : Option (Token × List QToken) :=
  match l with
  | [] => none
  | q :: r => if inExtent ext q.tok.slot.toNat then some (q.tok, r) else (takeFirst ext r).map fun p => (p.1, q :: p.2)

/-- The extent of a firing's actor on its node. -/
def State.extentOf (s : State) (n : NodeId) (f : Firing) : BitVec 16 :=
  match (s.nodeCtx n f.ctx).headers.get f.hdr with
  | some (_, x) => x
  | none => 0

/-- The next token of the actor at a port, and the state without it. -/
def State.drawToken (s : State) (n : NodeId) (f : Firing) (port : Nat) : Option (Token × State) :=
  let c := s.nodeCtx n f.ctx
  (takeFirst (s.extentOf n f) (c.queues.get port)).map fun p =>
    (p.1, s.setNodeCtx n f.ctx { c with queues := c.queues.set port p.2 })

/-- One token joins the row in progress, which is added to the bank when it is whole (R158). The token is consumed and the
rows before stand, also where the firing ends here. DESIGN CHOICE (log entry 143): a wrong tag is reported before a crossed row
boundary. -/
def State.mmTake (s : State) (n : NodeId) (f : Firing) (c : MmCtl) (ws : WeightStore) (t : Token) : State :=
  let bank := (s.node n).bank c.bank
  let lanes := f.lanes ++ (lanesOf t.fmt t.value).map (drawnLane t.fmt)
  if !(mmTag t.fmt) || (bank.int48 && decide (t.fmt ≠ 6#3)) then s.opFault n f kFmt 0 t.bits
  else if 128 < lanes.length then s.opIllegal n f 0
  else if lanes.length < 128 then s.setRunning n (some { f with progress := 1, lanes := lanes })
  else if bank.int48 && !(unitScales ws) then s.opFault n f kFmt 0 (Config.freeWord s.free)
  else
    let r := c.row0 + f.rows
    let s := s.setNode n ((s.node n).setBank c.bank (bank.setRow r (bank.rowAfter ws c.p r lanes)))
    s.setRunning n (some { f with progress := 1, lanes := [], rows := f.rows + 1 })

/-- The checks of `mm` before its first row, with the store it multiplies by: loaded anew from the context's record where
another context owns it (R157, R158). None where the image is held back. -/
def State.mmBegin (s : State) (n : NodeId) (f : Firing) (c : MmCtl) (b : Src) : Except OpRes State :=
  let x := s.nodeCtx n f.ctx
  if c.bad then .error (.illegal 0)
  else if 4 ≤ b.toNat ∨ portMode (s.headerOf n f) b.toNat ≠ .stream 1 then .error (.illegal 0)
  else if ((s.node n).bank c.bank).owner ≠ some f.ctx then .error (.illegal 0)
  else
    let mine := ((s.node n).store c.store).filter fun w => decide (w.owner = f.ctx)
    match x.records.get c.store, mine with
    | none, _ => .error (.illegal 0)
    | some _, some w => if planeQ w.q < c.p then .error (.illegal 0) else .ok s
    | some (img, q), none =>
      if planeQ q < c.p then .error (.illegal 0)
      else match s.imageAns n f.ctx img q with
        | some .range => .error (.hold s)
        | some _ => .error (.fault kAccess (BitVec.ofNat 64 img))
        | none => .ok (s.loadStore n f.ctx c.store img q)

/-- `mm`: M rows drawn from port b, one token in each step; M leaves after the last row (R158). -/
def execMm (a b : Src) (d : Dst) (n : BitVec 4) (e : Bool) (s : State) : Result :=
  .next (s.opWith [a, b] 1 e fun k f ts =>
    let x := operandAt ts 0
    let c := mmCtl x.value
    if x.fmt ≠ 0#3 then .fmt x.bits
    else if d.toNat < 4 ∧ s.rateUsed k d.toNat = true then .illegal 3
    else if f.progress = 0 then
      match s.mmBegin k f c b with
      | .error r => r
      | .ok s => match (s.node k).store c.store with
        | none => .illegal 0
        | some ws => .hold (s.mmTake k f c ws (operandAt ts 1))
    else if c.rows ≤ f.rows then s.writeDst k f d n ⟨0, BitVec.ofNat 32 c.rows⟩
    else match (s.node k).store c.store, s.drawToken k f b.toNat with
      | some ws, some (t, s) => .hold (s.mmTake k f c ws t)
      | _, _ => .hold s)

/-! ### accrd (R160) -/

/-- The INT32 value of an INT48 entry: its low 32 bits, or clamped (R160). -/
def int48Value (sat : Bool) (v : BitVec 48) : W32 :=
  if sat then BitVec.ofInt 32 (max (-(2 ^ 31)) (min (2 ^ 31 - 1) v.toInt)) else v.setWidth 32

/-- `accrd`: rows of a bank, one token in each step (R151, R160). -/
def execAccrd (a : Src) (d : Dst) (n : BitVec 4) (sat e : Bool) (s : State) : Result :=
  .next (s.opWith [a] 1 e fun k f ts =>
    let x := operandAt ts 0
    let v := x.value
    let rows := bitsOf v.toNat 0 6 + 1
    let row0 := bitsOf v.toNat 8 6
    let b := bitsOf v.toNat 16 1
    let bank := (s.node k).bank b
    if x.fmt ≠ 0#3 then .fmt x.bits
    else if 4 ≤ d.toNat ∨ !(zeroBits v 18 14 && zeroBits v 14 2 && zeroBits v 6 2) = true ∨ 64 < row0 + rows then .illegal 0
    else if bank.owner ≠ some f.ctx then .illegal 0
    else if s.injectFull k f d.toNat then .hold s
    else
      let entry := bank.entries.getD (128 * row0 + f.progress) 0
      let y : Val := if bank.int48 then ⟨0, int48Value sat entry⟩ else ⟨1, entry.setWidth 32⟩
      let s := s.emitFree k f d.toNat (s.resultToken k f n y)
      if f.progress + 1 < 128 * rows then .hold (s.updRunning k fun f => { f with progress := f.progress + 1 })
      else if v.getLsbD 17 then .done (s.setNode k ((s.node k).setBank b { bank with owner := none }))
      else .done s)

end Sys2Proof.Machine
end

