-- ==== Sys2Proof/Machine/Ready.lean ====
section
/-! DEFINITION. Which firings a node can start, and its choice among them (R15, R22, R116, R120, R131, R132, R135, R137,
R149, R194, R196, R224, R235, R242, R244, R245, R247, R250). -/

namespace Sys2Proof.Machine

/-! ### Micro-sequences -/

/-- The op words of a micro-sequence, decoded; one that does not decode is left out (R16). -/
def microInstrs (cls : NodeClass) (slots : Vector W32 16) (pc : Nat) : List (Option Instr) :=
  (microSeq cls slots pc 8).map fun p =>
    let imm := if h : p.1 + 1 < 16 then some slots[p.1 + 1] else none
    match decodeOp cls p.2 imm with
    | .ok i => some i
    | .error _ => none

/-- An op word whose emissions are not counted (R140, R151). -/
def freeEmitter (i : Instr) : Bool :=
  match i with
  | .rowscl _ _ _ _ _ _ | .accrd _ _ _ _ _ | .fdrain _ _ _ _ => true
  | _ => false

/-- An op word that only an uncloned front runs (R172). -/
def frontWhole (i : Instr) : Bool :=
  match i with
  | .fcfg _ _ | .fprobe _ _ _ _ _ _ | .fdrain _ _ _ _ | .fcnt _ _ _ | .fclr _ => true
  | _ => false

/-- The op word is an `acc`. -/
def isAcc (i : Instr) : Bool :=
  match i with
  | .acc _ _ _ _ _ => true
  | _ => false

/-- The op word is a `scan`. -/
def isScan (i : Instr) : Bool :=
  match i with
  | .scan _ _ _ _ _ => true
  | _ => false

/-- The op word is an `itin`. -/
def isItin (i : Instr) : Bool :=
  match i with
  | .itin _ _ _ _ => true
  | _ => false

/-- The operand of an `itnext`. -/
def itnextUse (i : Instr) : Option Src :=
  match i with
  | .itnext a _ _ _ => some a
  | _ => none

/-- The operand of an `itout`. -/
def itoutUse (i : Instr) : Option Src :=
  match i with
  | .itout a _ _ _ => some a
  | _ => none

/-- The operand fields that an element's op word reads (R115, R117, R121–R140). -/
def elementUses (i : Instr) : List Src :=
  match i with
  | .elemAdd a b _ _ _ _ | .elemSub a b _ _ _ _ | .elemMul a b _ _ _ _ | .elemShl a b _ _ _ _ => [a, b]
  | .fma a b c _ _ _ _ => [a, b, c]
  | .elemMin a b _ _ _ | .elemMax a b _ _ _ | .elemShr a b _ _ _ | .elemSra a b _ _ _ => [a, b]
  | .elemAnd a b _ _ _ | .elemOr a b _ _ _ | .elemXor a b _ _ _ | .cmp a b _ _ _ _ => [a, b]
  | .sel a b c _ _ _ | .rowms a b c _ _ _ | .rowscl a b c _ _ _ => [a, b, c]
  | .abs a _ _ _ | .neg a _ _ _ | .not a _ _ _ | .mov a _ _ _ | .exp2 a _ _ _ | .log2 a _ _ _ | .rcp a _ _ _ => [a]
  | .rsq a _ _ _ | .sqrt a _ _ _ | .bcast a _ _ _ | .lane a _ _ _ _ | .ctxalloc a _ _ _ | .ctxfree a _ _ _ => [a]
  | .itin a _ _ _ | .itnext a _ _ _ | .itout a _ _ _ | .fan a _ _ | .sink a _ => [a]
  | .pack a b _ _ _ | .unpack a b _ _ _ | .tcall a b _ _ _ | .tret a b _ _ _ | .setslot a b _ _ => [a, b]
  | .steer a b _ _ _ | .merge a b _ _ _ | .omerge a b _ _ _ | .gate a b _ _ _ | .acc a b _ _ _ | .scan a b _ _ _ => [a, b]
  | .delay a b _ | .rowfin a b _ _ _ => [a, b]
  | _ => []

/-- The op word is a `tcall`. -/
def isTcall (i : Instr) : Bool :=
  match i with
  | .tcall _ _ _ _ _ => true
  | _ => false

/-- The ring operand of a `delay`. -/
def delayRing (i : Instr) : Option Src :=
  match i with
  | .delay _ b _ => some b
  | _ => none

/-- A firing from a micro-sequence cannot run on a member of a cloned set: the set is uncloned first (R172, R196, R235). -/
def needsUnclone (cls : NodeClass) (header : W32) (micro : List (Option Instr)) : Bool :=
  match actorClass header, cls with
  | 2, .fe => micro.any fun i => (i.map frontWhole).getD false
  | 2, _ => !(micro.all fun i => (i.map isAcc).getD false)
  | 3, _ => !(micro.all fun i => (i.map isScan).getD false)
  | _, _ => false

/-! ### Matched sets (R15, R119, R250) -/

/-- The tokens of an actor that wait in the matching store for a port of its node. -/
def State.storedAt (s : State) (n : NodeId) (ctx : Nat) (ext : BitVec 16) (k : Nat) : List QToken :=
  ((s.tile n.sheet n.tile).store.filter fun e => decide (e.node = n) && decide (e.qt.tok.ctx.toNat = ctx) &&
    decide (e.qt.tok.port.toNat = k) && inExtent ext e.qt.tok.slot.toNat).map fun e => e.qt

/-- The tokens of an actor that wait at a port of its node: those in the matching store, then those in the queue. -/
def State.waitingAt (s : State) (n : NodeId) (ctx : Nat) (ext : BitVec 16) (k : Nat) : List QToken :=
  s.storedAt n ctx ext k ++ tokensOf ext ((s.nodeCtx n ctx).queues.get k)

/-- A token's part of a firing's tag (R15). -/
def Token.fireTag (t : Token) : FireTag := ⟨t.colour, t.iter, t.slot⟩

/-- What a firing would consume: its tag, the tokens of each port, and the cycle in which the last of them arrived. -/
structure MatchSet where
  tag : FireTag
  operands : Quad (List Token)
  ready : Nat
  deriving DecidableEq, Repr

/-- The set as it takes tokens from the ports. -/
def matchOf (tag : FireTag) (taken : Quad (List QToken)) : MatchSet :=
  { tag := tag, operands := Quad.ofFn fun k => (taken.get k).map fun q => q.tok,
    ready := (((List.range 4).flatMap fun k => taken.get k).map fun q => q.arrived).foldl max 0 }

/-- What port k gives to a firing of a tag: none where it lacks it; a port that is off or holds a parameter gives nothing
(R15, R116). -/
def portGives (header : W32) (waiting : Quad (List QToken)) (tag : FireTag) (k : Nat) : Option (List QToken) :=
  match portMode header k with
  | .tagged => ((waiting.get k).find? fun q => decide (q.tok.fireTag = tag)).map fun q => [q]
  | .stream (r + 1) => if r + 1 ≤ (waiting.get k).length then some ((waiting.get k).take (r + 1)) else none
  | _ => some []

/-- The set of a tag, if every port gives its part (R15). -/
def setOf (header : W32) (waiting : Quad (List QToken)) (tag : FireTag) : Option MatchSet :=
  match portGives header waiting tag 0, portGives header waiting tag 1, portGives header waiting tag 2,
      portGives header waiting tag 3 with
  | some a, some b, some c, some d => some (matchOf tag ⟨a, b, c, d⟩)
  | _, _, _, _ => none

/-- The ports of a mode. -/
def portsWith (header : W32) (p : PortMode → Bool) : List Nat := (List.range 4).filter fun k => p (portMode header k)

/-- The oldest token on a stream port: of a parameter port the one it holds (R15, R116). -/
def oldestAt (header : W32) (waiting : Quad (List QToken)) (held : Quad (Option QToken)) (k : Nat) : Option QToken :=
  match portMode header k with
  | .stream 0 => held.get k
  | .stream _ => (waiting.get k).head?
  | _ => none

/-- A set that takes no token is ready since the token came that gives its tag. -/
def MatchSet.readyFrom (t : MatchSet) (q : QToken) : MatchSet :=
  if t.operands = Quad.all [] then { t with ready := q.arrived } else t

/-- Matched sets of an actor that fires on all its ports: the tag is the matched one, or that of the oldest token of the
lowest-numbered stream port, parameter ports among them (R15, R116). A parameter port that no token has come to has none to give a
tag, and the next stream port gives it; an actor that no port gives a tag does not fire (DEDUCED, log entry 20). -/
def allSets (header : W32) (waiting : Quad (List QToken)) (held : Quad (Option QToken)) : List MatchSet :=
  match portsWith header fun m => decide (m = .tagged) with
  | p :: _ => (waiting.get p).filterMap fun q => setOf header waiting q.tok.fireTag
  | [] => (((List.range 4).findSome? (oldestAt header waiting held)).bind fun q =>
      (setOf header waiting q.tok.fireTag).map fun t => t.readyFrom q).toList

/-- A set of the one token a firing on either of two ports takes (R120). -/
def oneSet (k : Nat) (q : QToken) : MatchSet := matchOf q.tok.fireTag ((Quad.all []).set k [q])

/-- The older of the tokens that wait at in0 and in1; in0's where they arrived in one cycle (R135). -/
def olderSet (a b : Option QToken) : List MatchSet :=
  match a, b with
  | some x, some y => if y.arrived < x.arrived then [oneSet 1 y] else [oneSet 0 x]
  | some x, none => [oneSet 0 x]
  | none, some y => [oneSet 1 y]
  | none, none => []

/-- A firing as it starts on a matched set (R15). -/
def newFiring (ctx actor hdr seq : Nat) (t : MatchSet) : Firing :=
  { ctx := ctx, actor := actor, hdr := hdr, seq := seq, pc := t.tag.slot.toNat, tag := t.tag, operands := t.operands,
    heads := Quad.all 0, emitted := Quad.all 0, itin := none, itnext := none, itout := none, progress := 0, lanes := [],
    rows := 0, latched := [], pending := [], wait := .none, invalid := false, ready := t.ready }

/-- At most one token of a set has no entry in the matching store: the one that completes it starts its firing without
taking one (R250; log entry 114). -/
def completes (header : W32) (stored : Quad (List QToken)) (tag : FireTag) : Bool :=
  decide (((portsWith header fun m => decide (m = .tagged)).countP fun k =>
    !((stored.get k).any fun q => decide (q.tok.fireTag = tag))) ≤ 1)

/-- What an actor that fires on either of two ports can take: `merge` and the converters the older token, `omerge` what is
due, `cvts` a scale when none is left and data while lanes are left and none wait (R120, R135, R149). -/
def eitherSets (cls : NodeClass) (c : NodeCtx) (hdr : Nat) (header : W32) (first : W32) (a b : Option QToken) :
    List MatchSet :=
  if cls = .cv then
    if opcodeOf first = 0x32 then
      let st := c.group.scaling
      if st.left = 0 then (b.map (oneSet 1)).toList
      else if st.waiting.isEmpty then (a.map (oneSet 0)).toList else []
    else olderSet a b
  else if first.getLsbD 5 then
    if c.omerge.get hdr < actorBlock header then (a.map (oneSet 0)).toList else (b.map (oneSet 1)).toList
  else olderSet a b

/-- The actor fires on either of two ports (R120). -/
def firesEither (cls : NodeClass) (first : W32) : Bool :=
  decide (cls = .cv) || (decide (cls = .element) && decide (opcodeOf first = 0x27))

/-- An actor's first op word on a node. -/
def firstWord (c : NodeCtx) (ext : BitVec 16) : W32 :=
  if h : bitsOf ext.toNat 12 4 < 16 then c.slots[bitsOf ext.toNat 12 4] else 0

/-- The op word in a slot. -/
def slotWord (c : NodeCtx) (slot : BitVec 4) : W32 := c.slots[slot.toNat]'slot.isLt

/-- The replicas of an actor but the first of each colour, which is the actor itself, with the iterations that each takes (R22). -/
def Actor.replicaParts (a : Actor) : List (NodeId × (Token → Bool)) :=
  a.replicas.flatMap fun r => ((List.range r.2.length).drop 1).map fun j =>
    (r.2.getD j a.home, fun t => decide (t.colour.toNat = r.1) && decide (t.iter.toNat % r.2.length = j))

/-- The sets that satisfy R15 or R120 among those of an actor's waiting tokens which go to one of its nodes. -/
def State.setsAt (s : State) (ctx : Nat) (a : Actor) (m : NodeId) (mine : Token → Bool) : List MatchSet :=
  let n := a.members.headD a.home
  let c := s.nodeCtx m ctx
  let waiting : Quad (List QToken) := Quad.ofFn fun k => (s.waitingAt n ctx a.extent k).filter fun q => mine q.tok
  let h := (c.headerOf a.extent).getD 0
  let first := firstWord c a.extent
  if firesEither n.cls first then
    let x := (waiting.get 0).head?
    let y := (waiting.get 1).head?
    let w := if n.cls = .cv then ((x.or y).map fun q => slotWord c q.tok.slot).getD first else first
    eitherSets n.cls c h a.header w x y
  else
    let held := (s.nodeCtx n ctx).params.get (((s.nodeCtx n ctx).headerOf a.extent).getD 0)
    (allSets a.header waiting held).filter fun t => completes a.header (Quad.ofFn fun k => s.storedAt n ctx a.extent k) t.tag

/-- The sets of an actor that satisfy R15 or R120, with its tokens on its first node: those of each replica by its own state, and the
rest by the actor's own (R22, R201). -/
def State.setsOf (s : State) (ctx : Nat) (a : Actor) : List MatchSet :=
  let parts := a.replicaParts
  s.setsAt ctx a (a.members.headD a.home) (fun t => parts.all fun p => !(p.2 t)) ++
    parts.flatMap fun p => s.setsAt ctx a p.1 p.2

/-! ### Where a firing runs (R22, R194, R196) -/

/-- The number of the member that the next firing of a set is dealt to (R194). -/
def Actor.dueMember (a : Actor) : Nat := (a.started - a.base) / actorBlock a.header % a.members.length

/-- The node on which a firing would run now: the replica of its iteration, the actor's node, the member it is dealt to, or
clone 0 once the set can be uncloned (R22, R172, R194, R196, R235). -/
def Actor.runsOn (a : Actor) (tag : FireTag) (whole : Bool) : Option NodeId :=
  match a.replicas.find? fun r => decide (r.1 = tag.colour.toNat) with
  | some r => r.2[tag.iter.toNat % r.2.length]?
  | none =>
    if a.members.length ≤ 1 then some (a.members.headD a.home)
    else if whole then (if a.active.isEmpty && a.outs.isEmpty then some (a.members.headD a.home) else none)
    else a.members[a.dueMember]?

/-- Outputs of a set that wait in its carry node from one member (R234). -/
def Actor.waitingOuts (a : Actor) (member : Nat) : Nat :=
  a.outs.countP fun o => o.2.isOut && decide ((o.1 - a.base) / actorBlock a.header % a.members.length = member)

/-- The carry node takes no more outputs of the member that is due (R234). -/
def Actor.carryFull (a : Actor) : Bool := a.carry.isSome && decide (16 < a.waitingOuts a.dueMember)

/-! ### What else a start waits for -/

/-- The inject buffers of the node on which a firing would run have room for the declared rates (R244). -/
def State.injectRoom (s : State) (n : NodeId) (ctx aid : Nat) (a : Actor) : Bool :=
  (List.range 4).all fun k =>
    decide (outRate a.header k = 0) || decide (s.buffered ctx aid a n k + outRate a.header k ≤ 4)

/-- The rings that the `delay` op words of a micro-sequence name: register and descriptor, by the keep registers as they stand. -/
def delayDescs (c : NodeCtx) (micro : List (Option Instr)) : List (Nat × W32) :=
  micro.filterMap fun i => (i.bind delayRing).bind fun b =>
    let k := c.keeps.get (b.toNat - 4)
    if 4 ≤ b.toNat ∧ k.tag = 0#3 then some (b.toNat, k.value) else none

/-- Each ring has room for every `delay` that names it; what would fault does not wait (R137). -/
def ringRoom (c : NodeCtx) (actor : Nat) (micro : List (Option Instr)) : Bool :=
  let ds := delayDescs c micro
  ds.all fun x =>
    !(ringOk x.2) || c.ringBarred actor x.1 x.2 ||
    decide ((c.ring actor x.2).count + (ds.countP fun y => decide (y.2 = x.2)) ≤ ringCap x.2)

/-- A width change asked for the colour is not yet in effect (R130). -/
def Inst.widthPending (i : Inst) (colour : BitVec 8) : Bool := i.forme.widthChanges.any fun c => decide (c.target = colour)

/-- The token that the first op word of a kind in a micro-sequence reads, as the heads of the firing's ports stand there (R115). -/
def State.firstRead (s : State) (n : NodeId) (f : Firing) (p : Instr → Option Src) (micro : List (Option Instr)) : Option Token :=
  match micro with
  | [] | none :: _ => none
  | some i :: r =>
    match p i with
    | some x => s.operand n f x
    | none => s.firstRead n (f.moveHeads (s.headerOf n f) (elementUses i)) p r

/-- A window after the firing's own retirement of a token's iteration. -/
def Window.retireOwn (w : Window) (t : Option Token) : Window :=
  match t with
  | some t => if w.isLive t.iter then w.retire t.iter else w
  | none => w

/-- The window lets the firing take its iteration: by `itin`, or by an `itnext` whose next iteration is new (R130, R131). -/
def State.windowRoom (s : State) (n : NodeId) (i : Inst) (f : Firing) (micro : List (Option Instr)) : Bool :=
  let w := s.window n.sheet f.ctx f.tag.colour
  let enters := micro.any fun x => (x.map isItin).getD false
  let a := s.firstRead n f itnextUse micro
  let w' := (w.retireOwn a).retireOwn (s.firstRead n f itoutUse micro)
  let next := match a with
    | some t => w.isLive t.iter && decide (t.iter + 1 = w.hi)
    | none => false
  !((enters || next) && w'.full) && !(enters && i.widthPending f.tag.colour)

/-- A firing that could start: its instance, actor, and header on the node, and what it consumes. -/
structure Cand where
  ctx : Nat
  inst : Nat
  actor : Nat
  hdr : Nat
  set : MatchSet
  whole : Bool                 -- the set is uncloned first
  deriving DecidableEq, Repr

/-- The firing starts without the room check: `rowscl`, `accrd`, `fdrain` and every CV firing pause instead (R244). -/
def startsFree (cls : NodeClass) (micro : List (Option Instr)) : Bool :=
  decide (cls = .cv) || micro.any fun x => (x.map freeEmitter).getD false

/-- Everything but the colour that a firing of an actor on a node waits for beyond its tokens (R130, R131, R137, R234,
R244). -/
def State.clearToStart (s : State) (n : NodeId) (i : Inst) (aid hdr : Nat) (a : Actor) (t : MatchSet) : Bool :=
  let c := s.nodeCtx n i.ctx
  let micro := microInstrs n.cls c.slots t.tag.slot.toNat
  (startsFree n.cls micro || s.injectRoom n i.ctx aid a) && ringRoom c aid micro &&
    s.windowRoom n i (newFiring i.ctx aid hdr a.started t) micro && !a.carryFull

/-- The cycle since which the inject buffers have had room for the declared rates (R244, R245). -/
def NodeCtx.roomSince (c : NodeCtx) (header : W32) : Nat :=
  ((List.range 4).map fun k => match outRate header k with
    | 0 => 0
    | r + 1 => (c.roomAt.get k).get r).foldl max 0

/-- A matched set with the cycle in which its firing became ready: the last token has come and the buffers have room (R244, R245).
-/
def State.readied (s : State) (n : NodeId) (ctx : Nat) (a : Actor) (t : MatchSet) : MatchSet :=
  if startsFree n.cls (microInstrs n.cls (s.nodeCtx n ctx).slots t.tag.slot.toNat) then t
  else { t with ready := max t.ready ((s.nodeCtx n ctx).roomSince a.header) }

/-- The firing starts with a `tcall` in it (R132). -/
def State.callsColour (s : State) (n : NodeId) (ctx : Nat) (t : MatchSet) : Bool :=
  (microInstrs n.cls (s.nodeCtx n ctx).slots t.tag.slot.toNat).any fun x => (x.map isTcall).getD false

/-- The firings of one actor that could start on a node, those that still lack a colour among them. -/
def State.candsOf (s : State) (n : NodeId) (id : Nat) (i : Inst) (aid : Nat) (a : Actor) : List Cand :=
  let n0 := a.members.headD a.home
  let c := s.nodeCtx n i.ctx
  match c.headerOf a.extent with
  | none => []
  | some h =>
    if c.stopped.contains h then []
    else (s.setsOf i.ctx a).filterMap fun t =>
      let whole := decide (1 < a.members.length) &&
        needsUnclone n0.cls a.header (microInstrs n0.cls (s.nodeCtx n0 i.ctx).slots t.tag.slot.toNat)
      if a.runsOn t.tag whole = some n ∧ s.clearToStart n i aid h a t = true ∧ (whole = false ∨ s.joinHeld i.ctx a = false) then
        some { ctx := i.ctx, inst := id, actor := aid, hdr := h, set := s.readied n i.ctx a t, whole := whole }
      else none

/-- The actor has a place on a node. -/
def Actor.standsOn (a : Actor) (n : NodeId) : Bool := a.members.contains n || a.replicas.any fun r => r.2.contains n

/-- The slice of an instance is held for budget on a sheet: its allowance there is used up (R242). -/
def State.noUnits (s : State) (sheet ctx : Nat) : Bool := decide ((s.sheet sheet).units.get ctx = 0)

/-- The firings of a context that could start on a node, those that still lack a colour among them (R242, R305). -/
def State.candsAsking (s : State) (n : NodeId) (ctx : Nat) : List Cand :=
  match s.instAt n.sheet ctx with
  | none => []
  | some (id, i) =>
    if i.holds n.sheet || s.noUnits n.sheet ctx then []
    else i.forme.actors.flatMap fun p => if p.2.standsOn n then s.candsOf n id i p.1 p.2 else []

/-- The firing has the colour it needs (R132, R252). -/
def State.hasColour (s : State) (n : NodeId) (x : Cand) : Bool :=
  !(s.callsColour n x.ctx x.set) ||
    (match aget? s.insts x.inst with
     | some i => (i.granted n x.actor x.set.tag).isSome
     | none => false)

/-- The firings of a context that could start on a node. -/
def State.cands (s : State) (n : NodeId) (ctx : Nat) : List Cand := (s.candsAsking n ctx).filter (s.hasColour n)

/-- Requests for colours reach the pool (R252). -/
def State.askFor (s : State) (n : NodeId) (l : List Cand) : State :=
  match l with
  | [] => s
  | x :: r =>
    let s := if s.callsColour n x.ctx x.set then s.updInst x.inst fun i => (i.askColour n x.actor x.set.tag).1 else s
    s.askFor n r

/-- Every context's firings on a node ask for the colours they lack. -/
def State.askColours (s : State) (n : NodeId) : State :=
  s.askFor n ((List.range 4).flatMap fun c => s.candsAsking n c)

/-! ### The choice (R245, R247) -/

/-- What a node chooses among within one context: a firing to start, or a suspended one to resume. -/
structure Choice where
  ctx : Nat
  tag : FireTag
  ready : Nat
  hdr : Nat
  start : Option Cand
  resume : Option Firing       -- the suspended firing that goes on in place of a start
  deriving DecidableEq, Repr

/-- The choice of a firing that starts. -/
def Cand.choice (x : Cand) : Choice := { ctx := x.ctx, tag := x.set.tag, ready := x.set.ready, hdr := x.hdr, start := some x, resume := none }

/-- The control operand of the op word a firing stands at: as it read it when it began, else as it stands. -/
def State.control (s : State) (n : NodeId) (f : Firing) (a : Src) : Option Token := f.latched.head?.or (s.operand n f a)

/-- The control token of a suspended or running `mm` (R158, R161). -/
def State.mmToken (s : State) (n : NodeId) (f : Firing) : Option Token :=
  match decodeOp n.cls (s.opWord n f) none with
  | .ok (.mm a _ _ _ _) => s.control n f a
  | _ => none

/-- The bank and store that a suspended or running `mm` uses (R158). -/
def State.mmOf (s : State) (n : NodeId) (f : Firing) : Option MmCtl := (s.mmToken n f).map fun t => mmCtl t.value

/-- The suspended firings of a context whose bank is free (R163); `assume` is a bank taken as free (R162). -/
def State.resumable (s : State) (n : NodeId) (ctx : Nat) (assume : Option Nat) : List Choice :=
  ((s.node n).suspended.filter fun f => decide (f.ctx = ctx)).filterMap fun f =>
    match s.mmOf n f, s.instAt n.sheet ctx with
    | some c, some (_, i) =>
      if (((s.node n).bank c.bank).owner = none ∨ assume = some c.bank) ∧ i.holds n.sheet = false then
        some { ctx := ctx, tag := f.tag, ready := f.ready, hdr := f.hdr, start := none, resume := some f }
      else none
    | _, _ => none

/-- What a node can choose among for a context. -/
def State.choices (s : State) (n : NodeId) (ctx : Nat) : List Choice :=
  (s.cands n ctx).map Cand.choice ++ s.resumable n ctx none

/-- Iteration a is older than b (R245). -/
def olderIter (a b : BitVec 8) : Bool := decide (1 ≤ (b - a).toNat) && decide ((b - a).toNat ≤ 127)

/-- Another choice of the same colour is older (R245, step 3). -/
def Choice.passed (x : Choice) (l : List Choice) : Bool :=
  l.any fun y => decide (y.tag.colour = x.tag.colour) && olderIter y.tag.iter x.tag.iter

/-- x comes before y by readiness, header index, colour and slot (R245, steps 4 to 6). -/
def Choice.before (x y : Choice) : Bool :=
  let key (c : Choice) : Nat × Nat × Nat × Nat := (c.ready, c.hdr, c.tag.colour.toNat, c.tag.slot.toNat)
  let (a, b, c, d) := key x
  let (a', b', c', d') := key y
  decide (a < a') || (decide (a = a') && (decide (b < b') || (decide (b = b') &&
    (decide (c < c') || (decide (c = c') && decide (d < d'))))))

/-- The first of several choices of one context (R245, steps 3 to 6). -/
def bestChoice (l : List Choice) : Option Choice :=
  let kept := l.filter fun x => !(x.passed l)
  (if kept.isEmpty then l else kept).foldl (fun acc x => match acc with
    | none => some x
    | some y => if x.before y then some x else some y) none

/-- The contexts of highest rank among several (R245, step 1). -/
def State.topContexts (s : State) (sheet : Nat) (l : List Nat) : List Nat :=
  let rank (c : Nat) : Nat := ((s.sheet sheet).rank.get c).toNat
  l.filter fun c => l.all fun d => decide (rank d ≤ rank c)

/-- The node's choice (R245, R247). -/
def State.choose (s : State) (n : NodeId) : Option Choice :=
  let can := (List.range 4).filter fun c => !(s.choices n c).isEmpty
  let top := s.topContexts n.sheet can
  let turn := (List.range 4).map fun k => ((s.node n).last + 1 + k) % 4
  match turn.find? fun c => top.contains c with
  | none => none
  | some c => bestChoice (s.choices n c)

/-! ### Interruption (R162) -/

/-- The first op word of a firing could start at once on a plane array, the bank of the running `mm` taken as free: only an
`acczero` on a bank of a third context could not (R162). -/
def State.couldStart (s : State) (n : NodeId) (bank : Nat) (x : Cand) : Bool :=
  match decodeOp .pa (slotWord (s.nodeCtx n x.ctx) x.set.tag.slot) none with
  | .ok (.acczero a _) =>
    match s.operand n (newFiring x.ctx x.actor x.hdr 0 x.set) a with
    | none => true
    | some t =>
      let v := t.value
      let b := bitsOf v.toNat 16 1
      let bad := decide (t.fmt ≠ 0#3) || !(zeroBits v 18 14 && zeroBits v 15 1) ||
        decide (0x200000 < 64 * bitsOf v.toNat 0 15 + 32832)
      let o := ((s.node n).bank b).owner
      bad || decide (b = bank) || decide (o = none) || decide (o = some x.ctx)
  | _ => true

/-- A context of higher rank has a firing that could start now in place of the running `mm` (R162). -/
def State.higherReady (s : State) (n : NodeId) (ctx bank : Nat) : Bool :=
  (List.range 4).any fun c =>
    decide (((s.sheet n.sheet).rank.get ctx).toNat < ((s.sheet n.sheet).rank.get c).toNat) &&
    ((s.cands n c).any (s.couldStart n bank) || !(s.resumable n c (some bank)).isEmpty)

/-- The save slot of a context is not held by a scoreboard range (R219). -/
def State.slotFree (s : State) (n : NodeId) (ctx : Nat) : Bool :=
  !((s.sheet n.sheet).board.any fun r => r.overlaps (sheetLoc n.sheet (s.nodeCtx n ctx).saveSlot) 32832)

/-- The running `mm` of a node is to be interrupted: it stands between two rows, on an FP32 bank, and a firing of higher rank
could start (R162). -/
def State.interruptDue (s : State) (n : NodeId) : Option (Firing × MmCtl) :=
  match (s.node n).running with
  | none => none
  | some f =>
    match s.mmOf n f with
    | none => none
    | some c =>
      if decide (n.cls = .pa) && !(s.restoringAt n.sheet f.ctx) && decide (f.lanes = []) && decide (1 ≤ f.rows) && decide (f.rows < c.rows) &&
          !((s.node n).bank c.bank).int48 && s.slotFree n f.ctx && s.higherReady n f.ctx c.bank then some (f, c)
      else none

end Sys2Proof.Machine
end

