-- ==== Sys2Proof/Machine/Rollback.lean ====
section
/-! DEFINITION. The report of a stream (R99, R301, R302). -/

namespace Sys2Proof.Machine

/-- A report of a stream: bank and port stand in the slot field, TVAL is the address of the point (R99, R301, R302). -/
def streamReport (st : Stream) (kind : BitVec 8) (addr : Word) : Report :=
  { kind := kind, src := 5, sub := 0, sheet := st.sheet, tile := 0, elem := 0, ctx := st.ctx,
    slot := BitVec.ofNat 4 (8 * st.bank + st.port), tval := addr, record := [], node := none, discard := none }

end Sys2Proof.Machine
end

