-- ==== Sys2Proof/Machine/SeqBranch.lean ====
section
/-! DEFINITION. Branches, jumps and `loop` (R88), calls and returns over the return-address store (R89). -/

namespace Sys2Proof.Machine

/-- A conditional branch: to its own address plus 4·off16, else to the next word (R88). -/
def State.branch (s : State) (c : Bool) (o : BitVec 16) : State :=
  if c then s.goto (branchTo s.cur.pc o.toInt) else s.advance

/-- `beq` (R88). -/
def execBeq (a b : Reg) (o : BitVec 16) (s : State) : Result := .next (s.branch (decide (s.reg a = s.reg b)) o)

/-- `bne` (R88). -/
def execBne (a b : Reg) (o : BitVec 16) (s : State) : Result := .next (s.branch (decide (s.reg a ≠ s.reg b)) o)

/-- `blt` (R88). -/
def execBlt (a b : Reg) (o : BitVec 16) (s : State) : Result := .next (s.branch (condLt (s.reg a) (s.reg b)) o)

/-- `bge` (R88). -/
def execBge (a b : Reg) (o : BitVec 16) (s : State) : Result := .next (s.branch (condGe (s.reg a) (s.reg b)) o)

/-- `bltu` (R88). -/
def execBltu (a b : Reg) (o : BitVec 16) (s : State) : Result := .next (s.branch (condLtu (s.reg a) (s.reg b)) o)

/-- `bgeu` (R88). -/
def execBgeu (a b : Reg) (o : BitVec 16) (s : State) : Result := .next (s.branch (condGeu (s.reg a) (s.reg b)) o)

/-- `jmp` (R88). -/
def execJmp (o : BitVec 26) (s : State) : Result := .next (s.goto (branchTo s.cur.pc o.toInt))

/-- `jr`: ALIGN for a target that is not word-aligned; a code offset or an absolute address (R88, R304). -/
def execJr (a : Reg) (s : State) : Result :=
  .next (if (s.reg a).toNat % 4 ≠ 0 then s.trap kAlign (s.reg a) else s.goto (indirect s.curCtx (s.reg a)))

/-- `call`: the next address is pushed, then the branch is taken (R89). -/
def doCall (o : BitVec 26) (s : State) : State :=
  s.pushRas (.call o) (s.cur.pc + 4) fun s => s.goto (branchTo s.cur.pc o.toInt)

/-- `call` (R89). -/
def execCall (o : BitVec 26) (s : State) : Result := .next (doCall o s)

/-- `callr`: a misaligned target traps before the push (R89). -/
def doCallr (a : Reg) (s : State) : State :=
  if (s.reg a).toNat % 4 ≠ 0 then s.trap kAlign (s.reg a)
  else s.pushRas (.callr a) (s.cur.pc + 4) fun s => s.goto (indirect s.curCtx (s.reg a))

/-- `callr` (R89). -/
def execCallr (a : Reg) (s : State) : Result := .next (doCallr a s)

/-- `ret`: the youngest return address, STACKUNF where there is none (R89). -/
def doRet (s : State) : State := s.popRas .ret fun s a => s.goto a

/-- `ret` (R89). -/
def execRet (s : State) : Result := .next (doRet s)

/-- `loop`: ga − 1 to ga, and a branch unless it is zero (R88). g0 stays zero (R29): the test is of the difference. -/
def execLoop (a : Reg) (o : BitVec 16) (s : State) : Result :=
  let v := s.reg a - 1
  .next ((s.setCur (s.cur.setReg a v)).branch (decide (v ≠ 0)) o)

end Sys2Proof.Machine
end

