-- ==== Sys2Proof/Machine/SeqMem.lean ====
section
/-! DEFINITION. The memory pairs and `fence` (R91–R94, R227). Orderings and scopes are kept by the model's one order of
steps (log entry 3); a release or fence at SYS scope and every write of an SO page publish at a cut. -/

namespace Sys2Proof.Machine

/-- The address of a pair (R91). -/
def State.pairAddr (s : State) (a : Reg) (off : BitVec 16) : Word := s.reg a + off.signExtend 64

/-- A pair ends: gd is written and the thread moves past both words. -/
def State.pairNext (s : State) (d : Reg) (v : Word) : State := s.setCur ((s.cur.setReg d v).advance 8)

/-- `ld`: gd := zext(mem[addr]) (R91). -/
def doLd (d a : Reg) (off : BitVec 16) (wd : Width) (ord : MemOrd) (sc : Scope) (s : State) : State :=
  s.access (.ld d a off wd ord sc) (s.pairAddr a off) (widthBytes wd) .read fun s loc _ =>
    s.pairNext d (bytesWord (s.loadBytes s.curInstId loc (widthBytes wd)))

/-- `ld` (R91). -/
def execLd (d a : Reg) (off : BitVec 16) (wd : Width) (ord : MemOrd) (sc : Scope) (s : State) : Result :=
  .next (doLd d a off wd ord sc s)

/-- `st`: mem[addr] := the low bytes of gd (R91). -/
def doSt (d a : Reg) (off : BitVec 16) (wd : Width) (ord : MemOrd) (sc : Scope) (atCut : Bool) (s : State) : State :=
  let i : Instr := .st d a off wd ord sc
  s.access i (s.pairAddr a off) (widthBytes wd) .write fun s loc po =>
    let eff (through : Bool) (s : State) : State :=
      let s := s.threadWrite through loc (wordBytes (widthBytes wd) (s.reg d))
      s.setCur (s.cur.advance 8)
    if s.publishes loc po ord sc then s.publishing i [] atCut (eff true) else eff false s

/-- `st` (R91). -/
def execSt (d a : Reg) (off : BitVec 16) (wd : Width) (ord : MemOrd) (sc : Scope) (s : State) : Result :=
  .next (doSt d a off wd ord sc false s)

/-- `amo`: one indivisible read-modify-write; gd := the old value (R91). -/
def doAmo (d a b : Reg) (off : BitVec 16) (wd : Width) (ord : MemOrd) (sc : Scope) (fn : AmoFn) (atCut : Bool)
    (s : State) : State :=
  let i : Instr := .amo d a b off wd ord sc fn
  s.access i (s.pairAddr a off) (widthBytes wd) .atomic fun s loc po =>
    let eff (through : Bool) (s : State) : State :=
      let old := leNat (s.threadRead through loc (widthBytes wd))
      let n := 8 * (widthBytes wd)
      let s := s.threadWrite through loc (natBytes (widthBytes wd) (amoNew fn n old ((s.reg b).toNat % 2 ^ n)))
      s.pairNext d (BitVec.ofNat 64 old)
    if s.publishes loc po ord sc then s.publishing i [] atCut (eff true) else eff false s

/-- `amo` (R91). -/
def execAmo (d a b : Reg) (off : BitVec 16) (wd : Width) (ord : MemOrd) (sc : Scope) (fn : AmoFn) (s : State) : Result :=
  .next (doAmo d a b off wd ord sc fn false s)

/-- `cas`: gb is stored where the old value equals gd; gd := the old value (R91). One that does not store takes its line into the proof
buffer all the same (R225). -/
def doCas (d a b : Reg) (off : BitVec 16) (wd : Width) (ord : MemOrd) (sc : Scope) (atCut : Bool) (s : State) : State :=
  let i : Instr := .cas d a b off wd ord sc
  s.access i (s.pairAddr a off) (widthBytes wd) .atomic fun s loc po =>
    let eff (through : Bool) (s : State) : State :=
      let old := leNat (s.threadRead through loc (widthBytes wd))
      let s := if old = (s.reg d).toNat % 2 ^ (8 * (widthBytes wd)) then
          s.threadWrite through loc (wordBytes (widthBytes wd) (s.reg b))
        else s.threadWrite through loc []
      s.pairNext d (BitVec.ofNat 64 old)
    if s.publishes loc po ord sc then s.publishing i [] atCut (eff true) else eff false s

/-- `cas` (R91). -/
def execCas (d a b : Reg) (off : BitVec 16) (wd : Width) (ord : MemOrd) (sc : Scope) (s : State) : Result :=
  .next (doCas d a b off wd ord sc false s)

/-- `fence`: at SYS scope it publishes; at a narrower scope the one order of steps already keeps what it orders (R94,
R227, log entry 3). -/
def doFence (sc : Scope) (atCut : Bool) (s : State) : State :=
  if sc = .sys then s.publishing (.fence sc) [] atCut State.advance else s.advance

/-- `fence` (R94). -/
def execFence (sc : Scope) (s : State) : Result := .next (doFence sc false s)

end Sys2Proof.Machine
end

