-- ==== Sys2Proof/Machine/SeqSystem.lean ====
section
/-! DEFINITION. Control registers (R37, R90, R113, R304) and the system instructions (R114), with what an undecodable word
does (R66). -/

namespace Sys2Proof.Machine

/-- A remaining budget as a control register shows it; without a budget the spec gives no value (log entry 2). -/
def State.budgetReg (s : State) (free : Bool) (v : Nat) : Word := if free then Config.freeWord s.free else BitVec.ofNat 64 v

/-- The slice of the acting thread. -/
def State.curSlice (s : State) : Option Slice :=
  match s.curInst with
  | some (_, i) => aget? s.slices i.slice
  | none => none

/-- The value of a control register, none for a number that R37 does not list. What the placement gives reads 0 for a
thread of no instance. -/
def State.csr (s : State) (c : BitVec 16) : Option Word :=
  let t := s.cur
  let sh := s.sheet s.curSheet
  match c.toNat with
  | 0x00 => some t.tvec
  | 0x01 => some t.epc
  | 0x02 => some t.cause
  | 0x03 => some t.tval
  | 0x10 => some t.rasBase
  | 0x11 => some t.rasLim
  | 0x12 => some (BitVec.ofNat 64 t.ras.length)
  | 0x13 => some (BitVec.ofNat 64 t.rasSpl)
  | 0x20 => some (BitVec.ofNat 64 s.curCtx)
  | 0x21 => some ((sh.rank.get s.curCtx).setWidth 64)
  | 0x22 => some (BitVec.ofNat 64 s.curSheet)
  | 0x23 => some (match s.curInst with | some (_, i) => BitVec.ofNat 64 i.base | none => 0)
  | 0x24 => some (match s.curInst with | some (_, i) => BitVec.ofNat 64 i.n | none => 0)
  | 0x25 => some (BitVec.ofNat 64 (s.tenantAt s.curSheet s.curCtx))
  | 0x30 => some (BitVec.ofNat 64 s.time)
  | 0x31 => some (match s.curInst with | some (_, i) => BitVec.ofNat 64 i.cycle | none => 0)
  | 0x32 => some (match s.curSlice with
      | some x => s.budgetReg x.workFree (sh.workBase.get s.curCtx - sh.taken.get s.curCtx)
      | none => 0)
  | 0x33 => some (match s.curSlice with | some x => s.budgetReg x.energyFree x.energy | none => 0)
  | 0x34 => some (match s.curSlice with | some x => x.deadline | none => 0)
  | 0x40 => some (match s.curInst with | some (_, i) => i.forme.layver.setWidth 64 | none => 0)
  | _ => none

/-- The word of a `csrr`, which TVAL names where the number is not listed (R64, R66, log entry 18). -/
def csrrWord (d : Reg) (c : BitVec 16) : Word := leNat (encodeBytes (.csrr d c)) |> BitVec.ofNat 64

/-- `csrr`: the register's value; ILLEGAL for a number that is not listed (R37, R64, R66, R113). -/
def execCsrr (d : Reg) (c : BitVec 16) (s : State) : Result :=
  .next (match s.csr c with
    | some v => { s with free := s.free + 1 }.writeNext d v
    | none => s.trap kIllegal (csrrWord d c))

/-- The word of a `csrw`, which TVAL names where the number is not writable (R64, R113). -/
def csrwWord (a : Reg) (c : BitVec 16) : Word := leNat (encodeBytes (.csrw a c)) |> BitVec.ofNat 64

/-- An address that TVEC or EPC takes: a code offset becomes an address of the thread's region (R304); TVEC takes 0 as no
handler (R303, log entry 15). -/
def codeAddress (ctx : Nat) (v : Word) : Word := indirect ctx v

/-- A value of RASBASE or RASLIM lies in own SS outside the code regions and the private area, and is a multiple of 8
(R90). -/
def rasPlace (v : Word) : Bool :=
  decide (v.toNat % 8 = 0) && decide (0xFF00000001000000 ≤ v.toNat) && decide (v.toNat < 0xFF00000001300000)

/-- `csrw` (R90, R113, R304). -/
def execCsrw (a : Reg) (c : BitVec 16) (s : State) : Result :=
  let v := s.reg a
  let t := s.cur
  .next (match c.toNat with
    | 0x00 =>
      if v.toNat % 4 ≠ 0 then s.trap kIllegal v
      else s.setCur ({ t with tvec := if v = 0 then 0 else codeAddress s.curCtx v }.advance 4)
    | 0x01 =>
      if v.toNat % 4 ≠ 0 then s.trap kIllegal v
      else s.setCur ({ t with epc := codeAddress s.curCtx v }.advance 4)
    | 0x10 =>
      if !(rasPlace v) || decide (t.rasLim.toNat < v.toNat) || decide (t.rasSpl ≠ 0) then s.trap kIllegal v
      else s.setCur ({ t with rasBase := v }.advance 4)
    | 0x11 =>
      if !(rasPlace v) || decide (v.toNat < t.rasBase.toNat) || decide (t.rasSpl ≠ 0) then s.trap kIllegal v
      else s.setCur ({ t with rasLim := v }.advance 4)
    | _ => s.trap kIllegal (csrwWord a c))

/-- `trap`: the program trap (R114, R301). -/
def execTrap (c : BitVec 16) (s : State) : Result := .next (s.trapCode kTrap (c.setWidth 64) c)

/-- `brk`: the breakpoint (R114). -/
def execBrk (s : State) : Result := .next (s.trap kBreak 0)

/-- `eret` (R114, R305). -/
def execEret (s : State) : Result := .next s.exceptionReturn

/-- `nop` (R114). -/
def execNop (s : State) : Result := .next s.advance

/-- `wfi`: retires on a set flag when no bound queue holds an entry, else waits; ILLEGAL inside an invocation (R114). -/
def doWfi (s : State) : State :=
  let t := s.cur
  if t.invocation.isSome then s.trap kIllegal 0
  else if t.events ≠ 0 ∧ (s.boundEntry s.curSheet s.curCtx).isNone = true then s.endWait.advance
  else s.waitFor .wfi

/-- `wfi` (R114). -/
def execWfi (s : State) : Result := .next (doWfi s)

/-- Bindings that wait for the end of an invocation take effect (R108). DESIGN CHOICE (log entry 124): one does so even if another thread
has bound the queue meanwhile, as the check is made at the `qbind`. -/
def Thread.bindLater (t : Thread) : Thread :=
  t.laterBinds.foldl (fun t p => t.bind p.1 p.2) { t with laterBinds := [] }

/-- `yield`: inside an invocation, back to waiting in the same `wfi`, with the bindings of the invocation in effect; it
retires itself, the `wfi` not, and whether the invocation popped anything is kept (R254). Outside, the turn ends (R108, R114). -/
def execYield (s : State) : Result :=
  .next (match s.cur.invocation with
    | some pc => s.retire.setCur { s.cur.bindLater with invocation := none, pc := pc, wait := some .wfi, popless := false, barren := s.cur.popless }
    | none => s.advance.endTurn s.curSheet s.curCtx)

/-- A word that does not decode traps ILLEGAL with the word in TVAL (R66). -/
def execIllegalInstruction (w : Word) (s : State) : Result := .next (s.trap kIllegal w)

end Sys2Proof.Machine
end

