-- ==== Sys2Proof/Machine/SeqEvents.lean ====
section
/-! DEFINITION. What happens to threads and queues between instructions: a waiting instruction retires (R84), a handler
invocation starts (R108, R254), a waiting push is accepted and a galley refills its queue (R253). -/

namespace Sys2Proof.Machine

/-- An instruction that an access holds up, made anew (R41, R92, R307); `atCut` at a commit (R227). -/
def redo (i : Instr) (atCut : Bool) (s : State) : State :=
  match i with
  | .ld d a off wd ord sc => doLd d a off wd ord sc s
  | .st d a off wd ord sc => doSt d a off wd ord sc atCut s
  | .amo d a b off wd ord sc fn => doAmo d a b off wd ord sc fn atCut s
  | .cas d a b off wd ord sc => doCas d a b off wd ord sc atCut s
  | .fence sc => doFence sc atCut s
  | .call o => doCall o s
  | .callr a => doCallr a s
  | .ret => doRet s
  | .dset n a => doDset n a s
  | .amsg a f => doAmsg a f s
  | .await d a => doAwait d a s
  | .apoll d a => doApoll d a s
  | .qpush k a b => doQpush k a b s
  | .qctl k a b => doQctl k a b s
  | .xq d a b => doXq d a b s
  | .fload d a => doFload d a s
  | .frun a => doFrun a s
  | .flay d a => doFlay d a atCut s
  | _ => s

/-- A publishing access performed as part of a commit, with what it read at issue (R109, R227). -/
def publish (i : Instr) (read : List Byte) (s : State) : State :=
  match i with
  | .xq d a _ => sendXq d a read s
  | i => redo i true s

/-- The acting thread's waiting instruction tried again under its own condition (R84, R114); what only an event of its own
ends is left. -/
def State.retry (s : State) (w : Wait) : State :=
  match w with
  | .await d a => doAwait d a s.endWait
  | .qpop d k => doQpop d k s
  | .bar b => match s.curInst with
    | some (_, i) => s.tryRelease i b
    | none => s
  | .evwait d mask => doEvwait d mask s
  | .wfi => doWfi s
  | .stbar l => if l.any fun k => ((aget? s.streams k).map fun st => decide (st.state = .live)).getD false then s
      else s.endWait.advance
  | .port inbound k n x => doStream inbound k n x s.endWait
  | .amsg f flits => s.forkMessage f flits
  | .access i .range | .access i .proofFull | .access i .heldLine => redo i false s.endWait
  | .access _ (.miss _) | .publish _ _ | .qpush => s

/-- The thread made to act. -/
def State.actAs (s : State) (sheet ctx : Nat) : State := { s with curSheet := sheet, curCtx := ctx }

/-- A retry's end: the instruction has retired, and is charged, unless it waits on or has trapped. A barrier's release
charges its threads itself. -/
def State.afterRetry (s : State) (w : Wait) : State :=
  match w with
  | .bar _ => s
  | _ =>
    let s := if s.cur.wait.isSome then s else s.setCur { s.cur with invalid := none }
    if s.cur.wait.isSome || s.cur.entering then s else s.retire

/-- A waiting instruction retires once its own condition holds (R84, R102, R104, R112, R114); before, nothing happens. -/
def execWaitingInstructionRetire (sheet ctx : Nat) (s : State) : Result :=
  .next (match (s.thread sheet ctx).wait with
    | none => s
    | some w =>
      if s.threadMay sheet ctx then
        let s := (s.actAs sheet ctx).retry w
        s.afterRetry w
      else s)

/-- A handler invocation starts, where the thread waits in `wfi`, a bound queue holds an entry, and the sequencer's choice falls on the
thread; the lowest-numbered such queue's handler runs (R108, R246, R254). -/
def execHandlerInvocation (sheet ctx : Nat) (s : State) : Result :=
  let t := s.thread sheet ctx
  .next (match s.boundEntry sheet ctx with
    | none => s
    | some (_, h) =>
      if s.canInvoke sheet ctx && decide (s.chooseThread sheet = some ctx) then
        s.setThread sheet ctx { t with wait := none, invocation := some t.pc, pc := h, popless := true }
      else s)

/-- A waiting push is accepted when there is room (R253). -/
def execQueuePushAccept (sheet q : Nat) (s : State) : Result := .next (s.acceptWaiting sheet q)

/-- The galley's head moves into the hardware queue (R253, R271). -/
def execGalleyRefill (sheet q : Nat) (s : State) : Result := .next (s.refill sheet q)

end Sys2Proof.Machine
end

