-- ==== Sys2Proof/Machine/FabricEvents.lean ====
section
/-! DEFINITION. Events of the fabric: a token arrives (R15, R16, R116, R119, R222, R310, R321), enters the matching store
(R250), a firing starts (R15, R194, R196, R234, R241, R245), an `mm` is interrupted and resumed (R161–R163), a stream moves
its next point (R97–R99), a wake token arrives (R307). -/

namespace Sys2Proof.Machine

/-- An activity event of a context of a sheet is counted (R262). -/
def State.count (s : State) (sheet ctx event : Nat) : State :=
  let sh := s.sheet sheet
  let l := sh.activity.get ctx
  s.setSheet sheet { sh with activity := sh.activity.set ctx (aset l event (agetD l event 0 + 1)) }

/-! ### Tokens arrive -/

/-- The side by which a way enters a sheet from another: 0 N, 1 E, 2 S, 3 W. -/
def enteredBy (left entered : Nat) : Nat :=
  if packX left < packX entered then 3
  else if packX entered < packX left then 1
  else if packY left < packY entered then 0
  else 2

/-- The edge ports that a way passes: the sheets it enters, and the side of each by which it enters (R355). -/
def wayCrossings (l : List (Nat × Nat)) : List (Nat × Nat) :=
  match l with
  | a :: b :: r => if a.1 = b.1 then wayCrossings (b :: r) else (b.1, enteredBy a.1 b.1) :: wayCrossings (b :: r)
  | _ => []

/-- The edge ports an edge's tokens pass (R263, R355). -/
def Edge.crossings (e : Edge) : List (Nat × Nat) := wayCrossings e.way

/-- The way of an edge lies on a sheet whose clock stands (R285). -/
def State.wayStopped (s : State) (e : Edge) : Bool := e.way.any fun p => s.stopped p.1

/-- An edge port has allowance left in this window (R263). -/
def State.edgeOpen (s : State) (p : Nat × Nat) : Bool :=
  decide ((s.sheet p.1).edgeUsed.get p.2 < (s.sheet p.1).edgeAllow.get p.2)

/-- The sheet from which a token enters another by a side of it (R355). -/
def enteredFrom (p : Nat × Nat) : Nat :=
  let x := packX p.1
  let y := packY p.1
  match p.2 with
  | 0 => sheetAt x (y - 1)
  | 1 => sheetAt (x + 1) y
  | 2 => sheetAt x (y + 1)
  | _ => sheetAt (x - 1) y

/-- A token has passed an edge port: it is in at the sheet it enters and out at the one it leaves (R262, R263). -/
def State.passEdge (s : State) (ctx : Nat) (p : Nat × Nat) : State :=
  let sh := s.sheet p.1
  ((s.setSheet p.1 { sh with edgeUsed := sh.edgeUsed.set p.2 (sh.edgeUsed.get p.2 + 1), edgeLast := sh.edgeLast.set p.2 ctx }).count
    p.1 ctx 20).count (enteredFrom p) ctx 21

/-- A token taken off the front of an edge has passed its edge ports, which is progress where there are any (R255, R263). -/
def State.passEdges (s : State) (id ctx : Nat) (l : List (Nat × Nat)) : State :=
  let s := l.foldl (fun s p => s.passEdge ctx p) s
  if l.isEmpty then s else s.progress id

/-- A token of a route has passed a switch in this rate window (R32). -/
def State.countEdge (s : State) (ctx edge : Nat) (at_ : Nat × Nat) : State :=
  let t := s.tile at_.1 at_.2
  s.setTile at_.1 at_.2 { t with counters := aset t.counters (ctx, edge) (agetD t.counters (ctx, edge) 0 + 1) }

/-- The first item of an edge taken off. -/
def State.popEdge (s : State) (id edge : Nat) : State :=
  s.updInst id fun i => { i with edges := amap i.edges fun k e => if k = edge then { e with items := e.items.drop 1 } else e }

/-- A node's context already holds a token with the matching tag at the port (R119). -/
def State.holdsTag (s : State) (n : NodeId) (ctx port : Nat) (t : Token) : Bool :=
  (s.waitingAt n ctx 0x0F00 port).any fun q => decide (q.tok.fireTag = t.fireTag)

/-- A duplicate (R119, R321): the first causes a rollback; the same one again during the replay is reported, and discarded
when the report closes. -/
def State.duplicate (s : State) (id edge : Nat) (i : Inst) (n : NodeId) (port : Nat) (t : Token) : State :=
  let key := (n, t.fireTag, port)
  if i.dupSeen.contains key then
    let r := nodeReport n i.ctx t.slot kDuptag 0 t.bits none
    (s.popEdge id edge).report id { r with discard := some t }
  else (s.updInst id fun i => { i with dupSeen := key :: i.dupSeen }).beginRollback id

/-- The channel state of a node when a token arrives: after its save and before the bellwether's return, what arrives on a cycle
port belongs to it (R310). -/
def NodeCtx.caught (c : NodeCtx) (port edge : Nat) (cycle : Bool) (t : Token) : List (Nat × Token) :=
  if cycle && c.saved && !(c.belled.contains edge) then c.channel ++ [(port, t)] else c.channel

/-- A token joins the queue of a port (R16), and the channel state of a cycle port where it belongs there (R310). -/
def State.enqueue (s : State) (n : NodeId) (ctx port edge : Nat) (cycle : Bool) (t : Token) : State :=
  let c := s.nodeCtx n ctx
  let q : QToken := { tok := t, arrived := s.cycle, edge := edge }
  s.setNodeCtx n ctx { c with queues := c.queues.set port (c.queues.get port ++ [q]), channel := c.caught port edge cycle t }

/-- A token becomes the parameter of a port of an actor, named by its header (R116), and channel state under the same conditions (R310). -/
def State.setParam (s : State) (n : NodeId) (ctx hdr port edge : Nat) (cycle : Bool) (t : Token) : State :=
  let c := s.nodeCtx n ctx
  let q : QToken := { tok := t, arrived := s.cycle, edge := edge }
  s.setNodeCtx n ctx { c with
    params := c.params.set hdr ((c.params.get hdr).set port (some q)), channel := c.caught port edge cycle t }

/-- The first token of an edge is taken at the edge's end: it has passed the edge ports and the switches on its way, each of which
counts it for its route, and each hop for its context (R32, R73, R262, R263; when they count it: DESIGN CHOICE, log entry 6). -/
def State.takeToken (s : State) (id edge : Nat) (i : Inst) (e : Edge) : State :=
  let s := (s.popEdge id edge).passEdges id i.ctx e.crossings
  let s := e.way.eraseDups.foldl (fun s p => s.countEdge i.ctx edge p) s
  e.hops.foldl (fun s p => s.count p.1 i.ctx p.2.2) s

/-- A token comes to a port of a node (R15, R16, R116, R119): it is queued, replaces a parameter, is reported, or waits while
the queue holds 4. -/
def State.deliver (s : State) (id edge : Nat) (i : Inst) (e : Edge) (n : NodeId) (port : Nat) (t0 : Token) : State :=
  let t := { t0 with port := BitVec.ofNat 2 port }
  let c := s.nodeCtx n i.ctx
  let take (s : State) : State := s.takeToken id edge i e
  let full := decide (4 ≤ (c.queues.get port).length)
  match c.headerFor t.slot.toNat with
  | none => (take s).report id (nodeReport n i.ctx t.slot kIllegalOp 4 t.bits none)
  | some (hd, h, _) =>
    match portMode h port with
    | .off | .unassigned => (take s).report id (nodeReport n i.ctx t.slot kIllegalOp 2 t.bits none)
    | .stream 0 => (take s).setParam n i.ctx hd port edge e.cycle t
    | .stream _ => if full then s else (take s).enqueue n i.ctx port edge e.cycle t
    | .tagged =>
      if full then s
      else if s.holdsTag n i.ctx port t then s.duplicate id edge i n port t
      else (take s).enqueue n i.ctx port edge e.cycle t

/-- A token that comes to a wide port ahead of the marker belongs to the cut (log entry 61). -/
def Area.catchToken (a : Area) (edge sheet port : Nat) (t : Token) : Area :=
  if a.rung.contains edge then a else { a with wide := a.wide ++ [(sheet, port, t)] }

/-- A token comes to a wide port and waits there for the port's outbound stream (R97). -/
def State.deliverWide (s : State) (id edge : Nat) (i : Inst) (e : Edge) (sheet port : Nat) (t : Token) : State :=
  let s := s.takeToken id edge i e
  let s := s.updInst id fun i => { i with cutting := i.cutting.map fun a => a.catchToken edge sheet port t }
  let sh := s.sheet sheet
  let key := (port, i.ctx)
  (s.setSheet sheet { sh with wide := aset sh.wide key (agetD sh.wide key [] ++ [.token t s.cycle]) }).progress id

/-- The bellwether of a cut comes to a node by an edge (R310). -/
def State.ring (s : State) (id edge : Nat) (i : Inst) (n : NodeId) : State :=
  let c := s.nodeCtx n i.ctx
  (s.popEdge id edge).setNodeCtx n i.ctx { c with belled := edge :: c.belled }

/-- The bellwether comes to a wide port by an edge, as an outbound marker (R313). -/
def State.ringWide (s : State) (id edge : Nat) : State :=
  (s.popEdge id edge).updInst id fun i => { i with cutting := i.cutting.map fun a => { a with rung := edge :: a.rung } }

/-- The node takes nothing by an aligning edge whose bellwether has come until it has saved (R310). -/
def NodeCtx.holdsEdge (c : NodeCtx) (edge : Nat) (e : Edge) : Bool := !e.cycle && c.belled.contains edge && !c.saved

/-- The end of an edge is on a tile whose configuration is not complete: what arrives there waits (R11). -/
def Inst.unready (i : Inst) (e : EdgeEnd) : Bool :=
  match e with
  | .wide _ _ => false
  | .actor a _ => match aget? i.forme.actors a with
    | some x => !(i.configured.contains ((x.members.headD x.home).sheet, (x.members.headD x.home).tile))
    | none => false

/-- The token that is first on an edge would be taken at the edge's end now (R11, R15, R263, R310). -/
def State.wouldTake (s : State) (i : Inst) (edge : Nat) (e : Edge) : Bool :=
  match e.items with
  | .token t _ :: _ =>
    !(i.unready e.dst) && e.crossings.all s.edgeOpen && !i.restoring && !(s.wayStopped e) &&
    (match e.dst with
     | .wide _ _ => true
     | .actor a port => match aget? i.forme.actors a with
       | none => false
       | some x =>
         let c := s.nodeCtx (x.members.headD x.home) i.ctx
         !(c.holdsEdge edge e) && match c.headerFor t.slot.toNat with
           | none => true
           | some (_, h, _) => match portMode h port with
             | .tagged | .stream (_ + 1) => decide ((c.queues.get port).length < 4)
             | _ => true)
  | _ => false

/-- The contexts that have a token to pass an edge port of a sheet, by edges that a test picks (R263). -/
def State.edgeWants (s : State) (p : Nat × Nat) (q : List (Nat × Nat) → Bool) : List Nat :=
  (List.range 4).filter fun c => match s.instAt p.1 c with
    | none => false
    | some (_, i) => i.edges.any fun e => q e.2.crossings && s.wouldTake i e.1 e.2

/-- A token of a context may pass the edge ports on its way: none of them has a token of a higher rank, and at the first of them it
is the context's turn among those of equal rank (R263). -/
def State.edgeTurn (s : State) (ctx : Nat) (l : List (Nat × Nat)) : Bool :=
  (l.all fun p => (s.topContexts p.1 (ctx :: s.edgeWants p fun l => l.contains p)).contains ctx) &&
  match l with
  | [] => true
  | p :: _ =>
    let top := s.topContexts p.1 (ctx :: s.edgeWants p fun l => decide (l.head? = some p))
    (((List.range 4).map fun k => ((s.sheet p.1).edgeLast.get p.2 + 1 + k) % 4).find? fun c => top.contains c) == some ctx

/-- What is first on an edge arrives at its end. A slug waits for its event (R223), and so does what stands behind it; at an
edge port without allowance, or whose turn is another context's, the token waits (R263), and at a tile that is not configured everything does (R11). -/
def State.arrive (s : State) (id edge : Nat) (i : Inst) (e : Edge) : State :=
  if i.unready e.dst then s
  else match e.items with
  | [] | .slug _ :: _ => s
  | .bell _ :: _ =>
    match e.dst with
    | .wide _ _ => s.ringWide id edge
    | .actor a _ => match aget? i.forme.actors a with
      | none => s.popEdge id edge
      | some x => s.ring id edge i (x.members.headD x.home)
  | .token t _ :: _ =>
    if !(e.crossings.all s.edgeOpen) || !(s.edgeTurn i.ctx e.crossings) then s
    else match e.dst with
      | .wide sheet port => s.deliverWide id edge i e sheet port t
      | .actor a port => match aget? i.forme.actors a with
        | none => s
        | some x =>
          let n := x.members.headD x.home
          if (s.nodeCtx n i.ctx).holdsEdge edge e then s
          else s.deliver id edge i e n port t

/-- What is first on an edge of an instance arrives (R222). While the instance is being restored nothing moves (R315), nor where the
clock of a bulkhead on its way stands (R285). -/
def execTokenArrival (id edge : Nat) (s : State) : Result :=
  .next (match aget? s.insts id with
    | none => s
    | some i => match aget? i.edges edge with
      | none => s
      | some e => if i.restoring || s.wayStopped e then s else s.arrive id edge i e)

/-! ### The matching store (R250) -/

/-- A token of a port is bound for the matching store: its actor declares the port tagged. -/
def NodeCtx.bound (c : NodeCtx) (port : Nat) (t : Token) : Bool :=
  match c.headerFor t.slot.toNat with
  | some (_, h, _) => decide (portMode h port = .tagged)
  | none => false

/-- How a token can be admitted now: into an unreserved entry (some false), a reserved one (some true), or not (R250). -/
def Tile.admits (tl : Tile) (ctx : Nat) (t : Token) : Option Bool :=
  if (tl.store.countP fun e => !e.reserved) < 1008 then some false
  else if decide ((tl.store.countP fun e => e.reserved) < 16) &&
      decide (agetD tl.lo (ctx, t.colour.toNat) 0 = t.iter) then some true
  else none

/-- The token at a place of an input queue enters the matching store: the first bound for it, or a later one that qualifies
for a reserved entry while the first waits for room (R250); none while the bulkhead's clock stands (R285). -/
def execMatchingStoreAdmit (n : NodeId) (ctx port place : Nat) (s : State) : Result :=
  let c := s.nodeCtx n ctx
  let l := c.queues.get port
  let tl := s.tile n.sheet n.tile
  .next (match l[place]? with
    | none => s
    | some q =>
      let head := (l.take place).all fun p => !(c.bound port p.tok)
      match tl.admits ctx q.tok with
      | none => s
      | some res =>
        if !(s.stopped n.sheet) && !(s.restoringAt n.sheet ctx) && c.bound port q.tok && (head || res) then
          let s := s.setTile n.sheet n.tile { tl with store := tl.store ++ [{ qt := q, node := n, reserved := res }] }
          (s.setNodeCtx n ctx { c with queues := c.queues.set port (l.eraseIdx place) }).count n.sheet ctx 12
        else s)

/-! ### Firings start -/

/-- Queued tokens without the first that is a given one. -/
def dropToken (l : List QToken) (t : Token) : List QToken :=
  match l with
  | [] => []
  | q :: r => if q.tok = t then r else q :: dropToken r t

/-- One token consumed: from the matching store where it waits there, else from the port's queue (R15, R250). -/
def State.consume (s : State) (n : NodeId) (ctx port : Nat) (t : Token) : State :=
  let tl := s.tile n.sheet n.tile
  let mine (e : StoreEntry) : Bool := decide (e.node = n) && decide (e.qt.tok = t)
  if tl.store.any mine then
    (s.setTile n.sheet n.tile { tl with store := tl.store.filter fun e => !(mine e) }).count n.sheet ctx 13
  else
    let c := s.nodeCtx n ctx
    s.setNodeCtx n ctx { c with queues := c.queues.set port (dropToken (c.queues.get port) t) }

/-- The tokens of a set consumed. -/
def State.consumeAll (s : State) (n : NodeId) (ctx : Nat) (ops : Quad (List Token)) : State :=
  (List.range 4).foldl (fun s k => (ops.get k).foldl (fun s t => s.consume n ctx k t) s) s

/-- At the first firing of a block, a member of a SCAN set starts from the identity for C's tag (R234). -/
def State.startBlock (s : State) (n : NodeId) (ctx : Nat) (a : Actor) : State :=
  match a.carry, stateReg (s.nodeCtx n ctx).slots a.extent with
  | some c, some k =>
    if (a.started - a.base) % actorBlock a.header = 0 then
      s.setKeep n ctx k ⟨c.tag, (combIdentity (actorComb a.header) c.tag).getD 0⟩
    else s
  | _, _ => s

/-- The number of a node class among the activity events of firings (R262). -/
def firingEvent (c : NodeClass) : Option Nat :=
  match c with
  | .element => some 8
  | .ag => some 9
  | .pa => some 10
  | .fe => some 11
  | .cv => none

/-- The firing that a candidate starts. -/
def Cand.firing (x : Cand) (seq : Nat) : Firing := newFiring x.ctx x.actor x.hdr seq x.set

/-- A firing starts on its node (R15, R194, R196, R241): the tokens are consumed, the actor's counts move on, its unit is
charged, and that is progress (R255). -/
def State.beginFiring (s : State) (n : NodeId) (x : Cand) (dropped : Bool) : State :=
  match s.actor? x.inst x.actor with
  | none => s
  | some a =>
    let s := s.consumeAll (a.members.headD a.home) x.ctx x.set.operands
    let s := s.startBlock n x.ctx a
    let c := s.nodeCtx n x.ctx
    let s := s.setNodeCtx n x.ctx { c with counters := c.counters.set x.hdr (c.counters.get x.hdr + 1) }
    let s := s.updActor x.inst x.actor fun a =>
      { a with started := a.started + 1, active := a.active ++ [a.started], dealt := 0 }
    let f := x.firing a.started
    let s := s.setNode n { s.node n with running := some f, last := x.ctx }
    let s := (s.takeWork x.inst n.sheet x.ctx).progress x.inst
    let s := match firingEvent n.cls with
      | some k => s.count n.sheet x.ctx k
      | none => s
    -- a combine that dropped a tuple is reported against the firing at its first op word (R172)
    if dropped then s.opIllegal n f 1 else s

/-- Firings of the splitters of a set that the next dealt firing still takes: one for each token it consumes (R224, R241; log entry
58). -/
def Actor.splits (a : Actor) (x : MatchSet) : Nat :=
  if a.members.length ≤ 1 then 0 else ((List.range 4).map fun k => (x.operands.get k).length).sum - a.dealt

/-- A ready firing is started: the set is uncloned first where it must be (R196, R235); the splitters of a set fire first, as far as
the sheet's units reach, which is progress (R255), and without a unit left for the firing itself it waits for the next grant (R224, R242). -/
def State.startFiring (s : State) (n : NodeId) (x : Cand) : State :=
  let u := if x.whole then s.uncloneSet x.inst x.actor else (s, false)
  let s := u.1
  match s.actor? x.inst x.actor with
  | none => s
  | some a =>
    let need := a.splits x.set
    let units := (s.sheet n.sheet).units.get x.ctx
    let s := s.takeWorks x.inst n.sheet x.ctx (min need units)
    let s := if min need units = 0 then s else s.progress x.inst
    if need = 0 ∨ need < units then s.beginFiring n x u.2
    else s.updActor x.inst x.actor fun a => { a with dealt := a.dealt + min need units }

/-- A node chooses and starts a ready firing (R245); requests for colours reach the pool on the way (R252). With a firing in
progress, none to start, or a suspended `mm` to resume first, nothing starts. -/
def execFiringStart (n : NodeId) (s : State) : Result :=
  .next (if (s.node n).running.isSome || s.stopped n.sheet then s
    else
      let s := s.askColours n
      match (s.choose n).bind fun c => c.start with
      | none => s
      | some x => s.startFiring n x)

/-! ### mm interrupted and resumed (R161–R163) -/

/-- The 64 bytes of an interruption record (R161). -/
def recordBytes (f : Firing) (c : MmCtl) (ctl : W32) (img q : Nat) : List Byte :=
  natBytes 64 (ctl.toNat + 2 ^ 32 * f.rows + 2 ^ 38 * c.bank + 2 ^ 39 * c.store + 2 ^ 40 * q + 2 ^ 48 * img +
    2 ^ 80 * f.pc + 2 ^ 88 * f.tag.colour.toNat + 2 ^ 96 * f.tag.iter.toNat + 2 ^ 104)

/-- An FP32 bank as it is saved: row r and column n at 512·r + 4·n (R161). -/
def bankBytes (b : Bank) : List Byte := (List.range 8192).flatMap fun k => natBytes 4 (b.entries.getD k 0).toNat

/-- The bank in 32,768 bytes, owned by a context (R163). -/
def bankOf (bs : List Byte) (ctx : Nat) : Bank :=
  { int48 := false, owner := some ctx,
    entries := (List.range 8192).map fun k => BitVec.ofNat 48 (leNat ((bs.drop (4 * k)).take 4)) }

/-- The control word of a suspended or running `mm`. -/
def State.mmCtlToken (s : State) (n : NodeId) (f : Firing) : W32 := ((s.mmToken n f).map fun t => t.value).getD 0

/-- A running `mm` is interrupted at the end of a row: its bank and the record go to the context's save slot, the bank is
free, and the firing is suspended (R162). -/
def execMmInterrupt (n : NodeId) (s : State) : Result :=
  .next (match s.interruptDue n with
    | none => s
    | some (f, c) =>
      match (s.node n).store c.store with
      | none => s
      | some ws =>
        let b := (s.node n).bank c.bank
        let at_ := sheetLoc n.sheet (s.nodeCtx n f.ctx).saveSlot
        let bytes := bankBytes b ++ recordBytes f c (s.mmCtlToken n f) ws.img ws.q
        let s := { s with mem := s.mem.write at_ bytes }
        let v := (s.node n).setBank c.bank { b with owner := none }
        s.setNode n { v with running := none, suspended := v.suspended ++ [f] })

/-- The interruption record of a context's save slot, as a number (R161). -/
def State.slotRecord (s : State) (n : NodeId) (ctx : Nat) : Nat :=
  leNat (s.mem.read (sheetLoc n.sheet (s.nodeCtx n ctx).saveSlot + 0x8000) 64)

/-- The store that a suspended `mm` used is still its context's (R163). -/
def State.keepsStore (s : State) (n : NodeId) (f : Firing) (c : MmCtl) : Bool :=
  ((s.node n).store c.store).any fun w => decide (w.owner = f.ctx)

/-- The image that the record names may be read now: no held range of the scoreboard overlaps it (R219). -/
def State.reloadFree (s : State) (n : NodeId) (f : Firing) : Bool :=
  let r := s.slotRecord n f.ctx
  decide (s.imageAns n f.ctx (bitsOf r 48 21) (bitsOf r 40 2) ≠ some .range)

/-- The choice of a node is to resume the suspended `mm` of a context (R163, R247). -/
def State.resumeDue (s : State) (n : NodeId) : Option (Firing × MmCtl) :=
  if (s.node n).running.isSome || s.stopped n.sheet then none
  else match s.choose n with
    | none => none
    | some x => x.resume.bind fun f => (s.mmOf n f).bind fun c =>
      if s.slotFree n f.ctx && (s.keepsStore n f c || s.reloadFree n f) then some (f, c) else none

/-! ### Streams (R97–R99) -/

/-- The number of points of a pattern (R95). -/
def Desc.points (d : Desc) : Nat := d.c0.toNat * d.c1.toNat * d.c2.toNat

/-- The address of a point (R95). -/
def Desc.point (d : Desc) (k : Nat) : Word :=
  let i := k % d.c0.toNat
  let j := k / d.c0.toNat % d.c1.toNat
  let l := k / (d.c0.toNat * d.c1.toNat)
  d.base + BitVec.ofInt 64 ((i : Int) * d.s0.toInt + (j : Int) * d.s1.toInt + (l : Int) * d.s2.toInt)

/-- A stream as an agent. -/
def State.streamAgent (s : State) (st : Stream) : Agent :=
  { cls := .stream, sheet := st.sheet, ctx := st.ctx, tenant := s.tenantAt st.sheet st.ctx, inst := st.inst,
    covered := none }

/-- A stream replaced. -/
def State.setStream (s : State) (k : Nat) (st : Stream) : State := { s with streams := aset s.streams k st }

/-- A stream after one more point (R97). -/
def Stream.step (st : Stream) : Stream :=
  let c := st.cursor + 1
  { st with cursor := c, state := if st.desc.points ≤ c then .drained else st.state }

/-- A stream stops at a point, which is reported (R99). -/
def State.stopStream (s : State) (k : Nat) (st : Stream) (kind : BitVec 8) (addr : Word) : State :=
  (s.setStream k { st with state := .stopped, stall := none, invalid := false }).report st.inst (streamReport st kind addr)

/-- The access of a point: it stops the stream, stalls, waits, or goes on with its location (R99). -/
def State.pointAccess (s : State) (k : Nat) (st : Stream) (kind : AccessKind) (go : State → Nat → State) : State :=
  let addr := st.desc.point st.cursor
  if st.invalid then s.stopStream k st kXlate addr
  else
    let g := s.streamAgent st
    let r := s.resolve g addr.toNat 4 kind
    match r.2 with
    | .ok loc _ => go r.1 loc
    | .miss =>
      let p := r.1.postStall g (.stream k) kind addr.toNat 0 0 0 0
      p.2.setStream k { st with stall := some p.1 }
    | .range | .full | .line => r.1
    | .xlate => r.1.stopStream k st kXlate addr
    | .access => r.1.stopStream k st kAccess addr
    | .lost => r.1.loseInst st.inst

/-- The allowance of a wide port in this window has room (R263). -/
def Sheet.wideOpen (sh : Sheet) (port : Nat) : Bool := decide (agetD sh.wideUsed port 0 < agetD sh.wideAllow port 512)

/-- An inbound stream of a live set can inject now: it has a word read ahead, or its next point can be read, and every edge of its
port has room (R97). -/
def State.canInject (s : State) (st : Stream) : Bool :=
  match aget? s.insts st.inst with
  | none => false
  | some i =>
    let edges := i.edgesFrom (.wide st.sheet st.port)
    st.inbound && decide (st.state = .live) && !edges.isEmpty && i.edgeRoom edges && !(i.holds st.sheet) &&
      (!st.ahead.isEmpty || (st.stall.isNone && !st.invalid &&
        match (s.resolve (s.streamAgent st) (st.desc.point st.cursor).toNat 4 .read).2 with
        | .ok _ _ => true
        | _ => false))

/-- The context whose stream injects next at a wide port: of the highest rank, and of equal ranks in turn (R263). -/
def State.portChoice (s : State) (sheet port : Nat) : Option Nat :=
  let can := (List.range 4).filter fun c => s.streams.any fun p =>
    decide (p.2.sheet = sheet) && decide (p.2.port = port) && decide (p.2.ctx = c) && s.canInject p.2
  let top := s.topContexts sheet can
  ((List.range 4).map fun k => (agetD (s.sheet sheet).wideLast port 3 + 1 + k) % 4).find? fun c => top.contains c

/-- The token of a stream's next point enters the fabric on every edge of its port (R97, R262, R263). -/
def State.injectPoint (s : State) (k : Nat) (st : Stream) (i : Inst) (edges : List Nat) (v : W32) : State :=
  let t : Token := { width := i.forme.widthField st.desc.colour, ctx := BitVec.ofNat 2 st.ctx, colour := st.desc.colour,
                     iter := st.desc.iter, slot := st.desc.slot, port := 0, fmt := st.desc.fmt, value := v }
  let sh := s.sheet st.sheet
  let s := s.setSheet st.sheet { sh with
    wideUsed := aset sh.wideUsed st.port (agetD sh.wideUsed st.port 0 + 1), wideLast := aset sh.wideLast st.port st.ctx }
  let s := (s.setStream k { st.step with ahead := st.ahead.drop 1, invalid := st.invalid && !st.ahead.isEmpty }).updInst st.inst
    fun i => i.pushEdges edges (.token t s.cycle)
  (s.count st.sheet st.ctx 18).progress st.inst

/-- An inbound stream injects its next point: the word read ahead, else the word that stands there now, once every edge of its port
has room and the port is its context's (R97, R98, R257, R263). -/
def State.pointIn (s : State) (k : Nat) (st : Stream) (i : Inst) : State :=
  let edges := i.edgesFrom (.wide st.sheet st.port)
  let turn := match s.portChoice st.sheet st.port with
    | some c => decide (c = st.ctx)
    | none => true
  if edges.isEmpty || !((s.sheet st.sheet).wideOpen st.port) || !(i.edgeRoom edges) || !turn then s
  else match st.ahead with
    | v :: _ => s.injectPoint k st i edges v
    | [] =>
      if st.stall.isSome then s
      else s.pointAccess k st .read fun s loc => s.injectPoint k st i edges (BitVec.ofNat 32 (leNat (s.loadBytes st.inst loc 4)))

/-- An inbound stream of an issue group or of the held set reads its next point ahead; a point that would stop the stream is left to
the time when it is next (R98, R99). -/
def State.readAhead (s : State) (k : Nat) (st : Stream) : State :=
  let next := st.cursor + st.ahead.length
  let addr := st.desc.point next
  if st.desc.points ≤ next ∨ st.invalid = true ∨ st.stall.isSome = true then s
  else
    let g := s.streamAgent st
    let r := s.resolve g addr.toNat 4 .read
    match r.2 with
    | .ok loc _ =>
      r.1.setStream k { st with ahead := st.ahead ++ [BitVec.ofNat 32 (leNat (r.1.loadBytes st.inst loc 4))] }
    | .miss =>
      let p := r.1.postStall g (.stream k) .read addr.toNat 0 0 0 0
      p.2.setStream k { st with stall := some p.1 }
    | .range | .full | .line | .xlate | .access | .lost => s

/-- What waits first at a wide port taken off. -/
def State.popWide (s : State) (sheet port ctx : Nat) : State :=
  let sh := s.sheet sheet
  let key := (port, ctx)
  s.setSheet sheet { sh with wide := aset sh.wide key ((agetD sh.wide key []).drop 1) }

/-- An outbound stream writes the token that waits first at its port to its next point; a token of another format is
discarded and stops the stream (R97, R99). -/
def State.pointOut (s : State) (k : Nat) (st : Stream) : State :=
  match agetD (s.sheet st.sheet).wide (st.port, st.ctx) [] with
  | .token t _ :: _ =>
    if t.fmt ≠ st.desc.fmt then
      (s.popWide st.sheet st.port st.ctx).stopStream k st kFmt (st.desc.point st.cursor)
    else s.pointAccess k st .write fun s loc =>
      let s := (s.popWide st.sheet st.port st.ctx).storeBytes (s.streamAgent st) loc (natBytes 4 t.value.toNat)
      let s := s.setStream k { st.step with invalid := false }
      (s.count st.sheet st.ctx 19).progress st.inst
  | _ => s

/-- A stream moves its next point (R97): a live one injects or writes it; an inbound one of an issue group or of the held set reads
ahead (R98). Stalled, of a frozen instance or at its end it moves nothing (R99, R305). -/
def execStreamPoint (k : Nat) (s : State) : Result :=
  .next (match aget? s.streams k with
    | none => s
    | some st => match aget? s.insts st.inst with
      | none => s
      | some i =>
        if i.holds st.sheet || s.stopped st.sheet then s
        else match st.state with
          | .live =>
            if st.inbound then s.pointIn k st i else if st.stall.isSome then s else s.pointOut k st
          | .group | .held => if st.inbound then s.readAhead k st else s
          | .drained | .stopped | .cancelled => s)

/-! ### Wake tokens (R307) -/

/-- A thread's stalled access is made anew, or faults XLATE (R92, R307); that of an instance that is being restored is dropped (R315). -/
def State.wakeThread (s : State) (sheet ctx : Nat) (tag : BitVec 16) (addr : Nat) (mapped : Bool) : State :=
  let t := s.thread sheet ctx
  match t.wait with
  | some (.access i (.miss tg)) =>
    if tg = tag ∧ s.restoringAt sheet ctx = false then
      let s := (s.setThread sheet ctx { t with wait := none, invalid := if mapped then none else some (BitVec.ofNat 64 addr) }).actAs sheet ctx
      let s := redo i false s
      let s := if s.cur.wait.isSome then s else s.setCur { s.cur with invalid := none }
      if s.cur.wait.isSome || s.cur.entering then s else s.retire
    else s
  | _ => s

/-- An AG's stalled firing goes on from the same op word, and the retry counter rises (R143). -/
def State.wakeAg (s : State) (n : NodeId) (tag : BitVec 16) (mapped : Bool) : State :=
  let v := s.node n
  match v.running with
  | some f =>
    if f.wait = .miss tag then
      let c := v.ctxs.get f.ctx
      s.setNode n { v with
        retries := v.retries + 1, ctxs := v.ctxs.set f.ctx { c with held := Quad.all [] },
        running := some { f with wait := .none, invalid := !mapped } }
    else s
  | none => s

/-- The access that waits for a fault tag is made anew once the tag is answered (R307). -/
def execWakeTokenArrival (tag : BitVec 16) (s : State) : Result :=
  .next (match aget? s.drover.tags tag.toNat with
    | some { vf := _, tenant := _, addr := addr, who := who, answered := some mapped } =>
      let s := { s with drover := { s.drover with tags := adel s.drover.tags tag.toNat } }
      match who with
      | .thread sheet ctx => s.wakeThread sheet ctx tag addr mapped
      | .ag n => s.wakeAg n tag mapped
      | .stream k => match aget? s.streams k with
        | some st => s.setStream k { st with stall := none, invalid := !mapped }
        | none => s
      | .engine k => match aget? s.ops k with
        | some o => { s with ops := aset s.ops k { o with stall := none, invalid := !mapped } }
        | none => s
    | _ => s)

end Sys2Proof.Machine
end

