-- ==== Sys2Proof/Machine/Activity.lean ====
section
/-! DEFINITION. The activity events of R262 that a turn brings about, read off the states before and after it: what each is
charged to is its own context (R243). Events that belong to no context are in Config.otherEnergy. -/

namespace Sys2Proof.Machine

/-- Some events of one context of a sheet: their number in the order of R262's table (0 to 47), and how many. Where a group of the
table has more events than it names, what tells them apart is the model's (DESIGN CHOICE, log entry 78). -/
structure Activity where
  sheet : Nat
  ctx : Nat
  event : Nat
  times : Nat
  deriving DecidableEq, Repr

/-- Events are counted for their context; for one that has been freed meanwhile, for the sheet alone (R262). -/
def State.countBy (s : State) (a : Activity) : State :=
  let sh := s.sheet a.sheet
  if (s.instAt a.sheet a.ctx).isSome then
    let l := sh.activity.get a.ctx
    s.setSheet a.sheet { sh with activity := sh.activity.set a.ctx (aset l a.event (agetD l a.event 0 + a.times)) }
  else s.setSheet a.sheet { sh with past := sh.past ++ [(a.event, a.times)] }

/-- An access of n bytes at a location: of TS, SS or DS one read or write, of HBM its bytes; FM has no event. -/
def touchOf (sheet ctx loc n : Nat) (write : Bool) : List Activity :=
  let w := if write then 1 else 0
  if isSheetScratch loc then
    [⟨sheet, ctx, (if (loc - sheetLoc 0 0) % 0x2000000 < 0x1000000 then 22 else 24) + w, 1⟩]
  else if dsLoc 0 0 ≤ loc then [⟨sheet, ctx, 26 + w, 1⟩]
  else if isFm loc then []
  else [⟨sheet, ctx, 44 + w, n⟩]

/-- What an agent's access touches, if it can be made. -/
def State.touches (s : State) (g : Agent) (a n : Nat) (k : AccessKind) : List Activity :=
  match (s.resolve g a n k).2 with
  | .ok loc _ =>
    (if k = .write then [] else touchOf g.sheet g.ctx loc n false) ++ (if k.writes then touchOf g.sheet g.ctx loc n true else [])
  | _ => []

/-! ### Threads -/

/-- The access of a memory pair. -/
def State.pairAccess (s : State) (i : Instr) : Option (Word × Nat × AccessKind) :=
  match i with
  | .ld _ a off wd _ _ => some (s.pairAddr a off, widthBytes wd, .read)
  | .st _ a off wd _ _ => some (s.pairAddr a off, widthBytes wd, .write)
  | .amo _ a _ off wd _ _ _ | .cas _ a _ off wd _ _ => some (s.pairAddr a off, widthBytes wd, .atomic)
  | _ => none

/-- The accesses of an instruction of the acting thread. -/
def State.pairTouches (s : State) (i : Instr) : List Activity :=
  match s.pairAccess i with
  | none => []
  | some (a, n, k) => s.touches s.threadAgent a.toNat n k

/-- An instruction of the acting thread that issues: 38, or 39 for a memory pair, with its accesses. -/
def State.instrActivity (s : State) (i : Instr) : List Activity :=
  ⟨s.curSheet, s.curCtx, if (s.pairAccess i).isSome then 39 else 38, 1⟩ :: s.pairTouches i

/-- A thread's access that waited has been made. -/
def State.lateTouches (s t : State) (sheet ctx : Nat) : List Activity :=
  match (s.thread sheet ctx).wait, (t.thread sheet ctx).wait with
  | some (.access i _), none => (s.actAs sheet ctx).pairTouches i
  | _, _ => []

/-! ### Nodes -/

/-- A firing has left its op word, and not by a fault. -/
def State.ranOp (t : State) (n : NodeId) (f : Firing) : Bool :=
  (match (t.node n).running with
   | none => true
   | some g => decide (g.seq ≠ f.seq) || decide (g.pc ≠ f.pc)) && !((t.nodeCtx n f.ctx).stopped.contains f.hdr)

/-- Steps of its op word that a firing has done: those it counts, or the last. -/
def State.opSteps (t : State) (n : NodeId) (f : Firing) : Nat :=
  if t.ranOp n f then 1
  else match (t.node n).running with
    | some g => g.progress - f.progress
    | none => 0

/-- The value of an operand of a firing, 0 where it has none. -/
def State.operandValue (s : State) (n : NodeId) (f : Firing) (a : Src) : W32 := ((s.operand n f a).map Token.value).getD 0

/-- The value of the control operand of a firing's op word. -/
def State.controlValue (s : State) (n : NodeId) (f : Firing) (a : Src) : W32 := ((s.control n f a).map Token.value).getD 0

/-- Accesses of an AG op word: TS by offset, or by virtual address; a `tmove` moves eight bytes in each step. -/
def State.agActivity (s : State) (n : NodeId) (f : Firing) (i : Instr) (ran : Bool) : List Activity :=
  let g := s.agAgent n f
  let v (x : Src) : W32 := s.operandValue n f x
  let act (e : Nat) : Activity := ⟨n.sheet, f.ctx, e, 1⟩
  match i, ran with
  | .ldt a _ _ _ _, true => act 34 :: s.touches g (tsAddr (v a).toNat) 4 .read
  | .stt a _ _, true => act 35 :: s.touches g (tsAddr (v a).toNat) 4 .write
  | .ldx a b _ _ _ _, true => act 34 :: s.touches g (agVa (v a) (v b)).toNat 4 .read
  | .stx a b _ _, true => act 35 :: s.touches g (agVa (v a) (v b)).toNat 4 .write
  | .amox a b _ _ _ _ _, true => act 34 :: act 35 :: s.touches g (agVa (v a) (v b)).toNat 4 .atomic
  | .tmove _ _ _ _, false =>
    if f.progress = 0 then []
    else
      let m := moveOf (f.lanes.flatMap fun w => natBytes 4 w.toNat)
      let off := 8 * (f.progress - 1)
      act 34 :: act 35 :: (s.touches g (m.src + off) 8 .read ++ s.touches g (m.dst + off) 8 .write)
  | _, _ => []

/-- Events of a plane array: plane-row cycles, bytes of a weight image, accumulator adds, read-out tokens. -/
def State.paActivity (s t : State) (n : NodeId) (f : Firing) (i : Instr) : List Activity :=
  let act (e k : Nat) : Activity := ⟨n.sheet, f.ctx, e, k⟩
  match i with
  | .mm a _ _ _ _ =>
    let rows := match (t.node n).running with
      | some g => g.rows - f.rows
      | none => 0
    if rows = 0 then [] else [act 28 (rows * (mmCtl (s.controlValue n f a)).p), act 30 (512 * rows)]
  | .wsload a _ => if t.ranOp n f then [act 29 (planeBytes (bitsOf (s.controlValue n f a).toNat 24 2))] else []
  | .accrd _ _ _ _ _ => if t.opSteps n f = 0 then [] else [act 31 1]
  | _ => []

/-- Events of a front element: insertions and drains. -/
def State.feActivity (t : State) (n : NodeId) (f : Firing) (i : Instr) : List Activity :=
  let act (e k : Nat) : Activity := ⟨n.sheet, f.ctx, e, k⟩
  match i with
  | .fins _ _ _ _ => if t.ranOp n f then [act 32 1] else []
  | .fmrg _ _ => if t.ranOp n f && (t.nodeCtx n f.ctx).front.building.isEmpty then [act 32 1] else []
  | .fdrain _ _ _ _ => if t.opSteps n f = 0 then [] else [act 33 1]
  | _ => []

/-- Lanes that a converter takes: 36 of data that keeps its precision rules, 37 of data that is quantised or scaled. -/
def State.cvActivity (s t : State) (n : NodeId) (f : Firing) (i : Instr) : List Activity :=
  let lanes (a : Src) (e : Nat) : List Activity := match s.operand n f a with
    | some x => if t.ranOp n f then [⟨n.sheet, f.ctx, e, laneCount x.fmt⟩] else []
    | none => []
  match i with
  | .cvt a _ _ _ _ _ => lanes a 36
  | .cvtq a _ _ _ _ | .cvts a _ _ _ _ _ => lanes a 37
  | _ => []

/-- Events of the op word that a firing stands at: an element's issue by the upper three bits of its operation, and those of the other
classes. -/
def State.opActivity (s t : State) (n : NodeId) (f : Firing) (i : Instr) : List Activity :=
  match n.cls with
  | .element =>
    if decide ((t.node n).running = some f) then [] else [⟨n.sheet, f.ctx, bitsOf (s.opWord n f).toNat 29 3, 1⟩]
  | .ag => s.agActivity n f i (t.ranOp n f)
  | .pa => s.paActivity t n f i
  | .fe => t.feActivity n f i
  | .cv => s.cvActivity t n f i

/-! ### Streams, edges, engines -/

/-- A stream's point: its event, and the access of what it has read or written. -/
def State.pointActivity (s t : State) (k : Nat) : List Activity :=
  match aget? s.streams k, aget? t.streams k with
  | some st, some st' =>
    let g := s.streamAgent st
    let point (c : Nat) : Nat := (st.desc.point c).toNat
    if st.ahead.length < st'.ahead.length then s.touches g (point (st.cursor + st.ahead.length)) 4 .read
    else if st.cursor < st'.cursor then
      ⟨st.sheet, st.ctx, if st.inbound then 40 else 41, 1⟩ ::
        (if !st.ahead.isEmpty then [] else s.touches g (point st.cursor) 4 (if st.inbound then .read else .write))
    else []
  | _, _ => []

/-- A token leaves the fabric at the end of an edge. -/
def State.ejectActivity (s t : State) (id edge : Nat) : List Activity :=
  match aget? s.insts id, aget? t.insts id with
  | some i, some i' => match aget? i.edges edge, aget? i'.edges edge with
    | some e, some e' =>
      if e'.items.countP Item.isToken < e.items.countP Item.isToken then [⟨(i.tileOf e.dst).1, i.ctx, 17, 1⟩] else []
    | _, _ => []
  | _, _ => []

/-- A token enters the fabric from an inject buffer. -/
def State.injectActivity (s t : State) (n : NodeId) (ctx k : Nat) : List Activity :=
  let tokens (v : State) : Nat := ((v.nodeCtx n ctx).inject.get k).countP fun x => x.2.2.isToken
  if tokens t < tokens s then [⟨n.sheet, ctx, 17, 1⟩] else []

/-- An engine's operand lies in HBM. -/
def State.inHbm (s : State) (o : EngineOp) (a : Nat) : Bool :=
  match decodeAddr o.sheet true a with
  | some (.va v) => match (s.translate o.tenant v).2 with
    | .page leaf _ => !(leaf.getLsbD 61)
    | _ => false
  | _ => false

/-- Bytes that an engine operation has moved: read 42, written 43, from and to HBM 44 and 45, out over Span 46 and in 47. -/
def State.engineActivity (s t : State) (k : Nat) (bytes : EngineOp → Nat) (src dst : EngineOp → Option Nat) (out in_ : Bool) :
    List Activity :=
  match aget? s.ops k, aget? t.ops k with
  | some o, some o' =>
    let m := bytes o' - bytes o
    let act (e : Nat) : Activity := ⟨o.sheet, o.ctx, e, m⟩
    let side (e : Nat) (a : Option Nat) : List Activity := match a with
      | some a => act (42 + e) :: (if s.inHbm o a then [act (44 + e)] else [])
      | none => []
    if m = 0 then []
    else side 0 (src o) ++ side 1 (dst o) ++ (if out then [act 46] else []) ++ (if in_ then [act 47] else [])
  | _, _ => []

/-- A flit of an operation as an address. -/
def flitAt (k : Nat) (o : EngineOp) : Option Nat := some (o.flit k)

/-- The events of R262 of an event of the device, from the state before it and the one after it. -/
def State.eventActivity (s t : State) (i : Instr) : List Activity :=
  match i with
  | .streamPoint k => s.pointActivity t k
  | .tokenArrival id edge => s.ejectActivity t id edge
  | .waitingInstructionRetire sheet ctx => s.lateTouches t sheet ctx
  | .wakeTokenArrival tag => match (aget? s.drover.tags tag.toNat).map FaultTag.who with
    | some (.thread sheet ctx) => s.lateTouches t sheet ctx
    | _ => []
  | .ceCopy k _ | .ceCopyc k _ | .cePlane k _ => s.engineActivity t k EngineOp.moved (flitAt 1) (flitAt 2) false false
  | .ceFill k _ => s.engineActivity t k EngineOp.moved (fun _ => none) (flitAt 1) false false
  | .ceGather k _ | .ceScatter k _ => s.engineActivity t k EngineOp.moved (flitAt 2) (flitAt 3) false false
  | .coCompose k _ => s.engineActivity t k EngineOp.moved (flitAt 1) (flitAt 2) false false
  | .lePut k _ _ => s.engineActivity t k EngineOp.progress (flitAt 1) (fun _ => none) true false
  | .leGet k _ _ => s.engineActivity t k EngineOp.progress (fun _ => none) (flitAt 1) false true
  | _ => []

/-- The state with some activity counted. -/
def State.counted (s : State) (l : List Activity) : State := l.foldl State.countBy s

end Sys2Proof.Machine
end

