-- ==== Sys2Proof/Machine/Span.lean ====
section
/-! DEFINITION. The blocks of a payload between packages (R349, R350): the encoder, which is fixed, and the decoder, which
refuses what the format does not allow. -/

namespace Sys2Proof.Machine

/-- Plane p of a block at width w: byte p of each element (R349). -/
def blockPlane (bs : List Byte) (w p : Nat) : List Byte :=
  (List.range (256 / w)).map fun j => bs.getD (j * w + p) 0

/-- The bytes of a packed plane: each value in k bits, least significant first (R349). -/
def packBits (k : Nat) (vs : List Nat) : List Byte :=
  natBytes ((vs.length * k + 7) / 8) (vs.zipIdx.foldl (fun n p => n + p.1 * 2 ^ (p.2 * k)) 0)

/-- A plane with its header byte: the first mode that applies (R350). -/
def encodePlane (pl : List Byte) : List Byte :=
  let vs := pl.map BitVec.toNat
  let lo := vs.foldl Nat.min 255
  let hi := vs.foldl Nat.max 0
  let k := bitLen (hi - lo)
  if hi = 0 then [0xC0]
  else if lo = hi then [0x40, BitVec.ofNat 8 lo]
  else if k ≤ 7 ∧ 2 + (pl.length * k + 7) / 8 < 1 + pl.length then
    BitVec.ofNat 8 (128 + 8 * k) :: BitVec.ofNat 8 lo :: packBits k (vs.map fun v => v - lo)
  else 0x00 :: pl

/-- The body of a block at width w. -/
def encodeBody (bs : List Byte) (w : Nat) : List Byte := (List.range w).flatMap fun p => encodePlane (blockPlane bs w p)

/-- The code of a width. -/
def widCode (w : Nat) : Nat := if w = 1 then 0 else if w = 2 then 1 else 2

/-- A raw block (R349). -/
def rawBlock (bs : List Byte) : List Byte := natBytes 2 (2 ^ 15 + bs.length) ++ bs

/-- A block of 256 bytes: encoded at the width with the smallest body, raw when that is no smaller (R350). -/
def encodeBlock (bs : List Byte) : List Byte :=
  let b1 := encodeBody bs 1
  let b2 := encodeBody bs 2
  let b4 := encodeBody bs 4
  let p := if b2.length < b1.length then (2, b2) else (1, b1)
  let q := if b4.length < p.2.length then (4, b4) else p
  if q.2.length < 256 then natBytes 2 (widCode q.1 * 2 ^ 13 + q.2.length) ++ q.2 else rawBlock bs

/-- The blocks of a payload: none of an empty one; the last is raw (R349). -/
def encodePayload (bs : List Byte) (fuel : Nat) : List Byte :=
  match fuel with
  | 0 => []
  | fuel + 1 => if bs.isEmpty then [] else if bs.length ≤ 256 then rawBlock bs else encodeBlock (bs.take 256) ++ encodePayload (bs.drop 256) fuel

/-- Bits [lo + k − 1 : lo] of a list of bytes. -/
def bitsAt (bs : List Byte) (lo k : Nat) : Nat :=
  bitsOf ((bs.getD (lo / 8) 0).toNat + 256 * (bs.getD (lo / 8 + 1) 0).toNat) (lo % 8) k

/-- One plane of n bytes read from a body, with the rest of the body (R349). -/
def decodePlane (n : Nat) (bs : List Byte) : Option (List Byte × List Byte) :=
  match bs with
  | [] => none
  | h :: r =>
    let k := bitsOf h.toNat 3 3
    if bitsOf h.toNat 0 3 ≠ 0 then none
    else match bitsOf h.toNat 6 2 with
      | 0 => if k ≠ 0 ∨ r.length < n then none else some (r.take n, r.drop n)
      | 1 => match r with
        | [] => none
        | c :: r => if k ≠ 0 then none else some (List.replicate n c, r)
      | 2 => match r with
        | [] => none
        | b :: r =>
          let len := (n * k + 7) / 8
          if k = 0 ∨ r.length < len then none
          else some ((List.range n).map fun j => b + BitVec.ofNat 8 (bitsAt (r.take len) (j * k) k), r.drop len)
      | _ => if k ≠ 0 then none else some (List.replicate n 0, r)

/-- Several planes of a body. -/
def decodePlanes (count n : Nat) (bs : List Byte) : Option (List (List Byte) × List Byte) :=
  match count with
  | 0 => some ([], bs)
  | count + 1 => match decodePlane n bs with
    | none => none
    | some (pl, r) => match decodePlanes count n r with
      | none => none
      | some (pls, r) => some (pl :: pls, r)

/-- The 256 bytes of planes put together. -/
def joinPlanes (w : Nat) (pls : List (List Byte)) : List Byte :=
  (List.range 256).map fun i => (pls.getD (i % w) []).getD (i / w) 0

/-- One block read, with what follows it; none where R350 ends the transfer. -/
def decodeBlock (bs : List Byte) : Option (List Byte × List Byte) :=
  let h := leNat (bs.take 2)
  let len := bitsOf h 0 9
  let wid := bitsOf h 13 2
  let r := bs.drop 2
  if bs.length < 2 ∨ bitsOf h 9 4 ≠ 0 ∨ wid = 3 ∨ len = 0 ∨ 256 < len ∨ r.length < len then none
  else if bitsOf h 15 1 = 1 then some (r.take len, r.drop len)
  else if len = 256 then none
  else
    let w := 2 ^ wid
    match decodePlanes w (256 / w) (r.take len) with
    | some (pls, []) => some (joinPlanes w pls, r.drop len)
    | _ => none

/-- The payload of some blocks, up to the first that ends the transfer; and whether all were good. -/
def decodePayload (bs : List Byte) (fuel : Nat) : List Byte × Bool :=
  match fuel with
  | 0 => ([], bs.isEmpty)
  | fuel + 1 =>
    if bs.isEmpty then ([], true)
    else match decodeBlock bs with
      | none => ([], false)
      | some (p, r) => let q := decodePayload r fuel; (p ++ q.1, q.2)

end Sys2Proof.Machine
end

