-- ==== Sys2Proof/Machine/Link.lean ====
section
/-! DEFINITION. The link engine (R180, R347–R350): its operations to another package, the requests another package sends
here, and flits that fail on a link. -/

namespace Sys2Proof.Machine

/-! ### Bindings and routes (R335, R348) -/

/-- A binding is in use for a package and, where given, a remote tag. -/
def bindsTo (b : W32) (pkg : Nat) : Bool := b.getLsbD 23 && decide (bitsOf b.toNat 0 12 = pkg)

/-- The remote tag of a tenant's valid binding for a package (R348). -/
def State.rtagFor (s : State) (tenant pkg : Nat) : Option (BitVec 7) :=
  (List.range 16).findSome? fun i =>
    let b := agetD s.drover.bindings (tenant, i) 0
    if bindsTo b pkg then some (b.extractLsb' 16 7) else none

/-- The receiver's check of a request: for rtag, a valid entry that names the sender's package and tag (R348). -/
def State.acceptsFrom (s : State) (rtag pkg tag : Nat) : Bool :=
  (List.range 16).any fun i =>
    let b := agetD s.drover.bindings (rtag, i) 0
    bindsTo b pkg && decide (bitsOf b.toNat 16 7 = tag)

/-- The Span port of the valid route to a package (R335). -/
def State.routeTo (s : State) (pkg : Nat) : Option Nat :=
  let r := agetD s.drover.routes pkg 0
  if r.getLsbD 15 then some (bitsOf r.toNat 0 4) else none

/-- The package an operation goes to (R180). -/
def EngineOp.pkg (o : EngineOp) : Nat :=
  match msgOp o.header with
  | 3 => bitsOf (o.flit 2) 32 12
  | _ => bitsOf (o.flit 3) 32 12

/-- The package field runs above the packages there are: 0–4,095. -/
def EngineOp.pkgField (o : EngineOp) : Nat :=
  match msgOp o.header with
  | 3 => bitsOf (o.flit 2) 32 16
  | _ => bitsOf (o.flit 3) 32 16

/-- The Span port an operation leaves by. -/
def State.portOf (s : State) (o : EngineOp) : Option Nat :=
  if o.pkgField = o.pkg then s.routeTo o.pkg else none

/-- Where an operation may go: its remote tag, or the status it ends with, nothing sent (R180, R328, R348). -/
def State.wayTo (s : State) (o : EngineOp) : Except (BitVec 4) (BitVec 7) :=
  match s.portOf o, s.rtagFor o.tenant o.pkg with
  | some p, some t => if s.drover.disabledPorts.contains p then .error stLost else .ok t
  | _, _ => .error stAccess

/-- The status a remote answer ends an operation with (R180). -/
def answerStatus (a : RemoteAnswer) : Option (BitVec 4) :=
  match a with
  | .accepted => none
  | .access => some stAccess
  | .xlate => some stXlate
  | .align => some stAlign
  | .lost => some stLost

/-- The virtual channel that carries a request (R347). -/
def requestVc (op : SpanOp) : Nat :=
  match op with
  | .put _ _ _ | .get _ _ => 0
  | .lamo _ _ _ _ | .lsig _ _ => 2

/-- Something sent as a packet by a port, on a virtual channel (R347). -/
def State.sendPacket (s : State) (op : Option Nat) (port vc : Nat) (origin : Option Nat) (x : Sent) : State :=
  let r := s.fresh
  let p : Packet := { id := r.1, op := op, port := port, vc := vc, origin := origin }
  let s := r.2.send x
  { s with package := { s.package with packets := s.package.packets ++ [p] } }

/-- A request of operation k sent under the identity of this package and of its tenant, as a packet on its virtual channel (R347,
R348). -/
def State.sendSpan (s : State) (k : Nat) (o : EngineOp) (rtag : BitVec 7) (op : SpanOp) : State :=
  s.sendPacket (some k) ((s.portOf o).getD 0) (requestVc op) none
    (.span (BitVec.ofNat 12 o.pkg) Config.packageNumber (BitVec.ofNat 7 o.tenant) rtag op)

/-- A request of a package answered: data and acknowledgements go on channel 1 (R347). An answer to a package to which no port leads is
no packet. -/
def State.reply (s : State) (pkg : Nat) (status : BitVec 4) (count : Nat) (blocks : List Byte) : State :=
  match s.routeTo pkg with
  | some p => s.sendPacket none p 1 none (.spanReply status count blocks)
  | none => s.send (.spanReply status count blocks)

/-- An operation of the link engine that may start, with the remote tag it names; a way that is not there ends it. -/
def State.runLink (s : State) (k op : Nat) (run : State → EngineOp → BitVec 7 → State) : State :=
  s.runOp k 2 op 1 fun s o _ =>
    match s.wayTo o with
    | .error st => s.setOp k { o with status := some st }
    | .ok t => run s o t

/-- A remote address is a virtual address of the destination; one above 48 bits is none (R180). -/
def EngineOp.remoteAddr (o : EngineOp) (flit off : Nat) : BitVec 48 := BitVec.ofNat 48 (o.flit flit + off)

/-- The remote range lies in the virtual address space. -/
def EngineOp.remoteOk (o : EngineOp) (flit len : Nat) : Bool := decide (o.flit flit + len ≤ 2 ^ 48)

/-- An operation after an answer: `n` units more are done; the status is decided by a fault, or DONE at the end. -/
def EngineOp.answered (o : EngineOp) (n total : Nat) (a : RemoteAnswer) : EngineOp :=
  let p := o.progress + n
  { o with progress := p, status := match answerStatus a with
      | some st => some st
      | none => if total ≤ p then some stDone else none }

/-! ### Operations (R180) -/

/-- The blocks of a put that start in [first, last): read from src, encoded and sent (R349, R350). -/
def State.sendBlocks (s : State) (k : Nat) (o : EngineOp) (rtag : BitVec 7) (total : Nat) (starts : List Nat) :
    State × Option (Nat × Ans × Nat) :=
  match starts with
  | [] => (s, none)
  | b :: r =>
    let len := min 256 (total - b)
    match s.fetchRun o (o.flit 1 + b) len with
    | (s, .error (e, a, _)) => (s, some (b, e, a))
    | (s, .ok bs) =>
      let block := if b + len < total then encodeBlock bs else rawBlock bs
      (s.sendSpan k o rtag (.put (o.remoteAddr 2 b) block len)).sendBlocks k o rtag total r

/-- The starts of the 256-byte blocks of a payload that lie in [first, last). -/
def blockStarts (first last : Nat) : List Nat :=
  ((List.range ((last + 255) / 256)).map fun b => 256 * b).filter fun b => decide (first ≤ b)

/-- `le.put`: blocks leave as they are reached; `units` more bytes have been taken by the remote side, and its answer
(R180). -/
def execLePut (k units : Nat) (a : RemoteAnswer) (s : State) : Result :=
  .next (s.runLink k 0 fun s o rtag =>
    let total := bitsOf (o.flit 3) 0 32
    if !(o.remoteOk 2 total) then s.setOp k { o with status := some stAccess }
    else
      let n := min units (total - o.progress)
      let reach := o.progress + n + (if answerStatus a = none then 0 else 1)
      match s.sendBlocks k o rtag total (blockStarts o.progress (min reach total)) with
      | (s, none) => (s.opProgress o).setOp k (o.answered n total a)
      | (s, some (b, e, addr)) => s.stopOp k { o with progress := b } e addr .read)

/-- What has come of a get written to dst, each aligned unit whole (R207): the bytes of a unit wait for the rest of it, unless nothing
more comes. With it, what stopped the next unit. -/
def State.writeGot (s : State) (o : EngineOp) (last : Bool) (fuel : Nat) : State × EngineOp × Option (Ans × Nat) :=
  match fuel with
  | 0 => (s, o, none)
  | fuel + 1 =>
    let a := o.flit 1 + o.progress
    let n := unitRoom a o.stage.length
    if n = 0 ∨ (last = false ∧ n < 8 - a % 8) then (s, o, none)
    else match s.putBytes o a (o.stage.take n) with
      | (s, .ok ()) => s.writeGot { o with progress := o.progress + n, stage := o.stage.drop n } last fuel
      | (s, .error (e, a, _)) => (s, o, some (e, a))

/-- `le.get`: the request leaves first; then blocks that have come are decoded and written to dst, and the answer counts
(R180, R349, R350). -/
def execLeGet (k : Nat) (data : List Byte) (a : RemoteAnswer) (s : State) : Result :=
  .next (s.runLink k 1 fun s o rtag =>
    let total := bitsOf (o.flit 3) 0 32
    if !(o.remoteOk 2 total) then s.setOp k { o with status := some stAccess }
    else
      let first := decide (o.moved = 0)
      let s := if first then s.sendSpan k o rtag (.get (o.remoteAddr 2 0) total) else s
      let p := decodePayload data data.length
      let a := if p.2 then a else .lost
      let o := { o with moved := 1, stage := o.stage ++ p.1.take (total - o.progress - o.stage.length) }
      let last := decide (total ≤ o.progress + o.stage.length) || (answerStatus a).isSome
      match s.writeGot o last o.stage.length with
      | (s, o, none) => (s.opProgress o).setOp k (o.answered 0 total a)
      | (s, o, some (e, addr)) => s.stopOp k o e addr .write)

/-- The function of an atomic by its number (R62). -/
def amoFnOf (n : Nat) : AmoFn :=
  match n with
  | 0 => .add
  | 1 => .min
  | 2 => .max
  | 3 => .and
  | 4 => .or
  | _ => .xchg

/-- `le.lamo`: one indivisible read-modify-write at the remote location; the old value that comes back goes beside the
completion object (R180). -/
def execLeLamo (k : Nat) (old : Word) (a : RemoteAnswer) (s : State) : Result :=
  .next (s.runLink k 2 fun s o rtag =>
    let wide := decide (bitsOf (o.flit 3) 3 1 = 1)
    let second := (msgReply o.header).toNat + 8
    match s.resolve o.agent second 8 .write with
    | (s, .access) | (s, .xlate) | (s, .lost) => s.setOp k { o with status := some stIllegal }
    | (s, .miss) => s.stopOp k o .miss second .write
    | (s, .full) | (s, .line) | (s, .range) => s
    | (s, .ok _ _) =>
      if !(o.remoteOk 1 (if wide then 8 else 4)) then s.setOp k { o with status := some stAccess }
      else
        let s := s.sendSpan k o rtag
          (.lamo (o.remoteAddr 1 0) wide (BitVec.ofNat 3 (bitsOf (o.flit 3) 0 3)) (BitVec.ofNat 64 (o.flit 2)))
        let n := if answerStatus a = none then 1 else 0
        let v := if wide then old.toNat else bitsOf old.toNat 0 32
        (s.opProgress o).setOp k { o.answered n 1 a with moved := v })

/-- Earlier operations of the thread at the engine that carry flag ORD, which `le.lsig` releases (R180). -/
def State.ordBefore (s : State) (k : Nat) (o : EngineOp) : Bool :=
  (s.sameEngine o).any fun p =>
    decide (p.1 < k) && msgOrd p.2.header && decide (p.2.sheet = o.sheet) && decide (p.2.ctx = o.ctx)

/-- `le.lsig`: the increment is added to the remote signal word, once what it releases is done (R180). -/
def execLeLsig (k : Nat) (a : RemoteAnswer) (s : State) : Result :=
  .next (s.runLink k 3 fun s o rtag =>
    if s.ordBefore k o then s.setOp k o
    else if !(o.remoteOk 1 8) then s.setOp k { o with status := some stAccess }
    else
      let s := s.sendSpan k o rtag (.lsig (o.remoteAddr 1 0) (BitVec.ofNat 32 (o.flit 2)))
      let n := if answerStatus a = none then 1 else 0
      (s.opProgress o).setOp k (o.answered n 1 a))

/-! ### Requests of another package (R180, R347, R348) -/

/-- A remote package's access as an agent on the die that holds the page: no rule holds it to one die (log entry 24). -/
def remoteAgent (tenant sheet : Nat) : Agent := { cls := .engine, sheet := sheet, ctx := 0, tenant := tenant, inst := 0, covered := none }

/-- What becomes of an access of another package at a virtual address of a tenant (R336, R348). -/
def State.remoteAns (s : State) (tenant va len : Nat) (k : AccessKind) : State × Ans :=
  match s.translate tenant va with
  | (s, .page leaf p) =>
    let g := remoteAgent tenant (64 * ((frameOf p).getD 0 / 192))
    s.meetAns k (s.holdAns g len k (s.pageAns g leaf p k))
  | (s, .miss) | (s, .invalid) => (s, .xlate)
  | (s, .access) => (s, .access)

/-- The locations of a run of bytes, up to what stops the next. -/
def State.remoteRun (s : State) (tenant va n : Nat) (k : AccessKind) (got : List Nat) : State × List Nat × Option Ans :=
  match n with
  | 0 => (s, got, none)
  | n + 1 => match s.remoteAns tenant va 1 k with
    | (s, .ok loc _) => s.remoteRun tenant (va + 1) n k (got ++ [loc])
    | (s, e) => (s, got, some e)

/-- The status with which a request is answered. -/
def remoteStatus (e : Option Ans) : BitVec 4 :=
  match e with
  | none => stDone
  | some .xlate => stXlate
  | some .lost => stLost
  | some _ => stAccess

/-- Bytes written at locations one by one. -/
def Memory.scatter (m : Memory) (l : List (Nat × Byte)) : Memory := l.foldl (fun m p => m.set p.1 p.2) m

/-- A read-modify-write of another package at an aligned address: the old value is answered (R180, R207). -/
def State.remoteAtomic (s : State) (pkg tenant va size : Nat) (f : Nat → Nat) : State :=
  if va % size ≠ 0 then s.reply pkg stAlign 0 []
  else match s.remoteAns tenant va size .atomic with
    | (s, .ok loc _) =>
      let old := leNat (s.mem.read loc size)
      (({ s with mem := s.mem.write loc (natBytes size (f old)) } : State)).reply pkg stDone 1 (natBytes 8 old)
    | (s, .line) => s
    | (s, e) => s.reply pkg (remoteStatus (some e)) 0 []

/-- A range split at the 64 KiB boundaries it crosses (R213): each part's address and length. -/
def pageParts (va n fuel : Nat) : List (Nat × Nat) :=
  match fuel with
  | 0 => []
  | fuel + 1 =>
    if n = 0 then []
    else
      let m := min n (65536 - va % 65536)
      (va, m) :: pageParts (va + m) (n - m) fuel

/-- The parts of an access of another package, each by its own page: its locations, or why it fails (R213). -/
def State.remoteParts (s : State) (tenant : Nat) (k : AccessKind) (l : List (Nat × Nat)) : State × List (Nat × List Nat × Option Ans) :=
  match l with
  | [] => (s, [])
  | (va, n) :: r =>
    let p := s.remoteRun tenant va n k []
    let q := p.1.remoteParts tenant k r
    (q.1, (n, p.2) :: q.2)

/-- What stops the lowest-addressed part that fails (R213). -/
def firstFailing (l : List (Nat × List Nat × Option Ans)) : Option Ans := l.findSome? fun p => p.2.2

/-- Some part meets a held line, for which the access waits (R226). -/
def anyHeld (l : List (Nat × List Nat × Option Ans)) : Bool := l.any fun p => decide (p.2.2 = some .line)

/-- The bytes of a write, part by part, with their locations where the part passes (R213). -/
def passingWrites (l : List (Nat × List Nat × Option Ans)) (bs : List Byte) : List (Nat × Byte) :=
  match l with
  | [] => []
  | (n, locs, none) :: r => locs.zip (bs.take n) ++ passingWrites r (bs.drop n)
  | (n, _, some _) :: r => passingWrites r (bs.drop n)

/-- Bytes before the first part that fails. -/
def passingPrefix (l : List (Nat × List Nat × Option Ans)) : Nat :=
  match l with
  | [] => 0
  | (n, _, none) :: r => n + passingPrefix r
  | (_, _, some _) :: _ => 0

/-- A request accepted (R180): put, get, lamo, lsig. One that meets a held line waits (R226). A put performs every part that passes, a
get with a part that fails returns no data (R213). -/
def State.remoteOp (s : State) (pkg tenant : Nat) (op : SpanOp) : State :=
  match op with
  | .put addr blocks length =>
    let p := decodePayload blocks blocks.length
    let bs := p.1.take length
    let good := p.2 && decide (p.1.length = length)
    match s.remoteParts tenant .write (pageParts addr.toNat bs.length (bs.length + 1)) with
    | (s, l) =>
      if anyHeld l then s
      else
        let st := match firstFailing l with
          | none => if good then stDone else stLost
          | e => remoteStatus e
        ({ s with mem := s.mem.scatter (passingWrites l bs) }).reply pkg st (passingPrefix l) []
  | .get addr length =>
    match s.remoteParts tenant .read (pageParts addr.toNat length (length + 1)) with
    | (s, l) =>
      if anyHeld l then s
      else match firstFailing l with
        | none =>
          let bs := (l.flatMap fun p => p.2.1).map s.mem.get
          s.reply pkg stDone bs.length (encodePayload bs (bs.length / 256 + 1))
        | e => s.reply pkg (remoteStatus e) 0 []
  | .lamo addr wide fn v =>
    let size := if wide then 8 else 4
    if 6 ≤ fn.toNat then s.reply pkg stIllegal 0 []
    else s.remoteAtomic pkg tenant addr.toNat size fun old => amoNew (amoFnOf fn.toNat) (8 * size) old (v.toNat % 2 ^ (8 * size))
  | .lsig addr inc => s.remoteAtomic pkg tenant addr.toNat 8 fun old => (old + inc.toNat) % 2 ^ 64

/-- A request for another package goes on by the route table (R347); where no port leads there it cannot be delivered, and the answer is
DATA_LOST (R180; DEDUCED, log entry 128). -/
def State.forward (s : State) (r : SpanRequest) : State :=
  match (s.routeTo r.toPackage.toNat).filter fun p => !(s.drover.disabledPorts.contains p) with
  | some p => s.sendPacket none p (requestVc r.op) (some r.fromPackage.toNat) (.forward p r)
  | none => s.reply r.fromPackage.toNat stLost 0 []

/-- A request arrives on a Span port. One for this package is checked against the receiver's bindings, then it runs under rtag's tables
(R348); another is switched on (R347). -/
def execSpanRequestArrival (r : SpanRequest) (s : State) : Result :=
  .next (if r.toPackage ≠ Config.packageNumber then s.forward r
    else if s.acceptsFrom r.rtag.toNat r.fromPackage.toNat r.senderTag.toNat then s.remoteOp r.fromPackage.toNat r.rtag.toNat r.op
    else s.reply r.fromPackage.toNat stAccess 0 [])

/-! ### Links (R319, R328, R347) -/

/-- Operations of the link engine that leave by a port and are not yet decided. -/
def State.opsBy (s : State) (port : Nat) : List Nat :=
  (s.ops.filter fun p => decide (msgClass p.2.header = 2) && p.2.status.isNone && decide (s.portOf p.2 = some port)).map
    Prod.fst

/-- Operations end with a status and their prefix count. -/
def State.endOps (s : State) (l : List Nat) (st : BitVec 4) : State :=
  { s with ops := amap s.ops fun k o => if l.contains k then { o with status := some st, stall := none } else o }

/-- A Span port is disabled: its operations end with DATA_LOST (R328). -/
def State.disablePort (s : State) (port : Nat) : State :=
  let s := s.endOps (s.opsBy port) stLost
  { s with drover := { s.drover with disabledPorts := port :: s.drover.disabledPorts } }

/-- A time lies within the 1,000 ms before now (R319). -/
def State.recent (s : State) (t : Nat) : Bool := decide (s.time < t + 1000000000)

/-- A fault of a shared unit is noted; whether it is lasting: the third within 1,000 ms (R319, R328). -/
def State.noteUnitFault (s : State) (u : SharedUnit) : State × Bool :=
  let l := s.time :: (agetD s.drover.unitFaults u []).filter s.recent
  ({ s with drover := { s.drover with unitFaults := aset s.drover.unitFaults u l } }, decide (3 ≤ l.length))

/-- A Span port has a fault; a lasting one disables it (R319, R328, R347). -/
def State.portFault (s : State) (port : Nat) : State :=
  match s.noteUnitFault (.spanPort port) with
  | (s, lasting) => if lasting then s.disablePort port else s

/-- A flit has failed once more; whether it has been sent again 16 times (R347). -/
def State.noteRetry (s : State) (port : Nat) (f : SpanFlit) : State × Bool :=
  let n := agetD s.package.retries (port, f.op, f.flit) 0 + 1
  if n ≤ 16 then ({ s with package := { s.package with retries := aset s.package.retries (port, f.op, f.flit) n } }, false)
  else ({ s with package := { s.package with retries := s.package.retries.filter fun p => decide (p.1.2.1 ≠ f.op) } }, true)

/-- A packet that cannot be delivered is gone; the package whose request it carried is answered DATA_LOST (R180, R347). -/
def State.dropPacket (s : State) (p : Packet) : State :=
  let s := s.updPackage fun k => { k with packets := k.packets.filter fun q => decide (q.id ≠ p.id) }
  match p.origin with
  | some pkg => s.reply pkg stLost 0 []
  | none => s

/-- A flit of a transfer fails on its port: it is sent again up to 16 times, and one that fails even so ends the transfer with DATA_LOST
(R180, R347): an operation, or a packet that carries an answer or only passes through. -/
def execSpanFlitError (port : Nat) (f : SpanFlit) (s : State) : Result :=
  .next (match aget? s.ops f.op with
    | some o =>
      if !((s.opsBy port).contains f.op) || !o.started then s
      else match s.noteRetry port f with
        | (s, false) => s
        | (s, true) => (s.setOp f.op { o with status := some stLost }).portFault port
    | none => match s.package.packets.find? fun p => decide (p.id = f.op) && p.op.isNone && decide (p.port = port) with
      | none => s
      | some p => match s.noteRetry port f with
        | (s, false) => s
        | (s, true) => (s.dropPacket p).portFault port)

/-- A packet that has waited 4,096 cycles for credit on channel 0 to 2 moves to the escape channel (R347). -/
def execSpanVcEscape (packet : Nat) (s : State) : Result :=
  .next { s with package := { s.package with
    packets := s.package.packets.map fun p => if p.id = packet then { p with vc := 3 } else p,
    escaped := packet :: s.package.escaped } }

end Sys2Proof.Machine
end

