-- ==== Sys2Proof/Machine/Drover.lean ====
section
/-! DEFINITION. What the drover's events share: refused writes (R335), slices and their order (R19, R237), reading a tenant's
memory (R336), tenant records and windows that wait for a phase boundary (R273, R282), events of the VFs of a tenant
(R322, R326), TDIs in ERROR (R299), and the clock rule (R3, R285). -/

namespace Sys2Proof.Machine

/-! ### Slices -/

/-- The slices of a VF. -/
def State.vfSlices (s : State) (vf : Nat) : List Nat := (s.slices.filter fun p => decide (p.2.vf = vf)).map Prod.fst

/-- The current priority of a slice: of class 0 once its energy budget is used up (R19, R243). -/
def Slice.curPrio (x : Slice) : Nat := if !x.energyFree && decide (x.energy = 0) then x.prio.toNat % 32 else x.prio.toNat

/-- The urgency of a deadline (R19). -/
def urgency (deadline now : Nat) : Nat := 255 - min 255 ((deadline - now) / 4096)

/-- The rank of a slice (R19). -/
def Slice.rank (x : Slice) (now : Nat) : BitVec 16 :=
  BitVec.ofNat 8 x.curPrio ++ BitVec.ofNat 8 (urgency x.deadline.toNat now)

/-- Slice x comes before slice y (R237). -/
def Slice.before (x y : Slice) : Bool :=
  if x.curPrio ≠ y.curPrio then decide (y.curPrio < x.curPrio)
  else if x.deadline ≠ y.deadline then decide (x.deadline.toNat < y.deadline.toNat)
  else if x.accepted ≠ y.accepted then decide (x.accepted < y.accepted)
  else decide (x.vf < y.vf)

/-- A slice put into its place in a list (R237). -/
def insertSlice (l : List (Nat × Slice)) (p : Nat × Slice) : List (Nat × Slice) :=
  match l with
  | [] => [p]
  | q :: r => if p.2.before q.2 then p :: q :: r else q :: insertSlice r p

/-- Slices in the order of R237. -/
def sortSlices (l : List (Nat × Slice)) : List (Nat × Slice) := l.foldl insertSlice []

/-- The slices of a die in a state, in order (R237). -/
def State.slicesIn (s : State) (die : Nat) (st : SliceState) : List (Nat × Slice) :=
  sortSlices (s.slices.filter fun p => decide (p.2.die = die) && decide (p.2.state = st))

/-- The instances with sheets on a bulkhead. -/
def State.instsOn (s : State) (bh : Nat) : List Nat :=
  (s.insts.filter fun p => p.2.bulkheads.contains bh).map Prod.fst

/-- Launches end, one after another (R303). -/
def State.endLaunches (s : State) (l : List Nat) (kind : BitVec 8) : State :=
  l.foldl (fun s id => s.endLaunch id kind 0) s

/-- Every slice of a tenant ends (R303). -/
def State.endTenant (s : State) (tenant : Nat) (kind : BitVec 8) : State :=
  ((s.slices.filter fun p => decide (p.2.tenant = tenant)).map Prod.fst).foldl (fun s id => s.endSlice id 2 0 kind 0) s

/-! ### Memory of a tenant as the drover reaches it -/

/-- Bytes of a tenant's virtual memory read by the drover; none where one cannot be (R336, R342). -/
def State.droverRead (s : State) (tenant va n : Nat) : State × Option (List Byte) :=
  match s.remoteRun tenant va n .read [] with
  | (s, locs, none) => (s, some (locs.map s.mem.get))
  | (s, _, some _) => (s, none)

/-- Bytes of a tenant's virtual memory written by the drover; none where one cannot be. -/
def State.droverWrite (s : State) (tenant va : Nat) (bs : List Byte) : State × Bool :=
  match s.remoteRun tenant va bs.length .write [] with
  | (s, locs, none) => ({ s with mem := s.mem.scatter (locs.zip bs) }, true)
  | (s, _, some _) => (s, false)

/-- A virtual address lies on a pinned DM page of the tenant's frames (R312, R337). -/
def State.pinnedDm (s : State) (tenant va : Nat) : Bool :=
  match (s.translate tenant va).2 with
  | .page leaf p => leaf.getLsbD 59 && !(leaf.getLsbD 61) && s.frameOk tenant p
  | _ => false

/-- The pages from a virtual address on, n of them, are pinned DM pages (R312). -/
def State.pinnedPages (s : State) (tenant va n : Nat) : Bool :=
  (List.range n).all fun k => s.pinnedDm tenant (va + 65536 * k)

/-! ### Tenants -/

/-- A tenant has an active record. -/
def State.activeTenant (s : State) (tenant : Nat) : Bool := (s.record tenant).getLsbD 343

/-- A tenant is confidential (R299). -/
def State.confidential (s : State) (tenant : Nat) : Bool := s.activeTenant tenant && (s.record tenant).getLsbD 344

/-- The VFs of a tenant (R272). -/
def State.vfsOf (s : State) (tenant : Nat) : List Nat := (List.range 96).filter fun v => (s.record tenant).getLsbD (352 + v)

/-- An event record for every VF of a tenant (R322, R326). -/
def State.tellTenant (s : State) (tenant : Nat) (e : EventRec) : State :=
  (s.vfsOf tenant).foldl (fun s v => s.postEvent v e) s

/-- The tenants that hold bulkheads: holders and, of shared ones, the parked (R3, R287). -/
def State.tenants (s : State) : List Nat :=
  ((s.bulkheads.flatMap fun p => p.2.tag.toNat :: p.2.rotation).filter fun t => decide (t ≠ 0)).eraseDups

/-- The tenants that hold a bulkhead. -/
def Bulkhead.holders (b : Bulkhead) : List Nat := (b.tag.toNat :: b.rotation).eraseDups.filter fun t => decide (t ≠ 0)

/-! ### Zeroisation (R281) -/

/-- A location lies in the scratch of a bulkhead. -/
def inScratch (bh loc : Nat) : Bool :=
  (decide (dsLoc bh 0 ≤ loc) && decide (loc < dsLoc bh 0x800000)) ||
  ((bhSheets bh).any fun sh => decide (sheetLoc sh 0 ≤ loc) && decide (loc < sheetLoc sh 0x2000000))

/-- A sheet after zeroisation: what the drover gives it stays. -/
def Sheet.zeroised (sh : Sheet) : Sheet :=
  { Sheet.reset with wideAllow := sh.wideAllow, edgeAllow := sh.edgeAllow, past := sh.past }

/-- Every line of a bulkhead is zero and its registers and settings are at their reset values (R281). -/
def State.zeroise (s : State) (bh : Nat) : State :=
  let shs := bhSheets bh
  let here (n : Nat) : Bool := shs.contains n
  { s with
    mem := s.mem.filter fun c => !(inScratch bh c.1),
    images := s.images.filter fun p => !(inScratch bh p.1),
    sheets := amap s.sheets fun n sh => if here n then sh.zeroised else sh,
    tiles := s.tiles.filter fun p => !(here p.1.1),
    nodes := s.nodes.filter fun p => !(here p.1.sheet),
    streams := s.streams.filter fun p => !(here p.2.sheet),
    ownerTags := s.ownerTags.filter fun p => !(inScratch bh (256 * p.1)),
    arrayTags := s.arrayTags.filter fun p => !(here p.1.sheet),
    package := { s.package with
      poisoned := s.package.poisoned.filter fun l => !(inScratch bh (256 * l)),
      faulty := s.package.faulty.filter fun p => !(inScratch bh (256 * p.1)) } }

/-- A frame filled with zeros (R280); its poison goes with it (R326). -/
def State.zeroFrame (s : State) (frame : Nat) : State :=
  let base := if frame < 1024 then frame * 2 ^ 30 else 2 ^ 40 + (frame - 1024) * 2 ^ 30
  let here (a : Nat) : Bool := decide (base ≤ a) && decide (a < base + 2 ^ 30)
  { s with
    mem := s.mem.filter fun c => !(here c.1),
    images := s.images.filter fun p => !(here p.1),
    package := { s.package with
      poisoned := s.package.poisoned.filter fun l => !(here (256 * l)),
      faulty := s.package.faulty.filter fun p => !(here (256 * p.1)) } }

/-! ### TDIs (R299) -/

/-- A TDI of a confidential tenant is in RUN. -/
def State.tdiRuns (s : State) (tenant : Nat) : Bool :=
  s.confidential tenant && (s.vfsOf tenant).any fun v => decide ((s.vf v).tdi = .run)

/-- A TDI set. -/
def State.setTdi (s : State) (v : Nat) (t : Tdi) : State := s.setVf v { s.vf v with tdi := t }

/-- The TDIs of a tenant with some VFs go to ERROR, its launches end, its bulkheads are zeroised, its frames zeroed with its park images in
them, and what else is parked of it is gone (R299). -/
def State.breakTdis (s : State) (tenant : Nat) (vfs : List Nat) : State :=
  let s := vfs.foldl (fun s v => s.setTdi v .error) s
  let s := s.endTenant tenant kReset
  let mine := (s.bulkheads.filter fun p => decide (p.2.tag.toNat = tenant)).map Prod.fst
  let s := mine.foldl State.zeroise s
  let s := { s with bulkheads := amap s.bulkheads fun _ b => { b with parked := b.parked.filter fun p => decide (p.tenant ≠ tenant) } }
  let frames := (s.drover.frames.filter fun p => p.2.getLsbD 7 && decide (bitsOf p.2.toNat 0 7 = tenant)).map Prod.fst
  frames.foldl State.zeroFrame s

/-- A change to what indices 16 to 20 measure of a tenant: while one of its TDIs is in RUN, all go to ERROR (R299). -/
def State.attestedChange (s : State) (tenant : Nat) : State :=
  if s.tdiRuns tenant then s.breakTdis tenant (s.vfsOf tenant) else s

/-! ### Writes that wait for a phase boundary (R273, R282) -/

/-- The windows of a bank with its waiting writes in effect. -/
def Bulkhead.windowsComing (b : Bulkhead) : List (BitVec 16) := b.applyWindows.windows

/-- What waits for phase boundaries takes effect where it can. -/
def State.boundaries (s : State) : State :=
  let l := (s.drover.recordWrites.map Prod.fst ++ s.tenants).eraseDups
  l.foldl State.boundary s

/-! ### Clocks (R3, R285) -/

/-- One tenant holds all 64 bulkheads (R3). -/
def State.soleTenant (s : State) : Bool :=
  match s.tenants with
  | [t] => (List.range 64).all fun b => decide ((s.bulkhead b).tag.toNat = t)
  | _ => false

/-- The clock a bulkhead should have (R3). -/
def State.targetMhz (s : State) (bh : Nat) : BitVec 10 :=
  if s.soleTenant then BitVec.ofNat 10 (700 + Config.clockAbove bh % 161) else 700

/-- One bulkhead at a time whose clock is not as R3 has it begins to relock its PLL (R285). DESIGN CHOICE (log entry 129): the one with the
lowest number; R3 and R285 give no order. -/
def State.retune (s : State) : State :=
  if s.bulkheads.any fun p => p.2.relocking then s
  else match (List.range 64).find? fun b => decide ((s.bulkhead b).mhz ≠ s.targetMhz b) with
    | none => s
    | some b => s.setBulkhead b { s.bulkhead b with relocking := true }

/-- Who holds bulkheads has changed: a tenant that holds none is a new one when it is admitted again (R3, R285; DESIGN CHOICE, log
entry 129), the drover writes its slot tables anew (R258, R261), and the clocks follow R3. -/
def State.rebalance (s : State) : State :=
  let plan := Config.slotPlan s.free
  let own (w : BitVec 16) : BitVec 16 := w &&& 0xFF00
  let s := { s with free := s.free + 1 }
  let s := s.updDrover fun d => { d with
    launched := d.launched.filter s.tenants.contains,
    slotsComing := some (amap plan.1 fun _ w => own w, amap plan.2 fun _ w => own w) }
  s.retune

/-- A first launch of a tenant beside another waits until every bulkhead reads 700 MHz (R3, R285). -/
def State.clocksAllow (s : State) (tenant : Nat) : Bool :=
  decide (s.tenants.length ≤ 1) || s.drover.launched.contains tenant ||
  (List.range 64).all fun b => decide ((s.bulkhead b).mhz = 700) && !(s.bulkhead b).relocking

end Sys2Proof.Machine
end

