-- ==== Sys2Proof/Machine/BulkheadOps.lean ====
section
/-! DEFINITION. Bulkheads: gates (R277, R278), assignment and release (R276), reset (R294, R295), zeroisation (R281), time
slices and parking (R287–R289), retirement (R322), relocking (R285), and the double fault (R306). -/

namespace Sys2Proof.Machine

/-! ### Gates (R277, R278) -/

/-- The package coordinates of a bulkhead (R277). -/
def bhX (b : Nat) : Nat := 4 * (b / 16 % 2) + b % 4
def bhY (b : Nat) : Nat := 4 * (b / 16 / 2) + b % 16 / 4

/-- The bulkhead at package coordinates. -/
def bhAt (x y : Nat) : Nat := 16 * (2 * (y / 4) + x / 4) + 4 * (y % 4) + x % 4

/-- The bulkhead a gate faces: 0 N, 1 E, 2 S, 3 W; none at the package edge (R277). -/
def facing (b side : Nat) : Option Nat :=
  let x := bhX b
  let y := bhY b
  match side with
  | 0 => if y = 0 then none else some (bhAt x (y - 1))
  | 1 => if x = 7 then none else some (bhAt (x + 1) y)
  | 2 => if y = 7 then none else some (bhAt x (y + 1))
  | _ => if x = 0 then none else some (bhAt (x - 1) y)

/-- A gate is open exactly when the bulkheads on both sides are ACTIVE with the same owner tag (R278). -/
def State.gateOpen (s : State) (b side : Nat) : Bool :=
  match facing b side with
  | none => false
  | some c => decide ((s.bulkhead b).state = .active) && decide ((s.bulkhead c).state = .active) &&
      decide ((s.bulkhead b).tag = (s.bulkhead c).tag)

/-- The number of a bulkhead state (R275). -/
def BhState.code : BhState → Nat
  | .free => 0
  | .active => 1
  | .switching => 2
  | .reset => 3
  | .retired => 4

/-- The fabric clock of a bulkhead in MHz: that of its PLL, or half of it while it is degraded (R285, R353). -/
def Bulkhead.clock (b : Bulkhead) : Nat := if b.degraded then b.mhz.toNat / 2 else b.mhz.toNat

/-- The status word of a bulkhead (R275). -/
def State.bhStatus (s : State) (n : Nat) : W32 :=
  let b := s.bulkhead n
  let bit (v : Bool) (k : Nat) : Nat := if v then 2 ^ k else 0
  let win := (b.windows.zipIdx.map fun p => bit (p.1.getLsbD 15) (12 + p.2)).sum
  BitVec.ofNat 32 (b.state.code * 2 ^ 29 + b.tag.toNat * 2 ^ 22 + bit (s.gateOpen n 0) 21 + bit (s.gateOpen n 1) 20 +
    bit (s.gateOpen n 2) 19 + bit (s.gateOpen n 3) 18 + win + bit b.shared 11 + bit b.degraded 10 + b.clock)

/-! ### Zeroisation begins and ends (R281) -/

/-- A bulkhead is zeroised towards a tag: nothing in it can be read until the pass is done. -/
def State.beginZeroise (s : State) (bh : Nat) (next : BitVec 7) (st : BhState) (busy : BhBusy) : State :=
  let s := s.zeroise bh
  s.setBulkhead bh { s.bulkhead bh with state := st, nextTag := next, busy := busy, windows := [0, 0, 0, 0], windowWrites := [] }

/-- The slice length of a tenant in ns (R273, R287). -/
def State.sliceNs (s : State) (tenant : Nat) : Nat := 1000 * recField (s.record tenant) 160 32

/-- The overrun a tenant owes, in µs (R273, R288). -/
def State.overrun (s : State) (tenant : Nat) : Nat := recField (s.record tenant) 128 32

/-- The record with another overrun, saturating (R273). -/
def withOverrun (r : BitVec 512) (v : Nat) : BitVec 512 :=
  BitVec.ofNat 512 (r.toNat - recField r 128 32 * 2 ^ 128 + min v (2 ^ 32 - 1) * 2 ^ 128)

/-- The overrun of a tenant set. -/
def State.setOverrun (s : State) (tenant v : Nat) : State :=
  s.updDrover fun d => { d with records := aset d.records tenant (withOverrun (s.record tenant) v) }

/-- The hypervisor's view of what a tenant holds follows the bulkhead (R273). -/
def State.setMask (s : State) (tenant bh : Nat) (v : Bool) : State :=
  let r := s.record tenant
  let r := if v then r ||| (1#512 <<< (448 + bh)) else r &&& ~~~(1#512 <<< (448 + bh))
  s.updDrover fun d => { d with records := aset d.records tenant r }

/-! ### Cancelled operations (R294) -/

/-- The completion object of a cancelled operation is written if it lies in a frame of the tenant that is still valid, over what its
forme holds there (R294). -/
def State.writeCancelled (s : State) (o : EngineOp) : State :=
  let word := completionWord stCancelled.toNat (msgClass o.header) (msgOp o.header) o.progress
  match s.translate o.tenant (msgReply o.header).toNat with
  | (s, .page _ p) => if s.frameOk o.tenant p then s.writeThrough o.inst p (wordBytes 8 word) else s
  | (s, _) => s

/-- The operations the sheets of a bulkhead have issued (R294). -/
def State.opsFrom (s : State) (bh : Nat) : Assoc Nat EngineOp := s.ops.filter fun p => (bhSheets bh).contains p.2.sheet

/-- Every operation that the sheets of a bulkhead have issued and that has not completed ends CANCELLED (R294). -/
def State.cancelOps (s : State) (bh : Nat) : State :=
  let ops := s.opsFrom bh
  (ops.foldl (fun s p => s.writeCancelled p.2) s).dropOps (ops.map Prod.fst)

/-! ### Retirement (R276, R322) -/

/-- A bulkhead is retired: operations of its sheets end CANCELLED (R294), its launches end with BH_RETIRED, the tenants it touches are
told, it is zeroised and never used again, its rail is off, and REPLACE_REQUEST is set (R276, R322). Without a rail its PLL is back at the
700 MHz of reset (DEDUCED from R3 and R285, log entry 129). -/
def State.retireBh (s : State) (bh : Nat) : State :=
  let b := s.bulkhead bh
  if b.state = .retired then s
  else
    let s := (s.cancelOps bh).endLaunches (s.instsOn bh) kBhRetired
    let s := b.holders.foldl (fun s t => ((s.attestedChange t).setMask t bh false).tellTenant t
      { kind := 4, fault := kBhRetired.setWidth 7, tag := 0, a := BitVec.ofNat 32 bh, b := 0, c := 0 }) s
    let s := s.beginZeroise bh 0 .retired .no
    let s := s.setBulkhead bh { s.bulkhead bh with
      tag := 0, shared := false, rotation := [], parked := [], relocking := false, mhz := 700, rail := 0, asks := [] }
    s.rebalance.updPackage fun p => { p with replace := true, retired := p.retired ++ [bh] }

/-! ### Park areas (R289) -/

/-- The leaves of a tenant's page tables from one table on: each with where it maps to and its size (R336). -/
def State.leaves (s : State) (tenant table : Nat) (levels : List (Nat × Nat × Nat × Nat)) : List (Word × Nat × Nat) :=
  match levels with
  | [] => []
  | (_, width, size, next) :: rest =>
    (List.range (2 ^ width)).flatMap fun i =>
      let at_ := table + 8 * i
      let e := bytesWord (s.mem.read at_ 8)
      if !(s.frameOk tenant at_) || isFm at_ || !(e.getLsbD 0) || !(entryReserved e) then []
      else if e.getLsbD 1 then (if size = 0 then [] else [(e, entryAddr e, size)])
      else if next = 0 then [] else s.leaves tenant (entryAddr e) rest

/-- Physical bytes lie on pinned RC pages of DM of a tenant, in its frames (R289, R337). -/
def State.pinnedRc (s : State) (tenant p n : Nat) : Bool :=
  let l := s.leaves tenant (s.ptroot tenant) pageLevels
  (List.range ((n + 65535) / 65536)).all fun j =>
    let q := p + 65536 * j
    s.frameOk tenant q && l.any fun x =>
      x.1.getLsbD 59 && !(x.1.getLsbD 61) && decide (leafOrd x.1 = 1#2) && decide (x.2.1 ≤ q) && decide (q + 65536 ≤ x.2.1 + x.2.2)

/-- Bytes of a park image: 32 MiB of scratch and 32 KiB of queues (R289). -/
def parkSize : Nat := 0x2008000

/-- Where the image of a tenant's shared bulkhead starts: the i-th of them, in ascending order (R289). -/
def State.parkBase (s : State) (tenant bh : Nat) : Nat :=
  let i := ((List.range bh).filter fun b => (s.bulkhead b).shared && (s.bulkhead b).holders.contains tenant).length
  recField (s.record tenant) 208 48 + i * 0x4000000

/-- The place of a tenant's image of a bulkhead is 64 MiB-aligned and lies on pinned RC pages in its frames (R289). -/
def State.parkOk (s : State) (tenant bh : Nat) : Bool :=
  let park := s.parkBase tenant bh
  decide (park % 0x4000000 = 0) && s.pinnedRc tenant park parkSize

/-- Where byte `off` of the scratch of a park image belongs: TS of the four sheets, SS of the four sheets, the DS bank (R289; the order
is the rule's, DEDUCED, log entry 131). -/
def parkLoc (bh off : Nat) : Nat :=
  let sh (k : Nat) : Nat := (bhSheets bh).getD k 0
  if off < 0x800000 then sheetLoc (sh (off / 0x200000)) (off % 0x200000)
  else if off < 0x1800000 then ssLoc (sh ((off - 0x800000) / 0x400000)) ((off - 0x800000) % 0x400000)
  else dsLoc bh (off - 0x1800000)

/-- The place in a park image of a byte of scratch. -/
def parkOff (bh loc : Nat) : Nat :=
  match (bhSheets bh).findIdx? fun sh => decide (sheetLoc sh 0 ≤ loc) && decide (loc < sheetLoc sh 0x2000000) with
  | none => 0x1800000 + (loc - dsLoc bh 0)
  | some k =>
    let off := loc - sheetLoc ((bhSheets bh).getD k 0) 0
    if off < 0x1000000 then 0x200000 * k + off else 0x800000 + 0x400000 * k + (off - 0x1000000)

/-! ### Assignment and release (R276, R287) -/

/-- A further tenant may share a bulkhead in use (R282, R287, R289): at most eight, no window on its bank in force or to come, and every
park area in place. -/
def State.mayShare (s : State) (bh tenant : Nat) : Bool :=
  let b := s.bulkhead bh
  decide (b.rotation.length < 8) && !(b.rotation.contains tenant) && !((b.windows ++ b.windowsComing).any fun e => e.getLsbD 15) &&
  s.parkOk tenant bh && (b.shared || b.holders.all fun t => s.parkOk t bh)

/-- A tenant joins the rotation list of a bulkhead in use (R287); it may be the second in the package (R285). -/
def State.shareBh (s : State) (bh tenant : Nat) : State :=
  let s := (s.bulkhead bh).holders.foldl State.attestedChange (s.attestedChange tenant)
  let b := s.bulkhead bh
  let s := s.setMask tenant bh true
  let sliceEnd := if b.shared then b.sliceEnd else s.time + s.sliceNs b.tag.toNat
  (s.setBulkhead bh { b with shared := true, rotation := b.rotation ++ [tenant], sliceEnd := sliceEnd }).rebalance

/-- A bulkhead given to a tenant: a FREE one is zeroised and tagged before it becomes ACTIVE; one in use is shared from then on (R276,
R281, R287). A tenant without an active record, or one that may not share, gets none, and the bit of its set is clear. -/
def State.assignBh (s : State) (bh tag : Nat) : State :=
  let b := s.bulkhead bh
  if tag = 0 ∨ 127 ≤ tag then s
  else if b.state = .active ∧ b.holders.contains tag = true then s
  else if s.activeTenant tag = false then s.setMask tag bh false
  else if b.state = .free then ((s.attestedChange tag).setMask tag bh true).beginZeroise bh (BitVec.ofNat 7 tag) .free .zeroising
  else if s.mayShare bh tag then s.shareBh bh tag
  else s.setMask tag bh false

/-- A tenant leaves a bulkhead (R272): the only one releases it; a parked one leaves the rotation list (DESIGN CHOICE, log entry
132). -/
def State.leaveBh (s : State) (bh tag : Nat) : State :=
  let b := s.bulkhead bh
  if b.holders = [tag] then s.setBulkhead bh { b with busy := .releasing }
  else if b.holders.contains tag then
    let s := b.holders.foldl State.attestedChange s
    let rotation := b.rotation.filter fun t => decide (t ≠ tag)
    s.setBulkhead bh { s.bulkhead bh with
      rotation := rotation, shared := decide (1 < rotation.length), parked := b.parked.filter fun p => decide (p.tenant ≠ tag) }
  else s

/-- Once every phase on a released bulkhead has ended, its gates close and it is zeroised (R276). -/
def execBulkheadReleaseDone (bh : Nat) (s : State) : Result :=
  let b := s.bulkhead bh
  .next (if b.state = .active ∧ b.busy = .releasing ∧ s.instsOn bh = [] then
      let s := b.holders.foldl (fun s t => (s.attestedChange t).setMask t bh false) s
      s.beginZeroise bh 0 .switching .zeroising
    else s)

/-! ### Relocking (R285) -/

/-- The rail of a bulkhead at a clock: 400 mV at 700 MHz, above it somewhere in the window of R2 (R285). -/
def railFor (bh : Nat) (mhz : BitVec 10) : Nat := if mhz = 700 then 400 else 360 + Config.railMillivolts bh mhz.toNat % 101

/-- A PLL has relocked: the bulkhead's fabric resumes at the clock of R3, its rail follows, and the next that must change begins
(R285). -/
def execPllRelockDone (bh : Nat) (s : State) : Result :=
  let b := s.bulkhead bh
  let mhz := s.targetMhz bh
  .next (if b.relocking then (s.setBulkhead bh { b with relocking := false, mhz := mhz, rail := railFor bh mhz }).retune else s)

/-! ### Reset (R294, R295) -/

/-- A release of the bulkhead has been taken and is not done (R276). -/
def Bulkhead.releasing (b : Bulkhead) : Bool := decide (b.busy = .releasing) || (decide (b.state = .switching) && decide (b.busy = .zeroising))

/-- A reset begins: gates close, operations of its sheets end CANCELLED, the formes on the bulkhead end, and the reset line is held;
with a release, or where one is under way, the bulkhead is no tenant's any more (R273, R276, R294, R295). -/
def State.resetBh (s : State) (bh : Nat) (release : Bool) : State :=
  let b := s.bulkhead bh
  if b.state = .active ∨ b.state = .switching then
    let free := release || b.releasing
    let s := b.holders.foldl State.attestedChange s
    let s := s.setBulkhead bh { s.bulkhead bh with state := .reset, busy := .resetLine, free := free, windows := [0, 0, 0, 0],
                                                   windowWrites := [], nextTag := if free then 0 else b.tag }
    let s := if free then b.holders.foldl (fun s t => s.setMask t bh false) s else s
    let s := s.cancelOps bh
    s.endLaunches (s.instsOn bh) kReset
  else s

/-! ### What is asked of a bulkhead (R276) -/

/-- The state of a bulkhead allows what is asked of it (R276). The holder of a shared bulkhead leaves once it is parked. -/
def Bulkhead.allows (b : Bulkhead) (a : BhAsk) : Bool :=
  let settled (st : BhState) : Bool := decide (b.state = st) && decide (b.busy = .no)
  match a with
  | .assign _ => (settled .free && b.started) || settled .active
  | .release => settled .active
  | .leave t => settled .free || (settled .active && (decide (b.tag.toNat ≠ t) || decide (b.holders = [t])))
  | .reset _ => decide (b.state = .active) || decide (b.state = .switching)

/-- What is asked of a bulkhead, done (R276). -/
def State.serveAsk (s : State) (bh : Nat) (a : BhAsk) : State :=
  match a with
  | .assign t => s.assignBh bh t
  | .release => s.setBulkhead bh { s.bulkhead bh with busy := .releasing }
  | .leave t => s.leaveBh bh t
  | .reset free => s.resetBh bh free

/-- What is asked of a bulkhead is done as far as its state allows, the oldest first; the rest waits (R276). -/
def State.serveBh (s : State) (bh fuel : Nat) : State :=
  match fuel with
  | 0 => s
  | fuel + 1 =>
    let b := s.bulkhead bh
    match b.asks.find? b.allows with
    | none => s
    | some a => ((s.setBulkhead bh { b with asks := b.asks.erase a }).serveAsk bh a).serveBh bh fuel

/-- Something is asked of a bulkhead; nothing more of one that is RETIRED (R276). -/
def State.askBh (s : State) (bh : Nat) (a : BhAsk) : State :=
  let b := s.bulkhead bh
  if b.state = .retired then s
  else (s.setBulkhead bh { b with asks := b.asks ++ [a] }).serveBh bh (b.asks.length + 1)

/-- The hypervisor assigns a bulkhead to a tenant (R276, R281, R287). -/
def execBulkheadAssign (bh tag : Nat) (s : State) : Result := .next (s.askBh bh (.assign tag))

/-- The hypervisor releases a bulkhead: no further phase is placed on it (R276). -/
def execBulkheadRelease (bh : Nat) (s : State) : Result := .next (s.askBh bh .release)

/-- A reset of a single bulkhead is requested (R294). -/
def execBulkheadReset (bh : Nat) (release : Bool) (s : State) : Result := .next (s.askBh bh (.reset release))

/-- After 2 µs the reset line is released, the PLL relocks, and zeroisation begins (R294). -/
def execResetLineRelease (bh : Nat) (s : State) : Result :=
  let b := s.bulkhead bh
  .next (if b.state = .reset ∧ b.busy = .resetLine then s.beginZeroise bh b.nextTag .reset .zeroising else s)

/-- A fetch that fails (R82): it traps ACCESS with the address fetched, as EPC too (DEDUCED, log entry 133), and a stray tag is an
isolation event (R279); at the first instruction of a handler it is a double fault, which ends the launch and resets the bulkhead alone
(R306). A line with an uncorrectable error is lost at rest (R326); as a handler's first it is a double fault. -/
def execInstructionFetchFault (s : State) : Result :=
  let addr := s.fetchAddr s.curSheet s.curCtx
  let loc := codeLoc s.curSheet addr
  let s := if s.strayFetch s.curSheet s.curCtx then s.isolationEvent s.threadAgent loc else s
  let lost := inCode s.curCtx addr.toNat && s.isFaulty loc
  .next (if s.cur.entering then
      let bh := bhOf s.curSheet
      let s := if lost then s.meet loc else s
      let s := s.cancelOps bh
      (match s.curInst with
       | some (id, _) => s.endLaunch id kDoubleFault 0
       | none => s).resetBh bh false
    else if lost then (s.giveBack).meet loc
    else
      let s := s.trap kAccess addr
      if s.cur.entering then s.setCur { s.cur with epc := addr } else s)

/-! ### Zeroisation is done (R276, R281) -/

/-- A bulkhead whose pass is done: FREE without a tag, else ACTIVE for the tenant it was tagged for. -/
def State.finishZeroise (s : State) (bh : Nat) : State :=
  let b := s.bulkhead bh
  if b.nextTag = 0 then
    s.setBulkhead bh { b with state := .free, tag := 0, busy := .no, free := false, shared := false, rotation := [], parked := [],
                              started := true }
  else
    let t := b.nextTag.toNat
    let rotation := if b.rotation.isEmpty then [t] else b.rotation
    s.setBulkhead bh { b with state := .active, tag := b.nextTag, busy := .no, free := false, rotation := rotation }

/-- A zeroisation and its read-back are done; a line that fails is a lasting fault, and the bulkhead is retired (R281, R322,
R351). In a time-slice switch the next tenant's image is restored now (R288). -/
def execZeroisationDone (bh : Nat) (readBackFails : Bool) (s : State) : Result :=
  let b := s.bulkhead bh
  .next (if b.busy = .zeroising then
      if readBackFails then s.retireBh bh else (s.finishZeroise bh).rebalance
    else if b.busy = .zeroisingNext then
      if readBackFails then s.retireBh bh else s.setBulkhead bh { b with tag := b.nextTag, busy := .restoring }
    else s)

/-! ### Time slices (R287–R289) -/

/-- The holder's slice has expired: no further phase of it is placed there (R288). -/
def execTimeSliceExpiry (bh : Nat) (s : State) : Result :=
  let b := s.bulkhead bh
  .next (if b.shared && decide (b.state = .active) && decide (b.busy = .no) && decide (b.sliceEnd ≤ s.time) then
      s.setBulkhead bh { b with busy := .sliceEnded }
    else s)

/-- After the last phase on the bulkhead has ended the switch begins: the time from the expiry to that end is added to the holder's
overrun, and its state is parked (R288). -/
def execBulkheadSwitch (bh : Nat) (s : State) : Result :=
  let b := s.bulkhead bh
  .next (if b.state = .active ∧ b.busy = .sliceEnded ∧ s.instsOn bh = [] then
      let t := b.tag.toNat
      let s := s.attestedChange t
      let s := s.setOverrun t (s.overrun t + (b.phaseEnded - b.sliceEnd) / 1000)
      s.setBulkhead bh { b with state := .switching, busy := .parking }
    else s)

/-- The park image at an address lies in frames of the tenant (R280). -/
def State.parkFrames (s : State) (tenant base : Nat) : Bool := s.frameOk tenant base && s.frameOk tenant (base + parkSize - 1)

/-- The park image of a bulkhead: its scratch in the holder's park area in DM, with the 32 KiB of its queues behind it, whose form no rule
gives; what the model keeps of the queues is beside it (R289). -/
def State.parkImage (s : State) (bh : Nat) : State × Park :=
  let t := (s.bulkhead bh).tag.toNat
  let base := s.parkBase t bh
  let p : Park := { tenant := t, base := base, queues := (bhSheets bh).map fun sh => (sh, (s.sheet sh).queues),
                    images := s.images.filter fun p => inScratch bh p.1 }
  let cells := (s.mem.filter fun c => inScratch bh c.1).map fun c => (base + parkOff bh c.1, c.2)
  if s.parkFrames t base then
    let m := (s.mem.clear base (base + 0x2000000)).scatter cells
    ({ s with mem := m.write (base + 0x2000000) ((List.range 0x8000).map (Config.parkedQueues s.free)), free := s.free + 1 }, p)
  else (s, p)

/-- The tenant after another in a rotation list (R287, R288). -/
def nextHolder (l : List Nat) (t : Nat) : Nat :=
  match l.dropWhile fun x => decide (x ≠ t) with
  | _ :: x :: _ => x
  | _ => l.headD 0

/-- The park image is written: the bulkhead is zeroised for the next tenant of the rotation (R288, R289). -/
def execParkComplete (bh : Nat) (s : State) : Result :=
  let b := s.bulkhead bh
  .next (if b.state = .switching ∧ b.busy = .parking then
      match s.parkImage bh with
      | (s, p) =>
        let parked := p :: b.parked.filter fun p => decide (p.tenant ≠ b.tag.toNat)
        let s := s.setBulkhead bh { b with parked := parked }
        s.beginZeroise bh (BitVec.ofNat 7 (nextHolder b.rotation b.tag.toNat)) .switching .zeroisingNext
    else s)

/-- A park image put back (R288, R289). One that no longer lies in frames of the tenant is lost, and nothing is restored (R280; DEDUCED,
log entry 131). -/
def State.restorePark (s : State) (bh : Nat) (p : Park) : State :=
  if s.parkFrames p.tenant p.base then
    let cells := (s.mem.filter fun c => decide (p.base ≤ c.1) && decide (c.1 < p.base + 0x2000000)).map fun c =>
      (parkLoc bh (c.1 - p.base), c.2)
    let s := { s with mem := s.mem.scatter cells, images := s.images ++ p.images }
    p.queues.foldl (fun s q => s.setSheet q.1 { s.sheet q.1 with queues := q.2 }) s
  else s

/-- The park images that no longer lie where R289 has them, since the shared bulkheads of their tenant are others now: each with its
bulkhead and its new place. -/
def State.misplaced (s : State) : List (Nat × Park × Nat) :=
  s.bulkheads.flatMap fun b => b.2.parked.filterMap fun p =>
    let place := s.parkBase p.tenant b.1
    if place ≠ p.base ∧ s.parkFrames p.tenant p.base = true ∧ s.parkFrames p.tenant place = true then some (b.1, p, place) else none

/-- The bytes of park images as they are to lie at their new places. -/
def Memory.parkCells (m : Memory) (l : List (Nat × Park × Nat)) : List (Nat × Byte) :=
  l.flatMap fun x => (m.filter fun c => decide (x.2.1.base ≤ c.1) && decide (c.1 < x.2.1.base + parkSize)).map fun c =>
    (x.2.2 + (c.1 - x.2.1.base), c.2)

/-- A park image of a bulkhead with its new place, if it has one. -/
def Park.moved (l : List (Nat × Park × Nat)) (bh : Nat) (p : Park) : Park :=
  match l.find? fun x => decide (x.1 = bh) && decide (x.2.1.tenant = p.tenant) with
  | some x => { p with base := x.2.2 }
  | none => p

/-- Park images move to where the i-th shared bulkhead of a tenant has its image (R289; DEDUCED, log entry 131). -/
def State.moveParks (s : State) : State :=
  match s.misplaced with
  | [] => s
  | l =>
    let places := l.map (fun x => x.2.1.base) ++ l.map fun x => x.2.2
    let cleared := places.foldl (fun m a => m.clear a (a + parkSize)) s.mem
    { s with
      mem := cleared.scatter (s.mem.parkCells l),
      bulkheads := amap s.bulkheads fun n b => { b with parked := b.parked.map (Park.moved l n) } }

/-- The next tenant's image is restored, where it has one, and the bulkhead becomes ACTIVE for it; its slice is shortened by the
overrun it owes (R288). -/
def execRestoreComplete (bh : Nat) (s : State) : Result :=
  let b := s.bulkhead bh
  .next (if b.state = .switching ∧ b.busy = .restoring then
      let t := b.tag.toNat
      let s := match b.parked.find? fun p => decide (p.tenant = t) with
        | some p => s.restorePark bh p
        | none => s
      let len := s.sliceNs t / 1000
      let owed := min len (s.overrun t)
      let s := s.setOverrun t (s.overrun t - owed)
      let parked := b.parked.filter fun p => decide (p.tenant ≠ t)
      (s.setBulkhead bh { b with state := .active, busy := .no, parked := parked, sliceEnd := s.time + 1000 * (len - owed) }).rebalance
    else s)

end Sys2Proof.Machine
end

