-- ==== Sys2Proof/Machine/ElemArith.lean ====
section
/-! DEFINITION. Element op words: arithmetic, logic, compare and select (R121–R125), constants (R126), the special
functions (R127), lanes (R128). -/

namespace Sys2Proof.Machine

/-- `add`: a + b (R122–R124). -/
def execElemAdd (a b : Src) (d : Dst) (n : BitVec 4) (sat e : Bool) (s : State) : Result :=
  .next (s.alu [a, b] d n e fun t x y _ => arith2 t sat (· + ·) FpNum.add x y)

/-- `sub`: a − b (R122–R124). -/
def execElemSub (a b : Src) (d : Dst) (n : BitVec 4) (sat e : Bool) (s : State) : Result :=
  .next (s.alu [a, b] d n e fun t x y _ => arith2 t sat (· - ·) FpNum.sub x y)

/-- `mul`: a·b (R122–R124). -/
def execElemMul (a b : Src) (d : Dst) (n : BitVec 4) (sat e : Bool) (s : State) : Result :=
  .next (s.alu [a, b] d n e fun t x y _ => arith2 t sat (· * ·) FpNum.mul x y)

/-- `fma`: a·b + c, rounded, wrapped or clamped once (R122–R124). -/
def execFma (a b c : Src) (d : Dst) (n : BitVec 4) (sat e : Bool) (s : State) : Result :=
  .next (s.alu [a, b, c] d n e fun t x y z => fmaLanes t sat x y z)

/-- `min` (R124). -/
def execElemMin (a b : Src) (d : Dst) (n : BitVec 4) (e : Bool) (s : State) : Result :=
  .next (s.alu [a, b] d n e fun t x y _ => arith2 t false min minNum x y)

/-- `max` (R124). -/
def execElemMax (a b : Src) (d : Dst) (n : BitVec 4) (e : Bool) (s : State) : Result :=
  .next (s.alu [a, b] d n e fun t x y _ => arith2 t false max maxNum x y)

/-- `abs` (R122–R124). -/
def execAbs (a : Src) (d : Dst) (n : BitVec 4) (e : Bool) (s : State) : Result :=
  .next (s.alu [a] d n e fun t x _ _ => absLanes t x)

/-- `neg` (R122–R124). -/
def execNeg (a : Src) (d : Dst) (n : BitVec 4) (e : Bool) (s : State) : Result :=
  .next (s.alu [a] d n e fun t x _ _ => negLanes t x)

/-- `shl`: a·2^k (R124). -/
def execElemShl (a b : Src) (d : Dst) (n : BitVec 4) (sat e : Bool) (s : State) : Result :=
  .next (s.alu [a, b] d n e fun t x y _ => shlLanes t sat x y)

/-- `shr` (R124). -/
def execElemShr (a b : Src) (d : Dst) (n : BitVec 4) (e : Bool) (s : State) : Result :=
  .next (s.alu [a, b] d n e fun t x y _ => shrLanes t x y)

/-- `sra` (R124). -/
def execElemSra (a b : Src) (d : Dst) (n : BitVec 4) (e : Bool) (s : State) : Result :=
  .next (s.alu [a, b] d n e fun t x y _ => sraLanes t x y)

/-- A bitwise operation: a and b of any two tags, the result with the tag of a (R124). -/
def State.bitwise (s : State) (a b : Src) (d : Dst) (n : BitVec 4) (e : Bool) (f : W32 → W32 → W32) : State :=
  s.opWith [a, b] 1 e fun k r ts =>
    let x := operandAt ts 0
    s.writeDst k r d n ⟨x.fmt, f x.value (operandAt ts 1).value⟩

/-- `and` (R124). -/
def execElemAnd (a b : Src) (d : Dst) (n : BitVec 4) (e : Bool) (s : State) : Result :=
  .next (s.bitwise a b d n e fun x y => x &&& y)

/-- `or` (R124). -/
def execElemOr (a b : Src) (d : Dst) (n : BitVec 4) (e : Bool) (s : State) : Result :=
  .next (s.bitwise a b d n e fun x y => x ||| y)

/-- `xor` (R124). -/
def execElemXor (a b : Src) (d : Dst) (n : BitVec 4) (e : Bool) (s : State) : Result :=
  .next (s.bitwise a b d n e fun x y => x ^^^ y)

/-- `not` (R124). -/
def execNot (a : Src) (d : Dst) (n : BitVec 4) (e : Bool) (s : State) : Result :=
  .next (s.alu [a] d n e fun t x _ _ => some (~~~x))

/-- `cmp`: all ones where the condition holds, with the integer tag of the lane width (R125). -/
def execCmp (a b : Src) (d : Dst) (n : BitVec 4) (cc : BitVec 3) (e : Bool) (s : State) : Result :=
  .next (s.opWith [a, b] 1 e fun k r ts =>
    let x := operandAt ts 0
    aluRes ts (cmpLanes x.fmt cc.toNat x.value (operandAt ts 1).value) s k r d n (cmpTag x.fmt))

/-- `sel`: a an integer tag with as many lanes as b, b and c of one tag, which the result takes (R125). -/
def execSel (a b c : Src) (d : Dst) (n : BitVec 4) (e : Bool) (s : State) : Result :=
  .next (s.opWith [a, b, c] 1 e fun k r ts =>
    let x := operandAt ts 0
    let y := operandAt ts 1
    let z := operandAt ts 2
    if !(isIntTag x.fmt) || decide (laneCount x.fmt ≠ laneCount y.fmt) then .fmt x.bits
    else if z.fmt ≠ y.fmt then .fmt z.bits
    else s.writeDst k r d n ⟨y.fmt, selLanes y.fmt x.value y.value z.value⟩)

/-- `mov` (R124). -/
def execMov (a : Src) (d : Dst) (n : BitVec 4) (e : Bool) (s : State) : Result :=
  .next (s.alu [a] d n e fun t x _ _ => some x)

/-- `const`: the immediate word with the tag of mod; it takes two slots (R126). -/
def execConst (d : Dst) (n : BitVec 4) (tag : BitVec 3) (e : Bool) (imm : W32) (s : State) : Result :=
  .next (s.opWith [] 2 e fun k r _ => s.writeDst k r d n ⟨tag, imm⟩)

/-- `exp2`, correctly rounded (R127). -/
def execExp2 (a : Src) (d : Dst) (n : BitVec 4) (e : Bool) (s : State) : Result :=
  .next (s.alu [a] d n e fun t x _ _ => special t FpNum.exp2 x)

/-- `log2`, correctly rounded (R127). -/
def execLog2 (a : Src) (d : Dst) (n : BitVec 4) (e : Bool) (s : State) : Result :=
  .next (s.alu [a] d n e fun t x _ _ => special t FpNum.log2 x)

/-- `rcp`, correctly rounded (R127). -/
def execRcp (a : Src) (d : Dst) (n : BitVec 4) (e : Bool) (s : State) : Result :=
  .next (s.alu [a] d n e fun t x _ _ => special t FpNum.rcp x)

/-- `rsq`, correctly rounded (R127). -/
def execRsq (a : Src) (d : Dst) (n : BitVec 4) (e : Bool) (s : State) : Result :=
  .next (s.alu [a] d n e fun t x _ _ => special t FpNum.rsq x)

/-- `sqrt`, correctly rounded (R127). -/
def execSqrt (a : Src) (d : Dst) (n : BitVec 4) (e : Bool) (s : State) : Result :=
  .next (s.alu [a] d n e fun t x _ _ => special t FpNum.sqrt x)

/-- `lane`: lane N in lane 0; FMT at or beyond the lane count (R128). -/
def execLane (a : Src) (d : Dst) (n : BitVec 4) (l : BitVec 2) (e : Bool) (s : State) : Result :=
  .next (s.alu [a] d n e fun t x _ _ => laneMove t l.toNat x)

/-- `bcast`: lane 0 in every lane (R128). -/
def execBcast (a : Src) (d : Dst) (n : BitVec 4) (e : Bool) (s : State) : Result :=
  .next (s.alu [a] d n e fun t x _ _ => some (bcastLanes t x))

end Sys2Proof.Machine
end

