-- ==== Sys2Proof/Machine/Launch.lean ====
section
/-! DEFINITION. Launches as the drover reads and checks them (R339–R342), and the registers of a VF by which a driver works
the rings, answers stalls, supervises budgets and invalidates translations (R307, R337, R338). -/

namespace Sys2Proof.Machine

/-! ### CRC-32C (R339) -/

/-- One bit of the CRC. -/
def crcBit (c : W32) : W32 := if c.getLsbD 0 then (c >>> 1) ^^^ 0x82F63B78 else c >>> 1

/-- One byte of the CRC. -/
def crcByte (c : W32) (b : Byte) : W32 := (List.range 8).foldl (fun c _ => crcBit c) (c ^^^ b.setWidth 32)

/-- CRC-32C: Castagnoli, reflected, initial value and final XOR all ones (R339). -/
def crc32c (bs : List Byte) : W32 := (bs.foldl crcByte 0xFFFFFFFF) ^^^ 0xFFFFFFFF

/-! ### Packets and phase entries (R339, R340) -/

/-- A field of a launch packet. -/
def pf (p : List Byte) (lo w : Nat) : Nat := bitsOf (leNat p) lo w

/-- The packet carries the expected stamp twice and its CRC (R341). -/
def packetPasses (p : List Byte) (expect : BitVec 16) : Bool :=
  decide (pf p 0 16 = expect.toNat) && decide (pf p 496 16 = expect.toNat) &&
  decide (pf p 464 32 = (crc32c (p.take 58)).toNat)

/-- Check 1 of R342. -/
def packetOp (p : List Byte) : Bool :=
  decide (pf p 16 8 = 1) && decide (pf p 40 24 = 0) && decide (pf p 304 16 = 0) && decide (pf p 368 16 = 0) &&
  decide (pf p 448 16 = 0) && decide (1 ≤ pf p 32 8) && decide (pf p 32 8 ≤ 64)

/-- What a phase-table entry asks for, once it has passed checks 2 to 6 of R342. -/
structure PhaseAsk where
  image : Image
  n : Nat
  params : List Word
  rasBase : Word
  rasLim : Word
  die : Nat
  deriving DecidableEq, Repr

/-- The die of the first position that could hold a chase: the slice stands in that die's queue (log entry 26). -/
def State.dieFor (s : State) (tenant : Nat) (m : Image) (v : ImageVariant) : Nat :=
  match (List.range 256).find? fun base => s.matching tenant m v base with
  | some base => base / 64
  | none => 0

/-- Bytes of one save area's part in DM (R312): header, keep ranges, bank images and front extensions (log entry 27). -/
def ImageVariant.saveBytes (v : ImageVariant) : Nat :=
  64 + ((v.keepRanges (List.range (v.w * v.h))).map fun k => k.2.2).sum +
  (v.allActors.map fun a => if a.cls = .pa then 0x10000 else if a.cls = .fe then 0x4000 else 0).sum

/-- Both save areas lie on pinned DM pages of the tenant (R312, R342). -/
def State.saveOk (s : State) (tenant save : Nat) (v : ImageVariant) : Bool :=
  let n := 2 * v.saveBytes
  decide (save + n ≤ 2 ^ 48) && s.pinnedPages tenant (save / 65536 * 65536) ((save % 65536 + n + 65535) / 65536)

/-- RASBASE and RASLIM of an entry keep the rules of R90. -/
def rasOk (base lim : Nat) : Bool :=
  decide (base % 8 = 0) && decide (lim % 8 = 0) && decide (base ≤ lim) && decide (lim < 0x300000)

/-- An own-SS offset as an address (R39). -/
def ssAddr (off : Nat) : Word := BitVec.ofNat 64 (0xFF00000001000000 + off)

/-- Checks 2 to 6 of R342 on entry i of a phase table: the reason of the first that fails, or what the entry asks for. -/
def State.checkPhase (s : State) (tenant ptab save i : Nat) : State × Except (BitVec 8) PhaseAsk :=
  if ptab % 32 ≠ 0 then (s, .error 2)
  else match s.droverRead tenant (ptab + 32 * i) 32 with
    | (s, none) => (s, .error 2)
    | (s, some e) =>
      if pf e 192 64 ≠ 0 ∨ pf e 128 16 ≠ 0 ∨ pf e 56 8 ≠ 0 ∨ pf e 64 64 % 8 ≠ 0 ∨ 2 ^ 48 ≤ pf e 64 64 then (s, .error 2)
      else match s.droverRead tenant (pf e 64 64) 64 with
        | (s, none) => (s, .error 2)
        | (s, some ps) =>
          match s.remoteAns tenant (pf e 0 48) 8 .read with
          | (s, .ok loc _) =>
            match aget? s.images loc with
            | none => (s, .error 3)
            | some m =>
              if !(m.ok) then (s, .error 3)
              else match m.variant (pf e 48 8) with
                | none => (s, .error 4)
                | some v =>
                  if !(s.couldFit tenant m v) then (s, .error 5)
                  else if !(rasOk (pf e 144 24) (pf e 168 24)) || !(s.saveOk tenant save v) then (s, .error 6)
                  else (s, .ok { image := m, n := pf e 48 8, params := wordsOf ps 8, rasBase := ssAddr (pf e 144 24),
                                 rasLim := ssAddr (pf e 168 24), die := s.dieFor tenant m v })
          | (s, _) => (s, .error 2)

/-- A slice as a packet describes it, with its first phase (R339). -/
def sliceOf (vf tenant : Nat) (p : List Byte) (a : PhaseAsk) (order now : Nat) : Slice :=
  let work := pf p 128 64
  let energy := pf p 192 64
  { vf := vf, tenant := tenant, die := a.die, stamp := BitVec.ofNat 16 (pf p 0 16), cookie := BitVec.ofNat 64 (pf p 384 64),
    prio := BitVec.ofNat 8 (pf p 24 8), deadline := BitVec.ofNat 64 (pf p 64 64), work := work,
    workFree := decide (work = 2 ^ 64 - 1), energy := energy, energyFree := decide (energy = 2 ^ 64 - 1), charged := 0,
    energyUsed := 0, energyPart := 0, save := BitVec.ofNat 48 (pf p 320 48), ptab := BitVec.ofNat 48 (pf p 256 48), nph := pf p 32 8,
    phase := 0, phasesRun := 0, accepted := order, waitSince := now, quantum := 0, sendBack := false, handles := [],
    image := some a.image, n := a.n, params := a.params, rasBase := a.rasBase, rasLim := a.rasLim, inst := none,
    state := .queued, heldForBudget := false, lastCut := 0, rankTime := 0, draining := false }

/-- The REFUSED record of a packet (R342, R343). -/
def refusedRecord (p : List Byte) (now : Nat) (reason : BitVec 8) : Completion :=
  { stamp := BitVec.ofNat 16 (pf p 0 16), nphr := 0, dmiss := decide (pf p 64 64 < now), status := 1, reason := reason,
    kind := 0, code := 0, cut := 0, energy := 0, work := 0, time := BitVec.ofNat 64 now,
    cookie := BitVec.ofNat 64 (pf p 384 64), inst := 0 }

/-- A packet that has passed R341 is validated: refused with the first failing check, else its slice joins the queue (R237,
R342). -/
def State.validate (s : State) (vf : Nat) (p : List Byte) : State :=
  let tenant := s.vfTenant vf
  if !(packetOp p) then s.postCompletion vf (refusedRecord p s.time 1)
  else match s.checkPhase tenant (pf p 256 48) (pf p 320 48) 0 with
    | (s, .error r) => s.postCompletion vf (refusedRecord p s.time r)
    | (s, .ok a) =>
      let r := s.fresh
      let s := r.2.updDrover fun d => { d with accepted := d.accepted + 1 }
      s.setSlice r.1 (sliceOf vf tenant p a s.drover.accepted s.time)

/-! ### Reading the launch ring (R341) -/

/-- The drover is done with a slot: the next slot and stamp are due. -/
def Vf.nextSlot (v : Vf) : Vf :=
  { v with lrHead := BitVec.ofNat 64 ((v.lrHead.toNat + 1) % v.lrSize.toNat), expect := v.expect + 1, tries := 0 }

/-- A torn slot is posted with the expected stamp and its number, and its stamp is consumed (R341, R345). -/
def State.tornSlot (s : State) (vf : Nat) : State :=
  let v := s.vf vf
  let s := s.postEvent vf { kind := 3, fault := kLaunchTorn.setWidth 7, tag := v.expect,
                            a := BitVec.ofNat 32 v.lrHead.toNat, b := 0, c := 0 }
  s.setVf vf (s.vf vf).nextSlot

/-- An access of the drover to a ring of a VF meets a missing page, though the rings lie on pinned ones (R337). -/
def State.ringMisses (s : State) (vf va n : Nat) : Bool :=
  (pageParts va n (n + 1)).any fun p => match (s.translate (s.vfTenant vf) p.1).2 with
    | .miss => true
    | _ => false

/-- The launches of a VF end with DATA_LOST: a page of its rings was missing (R337; which launches, DESIGN CHOICE, log entry 84). -/
def State.endVf (s : State) (vf : Nat) : State := (s.vfSlices vf).foldl (fun s id => s.endSlice id 2 0 kDataLost 0) s

/-- One read of the slot at LRHEAD (R341): it passes and is validated; or it has failed, for the ninth time as torn. True when
the drover is done with the slot. A page of the ring that is missing ends the launches of the VF (R337). -/
def State.readSlot (s : State) (vf : Nat) : State × Bool :=
  let v := s.vf vf
  let va := v.lrBase.toNat + 64 * v.lrHead.toNat
  let s := if s.ringMisses vf va 64 then s.endVf vf else s
  match s.droverRead (s.vfTenant vf) va 64 with
  | (s, got) =>
    let pass := match got with
      | some p => packetPasses p v.expect
      | none => false
    if pass then
      let s := s.validate vf (got.getD [])
      (s.setVf vf (s.vf vf).nextSlot, true)
    else if v.tries < 8 then (s.setVf vf { s.vf vf with tries := v.tries + 1 }, false)
    else (s.tornSlot vf, true)

/-- Slots of a launch ring from LRHEAD to the recorded tail, none while the one at LRHEAD is to be read again (R341). -/
def Vf.slotsDue (v : Vf) : Nat :=
  if v.tries ≠ 0 ∨ v.lrSize = 0 then 0 else (v.lrTail.toNat + v.lrSize.toNat - v.lrHead.toNat) % v.lrSize.toNat

/-- The launch ring that is served next: round robin over the VFs that have kicked (R291). -/
def State.nextRing (s : State) : Option Nat :=
  ((List.range 96).map fun k => (s.drover.lastVf + 1 + k) % 96).find? fun vf => decide (0 < (s.vf vf).slotsDue)

/-- Launch rings are served slot by slot, until each is read to its tail or has a slot to be read again after 200 ns (R291, R341). -/
def State.serveRings (s : State) (fuel : Nat) : State :=
  match fuel with
  | 0 => s
  | fuel + 1 => match s.nextRing with
    | none => s
    | some vf => (({ s with drover := { s.drover with lastVf := vf } } : State).readSlot vf).1.serveRings fuel

/-- The slots of all launch rings that are due. -/
def State.allDue (s : State) : Nat := ((List.range 96).map fun vf => (s.vf vf).slotsDue).sum

/-- `KICK` (R338, R341): the tail is recorded and slots are read; a bad value is ignored and noted. While a slot waits for its
next read, a kick only replaces the tail. -/
def execKick (vf : Nat) (v : Word) (s : State) : Result :=
  let x := s.vf vf
  let tail := v.extractLsb' 0 16
  .next (if x.lrSize = 0 ∨ x.lrSize.toNat ≤ tail.toNat ∨ v.extractLsb' 16 48 ≠ 0 then
      s.setVf vf { x with kickIgnored := true }
    else
      let s := s.setVf vf { x with lrTail := tail.setWidth 64 }
      s.serveRings s.allDue)

/-- The slot that failed is read again, and once it is done with, those after it (R341). -/
def execLaunchSlotReread (vf : Nat) (s : State) : Result :=
  .next (if (s.vf vf).tries = 0 then s
    else
      let s := (s.readSlot vf).1
      s.serveRings s.allDue)

/-! ### Answers to stalls, budgets, translations (R307, R337, R338) -/

/-- A verdict on a fault tag: ignored when the tag is unknown, answered, or of an ended launch (R307, R338). -/
def State.answer (s : State) (vf : Nat) (tag : BitVec 16) (mapped : Bool) : State :=
  match aget? s.drover.tags tag.toNat with
  | none => s
  | some t =>
    if t.vf ≠ vf ∨ t.answered.isSome then s
    else (s.updDrover fun d => { d with tags := aset d.tags tag.toNat { t with answered := some mapped } }).send (.wake tag)

/-- `WAKE` with verdict Mapped (R307). -/
def execWakeMapped (vf : Nat) (tag : BitVec 16) (s : State) : Result := .next (s.answer vf tag true)

/-- `WAKE` with verdict Invalid (R337). -/
def execWakeInvalid (vf : Nat) (tag : BitVec 16) (s : State) : Result := .next (s.answer vf tag false)

/-- The running launch of a VF with a stamp (R338). -/
def State.running? (s : State) (vf : Nat) (stamp : BitVec 16) : Option (Nat × Slice) :=
  s.slices.find? fun p => decide (p.2.vf = vf) && decide (p.2.stamp = stamp) && decide (p.2.state ≠ .queued)

/-- Units added to a launch's budget (R242, R338). -/
def State.grantUnits (s : State) (vf : Nat) (stamp : BitVec 16) (units : BitVec 47) : State :=
  match s.running? vf stamp with
  | none => s
  | some (id, x) => s.setSlice id { x with work := if x.workFree then x.work else x.work + units.toNat, heldForBudget := false }

/-- `SUPER` with end = 0: units are added to a running launch's budget, held or not (R338). -/
def execSuperGrant (vf : Nat) (stamp : BitVec 16) (units : BitVec 47) (s : State) : Result :=
  .next (s.grantUnits vf stamp units)

/-- `SUPER` with end = 1: the launch ends with kind BUDGET (R338). -/
def execSuperEnd (vf : Nat) (stamp : BitVec 16) (units : BitVec 47) (s : State) : Result :=
  let s := s.grantUnits vf stamp units
  .next (match s.running? vf stamp with
    | none => s
    | some (id, _) => s.endSlice id 2 0 kBudget 0)

/-- TLBINV while an invalidation is in progress: bit 63 keeps the register nonzero; two together cover the whole space
(R338). -/
def Vf.invalidate (v : Vf) (w : Word) : Vf :=
  let w := w ||| 0x8000000000000000
  { v with tlbinv := if v.tlbinv = 0 then w else w ||| 1 }

/-- `TLBINV` for one address (R337, R338). -/
def execTlbinvVa (vf : Nat) (v : Word) (s : State) : Result :=
  .next (s.setVf vf ((s.vf vf).invalidate (v &&& 0x0000FFFFFFFF0001)))

/-- `TLBINV` for the whole space (R337, R338). -/
def execTlbinvAll (vf : Nat) (s : State) : Result := .next (s.setVf vf ((s.vf vf).invalidate 1))

/-- An invalidation completes: cached translations it covers are gone, and TLBINV reads zero (R337, R338). -/
def execTlbinvDone (vf : Nat) (s : State) : Result :=
  let v := s.vf vf
  let tenant := s.vfTenant vf
  let covers (c : Cached) : Bool :=
    decide (c.tenant = tenant) && (v.tlbinv.getLsbD 0 || decide (c.vpage = bitsOf v.tlbinv.toNat 16 32))
  .next (if v.tlbinv = 0 then s
    else (s.updDrover fun d => { d with cached := d.cached.filter fun c => !(covers c) }).setVf vf { v with tlbinv := 0 })

/-! ### Vectors (R344, R345) -/

/-- A link is up, and which of the two a vector is signalled on (R344). -/
def State.signalLink (s : State) : Option Nat :=
  if s.package.linkUp.getD 0 false then some 0 else if s.package.linkUp.getD 1 false then some 1 else none

/-- A vector of a VF is signalled; while no link is up the signal waits, and the record lies in its ring in DM (R344, R345; of both links
down at once DEDUCED, log entry 84). -/
def State.signalVector (s : State) (vf vector : Nat) : State :=
  match s.signalLink with
  | some link => s.send (.msix (vf + 1) vector link)
  | none => s.setVf vf { s.vf vf with signals := (s.vf vf).signals ++ [vector] }

/-- A link is up: the vectors of a VF that wait are signalled on it (R344). -/
def State.signalDue (s : State) (vf : Nat) : State :=
  let l := (s.vf vf).signals
  l.foldl (fun s k => s.signalVector vf k) (s.setVf vf { s.vf vf with signals := [] })

/-- The vectors that wait are signalled, if a link is up. -/
def State.signalAll (s : State) : State :=
  if s.signalLink.isNone then s else ((s.vfs.filter fun p => !p.2.signals.isEmpty).map Prod.fst).foldl State.signalDue s

/-! ### Ring registers (R338) -/

/-- A ring register is written only while no launch of the VF is queued or running; else STATUS[1] is set (R338). -/
def State.writeRing (s : State) (vf : Nat) (f : Vf → Vf) : State :=
  if s.vfBusy vf then s.setVf vf { s.vf vf with ringIgnored := true } else s.setVf vf (f (s.vf vf))

/-- A value a ring base takes: a virtual address, 4 KiB-aligned, from which the ring lies on pinned DM pages of the tenant (R337, R338);
another is ignored (log entry 25). -/
def State.ringBaseOk (s : State) (vf : Nat) (v : Word) (bytes : Nat) : Bool :=
  let a := v.toNat
  decide (a % 4096 = 0) && decide (a + bytes ≤ 2 ^ 48) &&
    s.pinnedPages (s.vfTenant vf) (a / 65536 * 65536) ((a % 65536 + max 1 bytes + 65535) / 65536)

/-- A value a ring size takes: a power of two from 16 to 4,096 (R338). -/
def ringSizeOk (v : Word) : Bool := (List.range 9).any fun k => decide (v.toNat = 2 ^ (k + 4))

/-- A value a ring size takes with the base there is: the ring lies on pinned DM pages, once a base is set (R337, R338, log entry 25). -/
def State.sizeFits (s : State) (vf : Nat) (base v : Word) (slot : Nat) : Bool :=
  ringSizeOk v && (decide (base = 0) || s.ringBaseOk vf base (slot * v.toNat))

/-- `LRBASE`: LRHEAD 0, expected stamp 1, and nothing kicked in the new ring (R338, R341). -/
def execLrbaseWrite (vf : Nat) (v : Word) (s : State) : Result :=
  .next (s.writeRing vf fun x => if s.ringBaseOk vf v (64 * x.lrSize.toNat) then { x with lrBase := v, lrHead := 0, lrTail := 0, expect := 1, tries := 0 } else x)

/-- `CRBASE`: tail and head 0, phase 1 (R338). -/
def execCrbaseWrite (vf : Nat) (v : Word) (s : State) : Result :=
  .next (s.writeRing vf fun x => if s.ringBaseOk vf v (64 * x.crSize.toNat) then { x with crBase := v, crTail := 0, crHead := 0, crPhase := true } else x)

/-- `ERBASE`: tail and head 0, phase 1 (R338). -/
def execErbaseWrite (vf : Nat) (v : Word) (s : State) : Result :=
  .next (s.writeRing vf fun x => if s.ringBaseOk vf v (32 * x.erSize.toNat) then { x with erBase := v, erTail := 0, erHead := 0, erPhase := true } else x)

end Sys2Proof.Machine
end

