-- ==== Sys2Proof/Machine/Registers.lean ====
section
/-! DEFINITION. The registers of the PF and of a VF that have a behaviour of their own, and the tables of the drover that the
hypervisor writes (R273, R280, R282, R284, R292, R335, R338, R348). -/

namespace Sys2Proof.Machine

/-! ### Reading (R335, R338) -/

/-- Several bits as a word, lowest first. -/
def bitWord (l : List Bool) : Word := BitVec.ofNat 64 ((l.zipIdx.map fun p => if p.1 then 2 ^ p.2 else 0).sum)

/-- STATUS of a VF (R338). -/
def State.statusWord (s : State) (vf : Nat) : Word :=
  let v := s.vf vf
  bitWord [s.package.replace, v.ringIgnored, s.package.linkUp.getD 0 false, s.package.linkUp.getD 1 false,
    s.confidential (s.vfTenant vf), v.kickIgnored]

/-- What reading STATUS clears (R338). -/
def State.clearStatus (s : State) (vf : Nat) : State :=
  s.setVf vf { s.vf vf with ringIgnored := false, kickIgnored := false }

/-- A read of STATUS (R338). -/
def execStatusRead (vf : Nat) (s : State) : Result := .next ((s.send (.register (s.statusWord vf))).clearStatus vf)

/-- A read of PFERR, which clears it (R335). -/
def execPferrRead (s : State) : Result :=
  .next ((s.send (.register s.package.pferr)).updPackage fun p => { p with pferr := 0 })

/-! ### Tenant records (R272, R273) -/

/-- The drover takes a record (R273). -/
def State.recordOk (s : State) (tag : Nat) (r : BitVec 512) : Bool :=
  decide (recField r 336 7 = 0) && decide (recField r 256 16 = 0) && decide (recField r 192 16 = 0) &&
  decide (recField r 0 128 = 0) && decide (recField r 320 4 < recField r 324 4) && decide (recField r 328 8 ≠ 0) &&
  decide (recField r 345 7 = tag) && !(s.vfClash tag r)

/-- A record as it is measured: without its overrun (R298). -/
def measuredRecord (r : BitVec 512) : Nat := r.toNat - recField r 128 32 * 2 ^ 128

/-- Writes to a tenant's record that wait, with one more laid over them: one write remains for the tenant (R273). -/
def mergeWrite (l : List (Nat × BitVec 512 × BitVec 512)) (tag : Nat) (mask v : BitVec 512) : List (Nat × BitVec 512 × BitVec 512) :=
  let old := ((l.find? fun p => decide (p.1 = tag)).map Prod.snd).getD (0, 0)
  (l.filter fun p => decide (p.1 ≠ tag)) ++ [(tag, old.1 ||| mask, overlay old.2 mask v)]

/-- The hypervisor writes some bits of a tenant record: refused under R273, or in effect at the next phase boundary of the tenant's
running slices, and only in the bits written. Tags 0 and 127 ignore writes (R335). -/
def State.writeRecordOf (s : State) (tag : Nat) (mask v : BitVec 512) : State :=
  let r := overlay (s.recordComing tag) mask v
  if tag = 0 ∨ 127 ≤ tag then s
  else if !(s.recordOk tag r) then s.refusePf (recordWriteOff tag mask)
  else
    let s := if measuredRecord r = measuredRecord (s.record tag) then s else s.attestedChange tag
    (s.updDrover fun d => { d with recordWrites := mergeWrite d.recordWrites tag mask v }).boundary tag

/-- The hypervisor writes a tenant record (R273). -/
def execTenantRecordWrite (tag : Nat) (r : BitVec 512) (s : State) : Result :=
  .next (s.writeRecordOf tag (BitVec.allOnes 512) r)

/-! ### Windows (R282, R284) -/

/-- The PF offset of a window entry (R335). -/
def windowOff (bank entry : Nat) : Nat := 0x3100 + 8 * bank + 2 * entry

/-- The drover takes a valid window entry (R282). -/
def State.windowOk (s : State) (bank entry : Nat) (v : BitVec 16) : Bool :=
  let b := s.bulkhead bank
  let g := bitsOf v.toNat 7 7
  decide (g ≠ b.tag.toNat) && s.activeTenant g && !b.shared &&
  !(b.windowsComing.zipIdx.any fun p => decide (p.2 ≠ entry) && p.1.getLsbD 15 && decide (bitsOf p.1.toNat 7 7 = g))

/-- A window entry is granted after the drover's checks, or revoked; it takes effect at a phase boundary of each of the owner's
running slices (R282, R284). The reserved bits read zero; `at_` is the offset written, for PFERR (R335). -/
def State.writeWindow (s : State) (bank entry : Nat) (v0 : BitVec 16) (at_ : Nat) : State :=
  let v := v0 &&& 0xFF80
  let b := s.bulkhead bank
  if v.getLsbD 15 && !(s.windowOk bank entry v) then s.refusePf at_
  else
    let old := b.windowsComing.getD entry 0
    let s := if old = v then s
      else ((s.attestedChange b.tag.toNat).attestedChange (bitsOf v.toNat 7 7)).attestedChange (bitsOf old.toNat 7 7)
    let b := s.bulkhead bank
    (s.setBulkhead bank { b with windowWrites := b.windowWrites ++ [(entry, v)] }).boundary b.tag.toNat

/-- A window entry is written (R282). -/
def execWindowEntryWrite (bank entry : Nat) (v : BitVec 16) (s : State) : Result := .next (s.writeWindow bank entry v (windowOff bank entry))

/-! ### Filters (R292, R293) -/

/-- The drover takes a filter entry (R292). -/
def filterOk (v : BitVec 128) : Bool :=
  let f (lo w : Nat) : Nat := bitsOf v.toNat lo w
  decide (f 0 74 = 0) && decide (f 120 7 ≠ f 113 7) && decide (1 ≤ f 98 4) && decide (f 98 4 ≤ 8) && decide (f 82 16 ≠ 0) &&
  decide (f 74 8 ≠ 0)

/-- The hypervisor writes a filter entry after its checks; its bucket starts full (R292, R293). `at_` is the offset written (R335). -/
def State.writeFilter (s : State) (entry : Nat) (v : BitVec 128) (at_ : Nat) : State :=
  if !(filterOk v) then s.refusePf at_
  else
    let old := (agetD s.drover.filters entry 0).toNat
    let ts := if old = v.toNat then [] else [bitsOf v.toNat 120 7, bitsOf v.toNat 113 7, bitsOf old 120 7, bitsOf old 113 7]
    let s := ts.foldl State.attestedChange s
    s.updDrover fun d => { d with filters := aset d.filters entry v, buckets := adel d.buckets entry }

/-- A filter entry is written (R292). -/
def execFilterEntryWrite (entry : Nat) (v : BitVec 128) (s : State) : Result := .next (s.writeFilter entry v (0x6000 + 16 * entry))

/-! ### Frames (R280) -/

/-- The package has the frame: DM 0–767, FM from 1,024 on where an expander is attached (R280, R334). -/
def State.hasFrame (s : State) (f : Nat) : Bool :=
  decide (f < 768) || (decide (1024 ≤ f) && s.package.expander.any fun x => decide (x.first ≤ f) && decide (f < x.first + x.frames))

/-- A frame's entry is written: from one owner to another only through the invalid state; a frame that becomes valid is filled
with zeros first (R280). DESIGN CHOICE (log entry 89): the entry of a frame that the package does not have is refused. -/
def State.writeFrame (s : State) (frame : Nat) (v : Byte) : State :=
  let old := agetD s.drover.frames frame 0
  let tagOf (e : Byte) : Nat := bitsOf e.toNat 0 7
  if !(s.hasFrame frame) then s.refusePf (0x10000 + frame)
  else if old.getLsbD 7 && v.getLsbD 7 && decide (tagOf old ≠ 0) && decide (tagOf old ≠ tagOf v) then
    s.refusePf (0x10000 + frame)
  else
    let s := if old = v then s else (s.attestedChange (tagOf old)).attestedChange (tagOf v)
    let fresh := v.getLsbD 7 && (!(old.getLsbD 7) || decide (tagOf old ≠ tagOf v))
    let s := if fresh then s.zeroFrame frame else s
    s.updDrover fun d => { d with frames := aset d.frames frame v }

/-- The frame table is written (R280). -/
def execFrameTableWrite (frame : Nat) (v : Byte) (s : State) : Result := .next (s.writeFrame frame v)

/-! ### Registers without a behaviour of their own (R335, R338, R348) -/

/-- A Span binding, its reserved bits zero (R348). -/
def bindingOf (v : Nat) : W32 := BitVec.ofNat 32 v &&& 0x00FF0FFF

/-- A write to a VF register that only holds its value (R338). -/
def State.writeVfReg (s : State) (vf off : Nat) (v : Word) : State :=
  match off with
  | 0x008 => s.writeRing vf fun x => if s.sizeFits vf x.lrBase v 64 then { x with lrSize := v } else x
  | 0x028 => s.writeRing vf fun x => if s.sizeFits vf x.crBase v 64 then { x with crSize := v } else x
  | 0x048 => s.writeRing vf fun x => if s.sizeFits vf x.erBase v 32 then { x with erSize := v } else x
  | 0x038 => s.setVf vf { s.vf vf with crHead := v }
  | 0x058 => s.setVf vf { s.vf vf with erHead := v }
  | _ => s

/-- A write to a PF table whose entries are only held: Span bindings, ceiling meters, Span routes (R335, R348); the rest of the
PF registers is read-only or has writes of its own. -/
def State.writePfReg (s : State) (off : Nat) (v : Word) : State :=
  if 0x3400 ≤ off ∧ off < 0x5400 then
    s.updDrover fun d => { d with bindings := aset d.bindings ((off - 0x3400) / 64, (off - 0x3400) % 64 / 4) (bindingOf v.toNat) }
  else if 0x20000 ≤ off ∧ off < 0x21000 then
    if (off - 0x20000) % 32 / 2 < 14 then
      s.updDrover fun d => { d with meters := aset d.meters ((off - 0x20000) / 32, (off - 0x20000) % 32 / 2) (BitVec.ofNat 16 v.toNat) }
    else s
  else if 0x30000 ≤ off ∧ off < 0x32000 then
    s.updDrover fun d => { d with routes := aset d.routes ((off - 0x30000) / 2) (BitVec.ofNat 16 v.toNat &&& 0x800F) }
  else s

/-- A write to a register with no behaviour of its own: function 0 is the PF, function v + 1 is VF v (R332, R335, R338). -/
def execRegisterWrite (fn off : Nat) (v : Word) (s : State) : Result :=
  .next (if fn = 0 then s.writePfReg off v else s.writeVfReg (fn - 1) off v)

end Sys2Proof.Machine
end

