-- ==== Sys2Proof/Machine/HostAccess.lean ====
section
/-! DEFINITION. Host accesses through the BARs (R332, R334, R335, R338): the windows onto memory, the registers, AtomicOps,
Function Level Reset, and the state of the links (R328). Function 0 is the PF, function v + 1 is VF v. A request that meets a
held line waits until the line is free (R226), and what is ordered behind it waits with it (R333). -/

namespace Sys2Proof.Machine

/-! ### One byte of a window -/

/-- What becomes of one byte of a host access (R334). -/
inductive HostAns where
  | ok (loc : Nat) (poisoned : Bool)
  | ur | ca
  | line
  deriving DecidableEq, Repr

/-- Where the windows reach (R334). -/
inductive Window3 where
  | physical                   -- PF BAR 2
  | translated (tenant : Nat)  -- VF BAR 2
  | frames (tenant : Nat)      -- VF BAR 4
  | none
  deriving DecidableEq, Repr

/-- The window of a function's BAR. -/
def State.windowOf (s : State) (fn bar : Nat) : Window3 :=
  if fn = 0 then (if bar = 2 then .physical else .none)
  else if bar = 2 then .translated (s.vfTenant (fn - 1))
  else if bar = 4 then .frames (s.vfTenant (fn - 1))
  else .none

/-- A physical byte that may be reached: a line that an instance holds makes it wait, an FM frame must be resident. -/
def State.physicalByte (s : State) (p : Nat) : HostAns :=
  if isFm p && !(s.package.resident.contains ((frameOf p).getD 0)) then .ur
  else if heldByOther s.insts 0 (p / 64) then .line
  else .ok p (s.isPoisoned p)

/-- A byte as the host reads it: an uncorrectable error is met, and the line reads as poisoned (R326). -/
def State.meetHost (s : State) (write : Bool) (a : HostAns) : State × HostAns :=
  match a with
  | .ok p q =>
    if !write && s.isFaulty p then
      let s := s.meet p
      ({ s with package := { s.package with poisoned := p / 256 :: s.package.poisoned } }, .ok p true)
    else (s, .ok p q)
  | a => (s, a)

/-- A byte through a window (R334). A read-only page completes a read with CA too, as the table has it; a VF of no tenant has no page
and no frame. -/
def State.hostByte (s : State) (w : Window3) (a : Nat) (write : Bool) : State × HostAns :=
  match w with
  | .none => (s, .ur)
  | .physical => match frameOf a with
    | none => (s, .ur)
    | some f =>
      let e := agetD s.drover.frames f 0
      if e.getLsbD 7 && s.confidential (bitsOf e.toNat 0 7) then (s, .ur) else s.meetHost write (s.physicalByte a)
  | .frames t => if t ≠ 0 ∧ s.frameOk t a = true then s.meetHost write (s.physicalByte a) else (s, .ca)
  | .translated t =>
    if 2 ^ 48 ≤ a ∨ t = 0 then (s, .ur)
    else match s.translate t a with
      | (s, .miss) | (s, .invalid) => (s, .ur)
      | (s, .access) => (s, .ca)
      | (s, .page leaf p) =>
        if leafOrd leaf = 3#2 ∨ leaf.getLsbD 56 = false ∨ s.frameOk t p = false then (s, .ca)
        else s.meetHost write (s.physicalByte p)

/-- The bytes of an access, each by its own row. -/
def State.hostBytes (s : State) (w : Window3) (a n : Nat) (write : Bool) : State × List HostAns :=
  match n with
  | 0 => (s, [])
  | n + 1 =>
    let r := s.hostByte w a write
    let q := r.1.hostBytes w (a + 1) n write
    (q.1, r.2 :: q.2)

/-- An access of a confidential tenant's VF outside its IDE stream (R299, R334). -/
def State.outsideIde (s : State) (fn : Nat) (ide : Bool) : Bool := decide (fn ≠ 0) && !ide && s.confidential (s.vfTenant (fn - 1))

/-- The status of the lowest-addressed part that fails (R213, R334). -/
def firstFailure (l : List HostAns) : Option HostStatus :=
  l.findSome? fun x => match x with
    | .ur => some .ur
    | .ca => some .ca
    | _ => none

/-- How a read through a window completes. -/
def readStatus (m : Memory) (l : List HostAns) : HostStatus :=
  match firstFailure l with
  | some st => st
  | none =>
    let bs := l.map fun x => match x with
      | .ok loc _ => m.get loc
      | _ => 0
    if l.any fun x => match x with
        | .ok _ p => p
        | _ => false then .poisoned bs
    else .data bs

/-! ### Registers byte by byte (R335, R338) -/

/-- An entry of the PF registers: where it starts, its width in bytes, and what it is. -/
inductive PfCell where
  | record (tag : Nat)
  | status (bh : Nat)
  | window (bank entry : Nat)
  | binding (tag i : Nat)
  | filter (e : Nat)
  | frame (f : Nat)
  | meter (tag port : Nat)
  | route (q : Nat)
  | word (off : Nat)
  deriving DecidableEq, Repr

/-- The entry at a PF offset, with its start and width (R335). -/
def pfCell (off : Nat) : PfCell × Nat × Nat :=
  let in_ (base size : Nat) : Bool := decide (base ≤ off) && decide (off < base + size)
  if in_ 0x1000 0x2000 then (.record ((off - 0x1000) / 64), off / 64 * 64, 64)
  else if in_ 0x3000 0x100 then (.status ((off - 0x3000) / 4), off / 4 * 4, 4)
  else if in_ 0x3100 0x200 then (.window ((off - 0x3100) / 8) ((off - 0x3100) % 8 / 2), off / 2 * 2, 2)
  else if in_ 0x3400 0x2000 then (.binding ((off - 0x3400) / 64) ((off - 0x3400) % 64 / 4), off / 4 * 4, 4)
  else if in_ 0x6000 0x1000 then (.filter ((off - 0x6000) / 16), off / 16 * 16, 16)
  else if in_ 0x10000 5120 then (.frame (off - 0x10000), off, 1)
  else if in_ 0x20000 0x1000 then (.meter ((off - 0x20000) / 32) ((off - 0x20000) % 32 / 2), off / 2 * 2, 2)
  else if in_ 0x30000 0x2000 then (.route ((off - 0x30000) / 2), off / 2 * 2, 2)
  else (.word (off / 8 * 8), off / 8 * 8, 8)

/-- The value an entry reads (R335). -/
def State.pfValue (s : State) (c : PfCell) : Nat :=
  match c with
  | .record t => if t = 0 ∨ t = 127 then 0 else (s.record t).toNat
  | .status b => (s.bhStatus b).toNat
  | .window b e => ((s.bulkhead b).windows.getD e 0).toNat
  | .binding t i => (agetD s.drover.bindings (t, i) 0).toNat
  | .filter e => (agetD s.drover.filters e 0).toNat
  | .frame f => (agetD s.drover.frames f 0).toNat
  | .meter t p => (agetD s.drover.meters (t, p) 0).toNat
  | .route q => (agetD s.drover.routes q 0).toNat
  | .word 0x0 => (if s.package.replace then 1 else 0) + 256 * (s.package.retired.length % 256)
  | .word 0x8 => (s.package.retired.map fun b => 2 ^ b).sum
  | .word 0x10 => s.package.pferr.toNat
  | .word off =>
    -- the counts of R325, at offsets the spec does not assign (DESIGN CHOICE, log entry 95)
    if 0x40000 ≤ off ∧ off < 0x40200 then (s.bulkhead ((off - 0x40000) / 8)).corrected
    else if 0x40200 ≤ off ∧ off < 0x40270 then agetD s.package.stackErrors ((off - 0x40200) / 8) 0
    else 0

/-- A byte of the PF registers. -/
def State.pfByte (s : State) (off : Nat) : Byte :=
  let c := pfCell off
  BitVec.ofNat 8 (s.pfValue c.1 / 2 ^ (8 * (off - c.2.1)))

/-- A register of a VF as it reads; a write-only register gives a free value (R338, log entry 2). -/
def State.vfValue (s : State) (vf off : Nat) : Word :=
  let v := s.vf vf
  match off with
  | 0x000 => v.lrBase
  | 0x008 => v.lrSize
  | 0x018 => v.lrHead
  | 0x020 => v.crBase
  | 0x028 => v.crSize
  | 0x030 => v.crTail
  | 0x038 => v.crHead
  | 0x040 => v.erBase
  | 0x048 => v.erSize
  | 0x050 => v.erTail
  | 0x058 => v.erHead
  | 0x070 => v.tlbinv
  | 0x078 => s.statusWord vf
  | 0x080 => BitVec.ofNat 64 s.time
  | 0x010 | 0x060 | 0x068 => Config.freeWord s.free
  | _ => 0

/-- The first offset of a function's MSI-X table in its BAR (R334). -/
def msixAt (fn bar : Nat) : Option Nat := if fn = 0 then (if bar = 4 then some 0 else none) else if bar = 0 then some 0x8000 else none

/-- A byte of BAR 0, or of the PF's BAR 4. -/
def State.registerByte (s : State) (fn bar off : Nat) : Byte :=
  match msixAt fn bar with
  | some base =>
    if base ≤ off then agetD s.package.msix (fn, off) 0
    else BitVec.ofNat 8 ((s.vfValue (fn - 1) (off / 8 * 8)).toNat / 2 ^ (8 * (off % 8)))
  | none => s.pfByte off

/-- Reading clears what reading clears: PFERR, and bits of STATUS (R335, R338). -/
def State.readEffects (s : State) (fn bar off size : Nat) : State :=
  let touches (lo n : Nat) : Bool := decide (off < lo + n) && decide (lo < off + size)
  let s := { s with free := s.free + 1 }
  if fn = 0 then
    if bar = 0 && touches 0x10 8 then s.updPackage fun p => { p with pferr := 0 } else s
  else if touches 0x78 8 then s.clearStatus (fn - 1) else s

/-! ### Reads (R334) -/

/-- BAR 0 of a function, and the PF's MSI-X table, are registers. -/
def isRegisterBar (fn bar : Nat) : Bool := decide (bar = 0) || (decide (fn = 0) && decide (bar = 4))

/-- A host read, unless it meets a held line: true once it has completed (R226, R334). -/
def State.hostRead (s : State) (fn bar off size : Nat) (ide : Bool) : State × Bool :=
  if s.outsideIde fn ide then (s.send (.host .ur), true)
  else if isRegisterBar fn bar then
    let bs := (List.range size).map fun k => s.registerByte fn bar (off + k)
    ((s.send (.host (.data bs))).readEffects fn bar off size, true)
  else match s.hostBytes (s.windowOf fn bar) off size false with
    | (s, l) => if l.contains .line then (s, false) else (s.send (.host (readStatus s.mem l)), true)

/-! ### Writes (R334) -/

/-- The state a result leaves. -/
def stateOf (r : Result) (s : State) : State :=
  match r with
  | .next t => t
  | _ => s

/-- A number with some of its bytes replaced. -/
def patch (old lo : Nat) (bs : List Byte) : Nat :=
  let n := leNat bs
  let k := bs.length
  old - bitsOf old (8 * lo) (8 * k) * 2 ^ (8 * lo) + n * 2 ^ (8 * lo)

/-- The bits of k bytes from byte lo on. -/
def byteMask (lo k : Nat) : Nat := (2 ^ (8 * k) - 1) * 2 ^ (8 * lo)

/-- A write to a PF entry at `off`, of which `mask` says which bits are written from `at_` on (R335). -/
def State.writeCell (s : State) (c : PfCell) (mask v off at_ : Nat) : State :=
  match c with
  | .record t => s.writeRecordOf t (BitVec.ofNat 512 mask) (BitVec.ofNat 512 v)
  | .window b e => s.writeWindow b e (BitVec.ofNat 16 v) at_
  | .filter e => s.writeFilter e (BitVec.ofNat 128 v) at_
  | .frame f => s.writeFrame f (BitVec.ofNat 8 v)
  | .binding _ _ | .meter _ _ | .route _ => s.writePfReg off (BitVec.ofNat 64 v)
  | .status _ | .word _ => s

/-- Bytes written to the PF registers, entry by entry. -/
def State.writePf (s : State) (off : Nat) (bs : List Byte) (fuel : Nat) : State :=
  match fuel with
  | 0 => s
  | fuel + 1 =>
    if bs.isEmpty then s
    else
      let c := pfCell off
      let n := c.2.1 + c.2.2 - off
      let v := patch (s.pfValue c.1) (off - c.2.1) (bs.take n)
      (s.writeCell c.1 (byteMask (off - c.2.1) (min n bs.length)) v c.2.1 off).writePf (off + n) (bs.drop n) fuel

/-- A write to a VF register (R338). WAKE and TLBINV with nonzero reserved bits are ignored. -/
def State.writeVf (s : State) (vf off : Nat) (v : Word) : State :=
  match off with
  | 0x000 => stateOf (execLrbaseWrite vf v s) s
  | 0x010 => stateOf (execKick vf v s) s
  | 0x020 => stateOf (execCrbaseWrite vf v s) s
  | 0x040 => stateOf (execErbaseWrite vf v s) s
  | 0x060 =>
    if v.extractLsb' 17 47 ≠ 0 then s else s.answer vf (v.extractLsb' 0 16) (!(v.getLsbD 16))
  | 0x068 =>
    if v.getLsbD 16 then stateOf (execSuperEnd vf (v.extractLsb' 0 16) (v.extractLsb' 17 47) s) s
    else s.grantUnits vf (v.extractLsb' 0 16) (v.extractLsb' 17 47)
  | 0x070 =>
    if v &&& 0xFFFF00000000FFFE ≠ 0 then s
    else if v.getLsbD 0 then stateOf (execTlbinvAll vf s) s else stateOf (execTlbinvVa vf v s) s
  | _ => s.writeVfReg vf off v

/-- What a partial write to a VF register is laid over: its value, 0 for a write-only one. -/
def State.vfOld (s : State) (vf off : Nat) : Nat :=
  match off with
  | 0x010 | 0x060 | 0x068 | 0x070 => 0
  | _ => (s.vfValue vf off).toNat

/-- Bytes written to the registers of a VF, register by register. -/
def State.writeVfBytes (s : State) (vf off : Nat) (bs : List Byte) (fuel : Nat) : State :=
  match fuel with
  | 0 => s
  | fuel + 1 =>
    if bs.isEmpty then s
    else
      let r := off / 8 * 8
      let n := r + 8 - off
      let v := patch (s.vfOld vf r) (off - r) (bs.take n)
      (s.writeVf vf r (BitVec.ofNat 64 v)).writeVfBytes vf (off + n) (bs.drop n) fuel

/-- Bytes written to an MSI-X table. -/
def State.writeMsix (s : State) (fn off : Nat) (bs : List Byte) : State :=
  s.updPackage fun p => { p with msix := bs.zipIdx.foldl (fun l q => aset l (fn, off + q.2) q.1) p.msix }

/-- A write to the registers of a function. -/
def State.writeRegisters (s : State) (fn bar off : Nat) (bs : List Byte) : State :=
  match msixAt fn bar with
  | some base =>
    if base ≤ off then s.writeMsix fn off bs else s.writeVfBytes (fn - 1) off bs (bs.length + 1)
  | none => s.writePf off bs (bs.length + 1)

/-- The bytes of a write that are performed, with their locations. -/
def performed (l : List HostAns) (bs : List Byte) : List (Nat × Byte) :=
  (l.zip bs).filterMap fun p => match p.1 with
    | .ok loc _ => some (loc, p.2)
    | _ => none

/-- Bytes written by an agent outside every forme. -/
def State.outsideWrite (s : State) (l : List (Nat × Byte)) : State :=
  let locs := l.map Prod.fst
  ({ s with mem := s.mem.scatter l } : State).updPackage fun p =>
    p.rewritten fun k => (List.range 256).all fun b => locs.contains (256 * k + b)

/-- A host write, unless it meets a held line: each byte performed or discarded by its own row (R213, R226, R334). -/
def State.hostWrite (s : State) (fn bar off : Nat) (data : List Byte) (ide : Bool) : State × Bool :=
  if s.outsideIde fn ide then (s, true)
  else if isRegisterBar fn bar then (s.writeRegisters fn bar off data, true)
  else match s.hostBytes (s.windowOf fn bar) off data.length true with
    | (s, l) => if l.contains .line then (s, false) else (s.outsideWrite (performed l data), true)

/-! ### AtomicOps (R332, R334) -/

/-- What an AtomicOp stores (R332). -/
def hostAtomicNew (op : HostAtomicOp) (n old v c : Nat) : Nat :=
  match op with
  | .fetchAdd => (old + v) % 2 ^ n
  | .swap => v % 2 ^ n
  | .cas => if old = c % 2 ^ n then v % 2 ^ n else old

/-- A host AtomicOp, unless it meets a held line: 32 or 64 bits, naturally aligned, one indivisible step (R207, R226, R332, R334). The
registers take none. -/
def State.hostAtomic (s : State) (fn bar off size : Nat) (op : HostAtomicOp) (v c : Word) (ide : Bool) : State × Bool :=
  if s.outsideIde fn ide ∨ isRegisterBar fn bar = true ∨ (size ≠ 4 ∧ size ≠ 8) then (s.send (.host .ur), true)
  else if off % size ≠ 0 then (s.send (.host .ca), true)
  else match s.hostBytes (s.windowOf fn bar) off size false with
    | (s, l) =>
      if l.contains .line then (s, false)
      else match firstFailure l with
        | some st => (s.send (.host st), true)
        | none =>
          let old := readStatus s.mem l
          let bytes := match old with
            | .data bs | .poisoned bs => bs
            | _ => []
          let new := natBytes size (hostAtomicNew op (8 * size) (leNat bytes) v.toNat c.toNat)
          ((s.outsideWrite (performed l new)).send (.host old), true)

/-! ### The order of host requests (R226, R333) -/

/-- A request performed, unless it meets a held line: true once it has been. -/
def State.perform (s : State) (r : HostRequest) : State × Bool :=
  match r with
  | .read fn bar off size p => s.hostRead fn bar off size p.ide
  | .write fn bar off data p => s.hostWrite fn bar off data p.ide
  | .atomic fn bar off size op v c p => s.hostAtomic fn bar off size op v c p.ide

/-- The function of a request, and how it comes. -/
def HostRequest.path (r : HostRequest) : Nat × HostPath :=
  match r with
  | .read fn _ _ _ p | .write fn _ _ _ p | .atomic fn _ _ _ _ _ _ p => (fn, p)

/-- A request is a write. -/
def HostRequest.isWrite : HostRequest → Bool
  | .write _ _ _ _ _ => true
  | _ => false

/-- A request that waits is a write that a later request on its link comes after: one without Relaxed Ordering before any, any before a
request whose completion the host can receive (R333). -/
def HostRequest.before (w r : HostRequest) : Bool :=
  w.isWrite && decide (w.path.2.link = r.path.2.link) && (!r.isWrite || !w.path.2.relaxed)

/-- A request that arrives: it is performed, or waits for a held line or behind what counts as made before it (R226, R333). -/
def State.host (s : State) (r : HostRequest) : State :=
  let wait (s : State) : State := s.updPackage fun p => { p with hostWaits := p.hostWaits ++ [r] }
  if s.package.hostWaits.any fun w => w.before r then wait s
  else match s.perform r with
    | (s, true) => s
    | (s, false) => wait s

/-- Requests that wait are tried again, the oldest first; `kept` are those before them that wait on (R226, R333). -/
def State.hostAgain (s : State) (l kept : List HostRequest) : State :=
  match l with
  | [] => s.updPackage fun p => { p with hostWaits := kept }
  | r :: l =>
    if kept.any fun w => w.before r then s.hostAgain l (kept ++ [r])
    else match s.perform r with
      | (s, true) => s.hostAgain l kept
      | (s, false) => s.hostAgain l (kept ++ [r])

/-- The request that a register event stands for, on a link: registers of the PF (R335) and of a VF (R338). -/
def registerRequest (link : Nat) (i : Instr) : Option HostRequest :=
  let path : HostPath := { ide := true, link := link, relaxed := false }
  let vfWrite (vf off : Nat) (v : Word) : Option HostRequest := some (.write (vf + 1) 0 off (wordBytes 8 v) path)
  let super (vf : Nat) (stamp : BitVec 16) (last : Nat) (units : BitVec 47) : Option HostRequest :=
    vfWrite vf 0x068 (BitVec.ofNat 64 (stamp.toNat + 2 ^ 16 * last + 2 ^ 17 * units.toNat))
  match i with
  | .kick vf v => vfWrite vf 0x010 v
  | .lrbaseWrite vf v => vfWrite vf 0x000 v
  | .crbaseWrite vf v => vfWrite vf 0x020 v
  | .erbaseWrite vf v => vfWrite vf 0x040 v
  | .wakeMapped vf tag => vfWrite vf 0x060 (tag.setWidth 64)
  | .wakeInvalid vf tag => vfWrite vf 0x060 (tag.setWidth 64 + 0x10000)
  | .superGrant vf stamp units => super vf stamp 0 units
  | .superEnd vf stamp units => super vf stamp 1 units
  | .tlbinvVa vf v => vfWrite vf 0x070 (v &&& 0x0000FFFFFFFF0000)
  | .tlbinvAll vf => vfWrite vf 0x070 1
  | .statusRead vf => some (.read (vf + 1) 0 0x078 8 path)
  | .pferrRead => some (.read 0 0 0x10 8 path)
  | .registerWrite fn off v => some (.write fn 0 off ((wordBytes 8 v).take (if fn = 0 then (pfCell off).2.2 else 8)) path)
  | .tenantRecordWrite tag v => some (.write 0 0 (recordOff tag) (natBytes 64 v.toNat) path)
  | .windowEntryWrite bank entry v => some (.write 0 0 (windowOff bank entry) (natBytes 2 v.toNat) path)
  | .filterEntryWrite entry v => some (.write 0 0 (0x6000 + 16 * entry) (natBytes 16 v.toNat) path)
  | .frameTableWrite frame v => some (.write 0 0 (0x10000 + frame) [v] path)
  | _ => none

/-- The first write of the host that waits and that later requests on its link come after (R333). -/
def State.waitingWrite (s : State) : Option HostRequest := s.package.hostWaits.find? fun w => w.isWrite && !w.path.2.relaxed

/-- A register event while a write of the host waits: it names no link, and is taken to come on that of the write, behind it (R333; DESIGN
CHOICE, log entry 139). -/
def State.lateRegister (s : State) (i : Instr) : Option HostRequest := s.waitingWrite.bind fun w => registerRequest w.path.2.link i

/-- A host read (R333, R334). -/
def execHostRead (fn bar off size : Nat) (path : HostPath) (s : State) : Result := .next (s.host (.read fn bar off size path))

/-- A host write (R213, R333, R334). -/
def execHostWrite (fn bar off : Nat) (data : List Byte) (path : HostPath) (s : State) : Result :=
  .next (s.host (.write fn bar off data path))

/-- A host AtomicOp (R332, R333, R334). -/
def execHostAtomic (fn bar off size : Nat) (op : HostAtomicOp) (v c : Word) (path : HostPath) (s : State) : Result :=
  .next (s.host (.atomic fn bar off size op v c path))

/-! ### Function Level Reset and links (R328, R332) -/

/-- A slice ends without a completion record. -/
def State.dropSlice (s : State) (id : Nat) : State :=
  let s := match aget? s.slices id with
    | some { inst := some i, .. } => s.removeInst i
    | _ => s
  { s with slices := adel s.slices id }

/-- FLR of a VF: its launches end without a record, its unanswered fault tags go, its registers are reset (R332). -/
def execVfFlr (vf : Nat) (s : State) : Result :=
  let s := (s.vfSlices vf).foldl State.dropSlice s
  let s := s.updDrover fun d => { d with tags := d.tags.filter fun p => decide (p.2.vf ≠ vf) || p.2.answered.isSome }
  let v := s.vf vf
  .next (s.setVf vf { Vf.reset with completions := v.completions, events := v.events, tdi := v.tdi })

/-- A host link goes down, or is up again, and then what waits for it is signalled (R328, R332, R344). -/
def execHostLinkRetrain (link : Nat) (up : Bool) (s : State) : Result :=
  .next (s.updPackage fun p => { p with linkUp := p.linkUp.set link up }).signalAll

end Sys2Proof.Machine
end

