-- ==== Sys2Proof/Machine/Package.lean ====
section
/-! DEFINITION. The package as a whole: bring-up (R351) and the firmware chain (R297), far memory (R346, R328), caps (R286,
R352), sensors (R353), and management (R298, R299, R354). -/

namespace Sys2Proof.Machine

/-! ### Firmware and bring-up (R297, R351) -/

/-- The fused counter (R297). -/
def State.fuseCount (s : State) : Nat := s.package.fuse.getD Config.fusedVersion

/-- An image verifies: both signatures, and a version not below the fused counter (R5, R297). -/
def State.verifies (s : State) (m : FirmwareImage) : Bool := m.ed25519 && m.mldsa65 && decide (s.fuseCount ≤ m.version)

/-- The images in the order in which each stage verifies the next (R297). -/
def imageOrder : List ImageKind := [.stage1, .drover, .engine, .estimator]

/-- The images to boot: those received for the next reset before those stored (R354). -/
def bootImages (stored next : List FirmwareImage) : List (Option FirmwareImage) :=
  imageOrder.map fun k => (next ++ stored).find? fun m => decide (m.kind = k)

/-- Power-good (R351): the boot ROM and then each stage verify the images; with all four verified the drover runs and the
counter is raised, else the device stays in recovery. What is fused or retired outlasts a reset. -/
def execPowerGood (images : List FirmwareImage) (s : State) : Result :=
  let l := bootImages images s.package.nextImages
  let ok := l.all fun m => match m with
    | some m => s.verifies m
    | none => false
  let got := l.filterMap id
  let fresh := State.reset
  let fresh := { fresh with agenda := s.agenda, free := s.free,
                            bulkheads := s.package.retired.map fun b => (b, { Bulkhead.reset with state := .retired, rail := 0 }) }
  let p := { Package.reset with fuse := s.package.fuse, replace := s.package.replace, retired := s.package.retired }
  let count := (got.map fun m => m.version).foldl max s.fuseCount
  .next (if ok then { fresh with package := { p with boot := .running, images := got, fuse := some count } }
    else { fresh with package := { p with boot := .recovery, nextImages := s.package.nextImages } })

/-- PERST# is deasserted: the host links train (R351). -/
def execPerstDeassert (s : State) : Result :=
  .next (s.updPackage fun p => { p with perst := true, linkUp := p.linkUp.map fun _ => true }).signalAll

/-- A PCIe configuration request: Request Retry Status until the drover firmware runs (R351). -/
def execConfigurationRequest (s : State) : Result := .next (s.send (.config (decide (s.package.boot ≠ .running))))

/-- A frame's entry becomes valid, the frame filled with zeros first where it was not (R280). -/
def State.validFrame (s : State) (f : Nat) : State :=
  let e := agetD s.drover.frames f 0
  if e.getLsbD 7 then s
  else (s.zeroFrame f).updDrover fun d => { d with frames := aset d.frames f (e ||| 0x80) }

/-- An expander may be attached: its frames are none of another's (R346). -/
def State.expanderFits (s : State) (x : Expander) : Bool :=
  s.package.expander.all fun y =>
    decide (y.port = x.port ∧ y.half = x.half) || decide (y.first + y.frames ≤ x.first) || decide (x.first + x.frames ≤ y.first)

/-- An HBM stack or an expander has trained: its frames become valid (R280, R346, R351). -/
def execMemoryTrained (u : TrainedUnit) (s : State) : Result :=
  .next (if s.package.boot ≠ .running then s
    else match u with
      | .stack k => (List.range 64).foldl (fun s j => s.validFrame (64 * k + j)) s
      | .expander port half first n =>
        let x : Expander := { port := port, half := half, first := first, frames := n }
        if !(s.expanderFits x) then s
        else
          let s := s.updPackage fun p =>
            { p with expander := x :: p.expander.filter fun y => !(decide (y.port = port) && decide (y.half = half)),
                     lostFm := p.lostFm.filter fun y => decide (y ≠ (first, n)) }
          (List.range n).foldl (fun s j => s.validFrame (first + j)) s)

/-- A bulkhead starts: its sheets, its rail, and its PLL at 700 MHz, then its zeroisation (R351). -/
def execBulkheadBringup (bh : Nat) (s : State) : Result :=
  let b := s.bulkhead bh
  .next (if s.package.boot = .running ∧ b.started = false ∧ b.state = .free then
      (s.setBulkhead bh { b with mhz := 700, rail := 400 }).beginZeroise bh 0 .free .zeroising
    else s)

/-! ### Far memory (R328, R346) -/

/-- An FM frame becomes resident: its expander's link, decoder and media are ready (R346). -/
def execCxlFrameResident (frame : Nat) (s : State) : Result :=
  .next (if s.hasFrame frame && decide (1024 ≤ frame) && !(s.package.resident.contains frame) then
      s.updPackage fun p => { p with resident := frame :: p.resident }
    else s)

/-- The access of a fault tag lies in FM frames [first, first + n). -/
def State.tagIn (s : State) (t : FaultTag) (first n : Nat) : Bool :=
  match (s.translate t.tenant (t.addr % 2 ^ 48)).2 with
  | .page _ p => isFm p && (match frameOf p with
      | some f => decide (first ≤ f) && decide (f < first + n)
      | none => false)
  | _ => false

/-- FM frames become non-resident; a lasting loss makes them invalid, and what is stalled on them is made anew, to fault ACCESS
or, of an engine, to end with DATA_LOST (R328, R346). -/
def State.loseFrames (s : State) (first n : Nat) (lasting : Bool) : State :=
  let out (f : Nat) : Bool := decide (1024 ≤ f) && decide (first ≤ f) && decide (f < first + n)
  let s := s.updPackage fun p => { p with resident := p.resident.filter fun f => !(out f) }
  if lasting then
    let hit := (s.drover.tags.filter fun p => p.2.answered.isNone && s.tagIn p.2 first n).map Prod.fst
    let s := s.updPackage fun p => { p with lostFm := (first, n) :: p.lostFm }
    let s := s.updDrover fun d =>
      { d with frames := amap d.frames fun f e => if out f then e &&& 0x7F else e,
               tags := amap d.tags fun k t => if hit.contains k then { t with answered := some true } else t }
    hit.foldl (fun s k => s.send (.wake (BitVec.ofNat 16 k))) s
  else s

/-- FM frames are lost (R328, R346). -/
def execCxlFrameLost (first n : Nat) (lasting : Bool) (s : State) : Result := .next (s.loseFrames first n lasting)

/-! ### Caps (R263, R286, R352) -/

/-- The cap in force, in watts: the fused safe cap of 1,500 where no accepted cap is (R352). -/
def State.capInForce (s : State) : Nat :=
  match s.package.cap with
  | some (w, _) => w
  | none => 1500

/-- A cap message: accepted when its sequence is ahead; answered in any case with the last accepted sequence and the cap in
force (R352). -/
def execCapMessage (m : Word) (s : State) : Result :=
  let seq := bitsOf m.toNat 32 32
  let hor := bitsOf m.toNat 0 16
  let ahead := (seq + 2 ^ 32 - s.package.capSeq) % 2 ^ 32
  let cap := max 600 (min 2400 (bitsOf m.toNat 16 16))
  let s := if hor ≠ 0 ∧ 1 ≤ ahead ∧ ahead ≤ 2 ^ 31 - 1 then
      s.updPackage fun p => { p with capSeq := seq, cap := some (cap, s.time + hor * 1000000) }
    else s
  .next (s.send (.cap s.package.capSeq s.capInForce))

/-- The horizon of the accepted cap has expired: the safe cap applies (R352). -/
def execCapHorizonExpiry (s : State) : Result :=
  .next (match s.package.cap with
    | some (_, ends) => if ends ≤ s.time then s.updPackage fun p => { p with cap := none } else s
    | none => s)

/-- The readings of the sensors that are valid. -/
def validReadings (l : List Sensor) : List Int := (l.filter fun x => x.valid).map fun x => x.reading

/-- Readings in rising order. -/
def sortInts (l : List Int) : List Int :=
  l.foldl (fun acc v => (acc.filter fun x => decide (x ≤ v)) ++ v :: acc.filter fun x => decide (v < x)) []

/-- The vote of three sensors: the median of three, the higher of two, else none (R353). -/
def vote (l : List Sensor) : Option Int :=
  match sortInts (validReadings l) with
  | [_, b, _] => some b
  | [_, b] => some b
  | _ => none

/-- A bulkhead's share of the cap in force in milliwatts (R286). -/
def State.shareMw (s : State) : Nat := s.capInForce * 1000 / 64

/-- Every 1 ms: each bulkhead's rail is measured, and its shares are scaled by the ratio of its share to its measured power, within 1/2 to
2; without a voted current they stay (R352). -/
def execCapScaleTick (millivolts : List Nat) (s : State) : Result :=
  let scale (n : Nat) (b : Bulkhead) : Bulkhead :=
    let b := if b.rail = 0 then b else { b with rail := millivolts.getD n b.rail }
    match vote b.currents with
    | none => b
    | some amps =>
      let mw := amps.toNat * b.rail
      { b with capFactor := if mw = 0 then 2048 else max 512 (min 2048 (s.shareMw * 1024 / mw)) }
  .next ((List.range 64).foldl (fun s n => s.setBulkhead n (scale n (s.bulkhead n))) s)

/-- The cap share C of a sheet in 0.25 pJ per window of 128 cycles: a quarter of its bulkhead's share of the package cap,
scaled (R263, R286, R352). -/
def State.capShare (s : State) (sheet : Nat) : Nat :=
  let b := s.bulkhead (bhOf sheet)
  s.capInForce * 2000000 / b.clock * b.capFactor / 1024

/-! ### Sensors (R353) -/

/-- Two readings agree within the limit: 15 °C, or 20 % of the larger (R353). -/
def agrees (temps : Bool) (a b : Int) : Bool :=
  let d := (a - b).natAbs
  if temps then decide (d ≤ 15) else decide ((5 * d : Int) ≤ max a b)

/-- A reading in range (R353). -/
def inRange (temps : Bool) (v : Int) : Bool :=
  if temps then decide (-20 ≤ v) && decide (v ≤ 150) else decide (0 ≤ v) && decide (v ≤ 160)

/-- The estimated energy of a bulkhead's last window. -/
def State.bhEnergy (s : State) (bh : Nat) : Nat := ((bhSheets bh).map fun sh => (s.sheet sh).energy).sum

/-- One sensor after a sample, beside the other two readings (R353). -/
def Sensor.sample (x : Sensor) (temps : Bool) (v : Int) (others : List Int) (e : Nat) : Sensor :=
  let same := decide (v = x.reading)
  let unchanged := if same then x.unchanged + 1 else 0
  let energy := if same then x.energy else e
  let moved := decide (energy < 8 * (max e energy - min e energy))
  let odd := match others with
    | [a, b] => agrees temps a b && !(agrees temps v a) && !(agrees temps v b)
    | _ => false
  let good := inRange temps v && !(decide (64 ≤ unchanged) && moved) && !odd
  let n := if good then x.good + 1 else 0
  { reading := v, unchanged := unchanged, energy := energy, good := n, valid := good && (x.valid || decide (1024 ≤ n)) }

/-- Three sensors after a sample. -/
def sampleAll (temps : Bool) (l : List Sensor) (vs : List Int) (e : Nat) : List Sensor :=
  l.zipIdx.map fun p => p.1.sample temps (vs.getD p.2 0) (vs.eraseIdx p.2) e

/-- The allowances of a sheet at their minimum (R263, R353). -/
def Sheet.throttled (sh : Sheet) : Sheet :=
  { sh with wideAllow := (List.range 8).map fun k => (k, 8), edgeAllow := Quad.all 8 }

/-- The allowances of a bulkhead's sheets at their minimum. -/
def State.throttle (s : State) (bh : Nat) : State :=
  (bhSheets bh).foldl (fun s sh => s.setSheet sh (s.sheet sh).throttled) s

/-- A sample of a bulkhead's sensors: the vote, the degraded state, and the limit of 105 °C (R353). -/
def execSensorSample (bh : Nat) (temps currents : List Int) (s : State) : Result :=
  let b := s.bulkhead bh
  let e := s.bhEnergy bh
  let ts := sampleAll true b.temps temps e
  let cs := sampleAll false b.currents currents e
  let two := decide (2 ≤ (validReadings ts).length) && decide (2 ≤ (validReadings cs).length)
  let n := if two then b.validFor + 1 else 0
  let hot := match vote ts with
    | none => b.hot
    | some t => if b.hot then decide (100 ≤ t) else decide (105 < t)
  let s := s.setBulkhead bh { b with temps := ts, currents := cs, validFor := n, hot := hot,
                                     degraded := !two || (b.degraded && decide (n < 64)) }
  .next (if hot then s.throttle bh else s)

/-! ### Management (R298, R299, R354) -/

/-- The signed answer to a measurement request (R298); a statement of which a signature does not verify is not reported (R5). -/
def State.answerMeasurement (s : State) (index : Nat) (v : BitVec 512) : State :=
  let sig (alg : Bool) : Word := Config.signature alg v.toNat
  if Config.signatureVerifies false v.toNat (sig false) && Config.signatureVerifies true v.toNat (sig true) then
    s.send (.measurements index v (sig false) (sig true))
  else s.send .refused

/-- The window entries that name a tenant as owner or grantee (R298). -/
def State.windowsNaming (s : State) (t : Nat) : List Nat :=
  s.bulkheads.flatMap fun p =>
    (p.2.windows.filter fun e => e.getLsbD 15 && (decide (p.2.tag.toNat = t) || decide (bitsOf e.toNat 7 7 = t))).map BitVec.toNat

/-- The valid frames of a tenant. -/
def State.framesOf (s : State) (t : Nat) : List Nat :=
  (s.drover.frames.filter fun p => p.2.getLsbD 7 && decide (bitsOf p.2.toNat 0 7 = t)).map Prod.fst

/-- What indices 16 to 20 measure of a tenant: its record, the status words of its bulkheads, parked ones too, the windows and the
filter entries that name it, and its frames (R298). -/
def State.measured (s : State) (t : Nat) : List (List Nat) :=
  [[measuredRecord (s.record t)],
   ((List.range 64).filter fun b => (s.bulkhead b).holders.contains t).map fun b => (s.bhStatus b &&& 0xFFFFF800).toNat,
   s.windowsNaming t,
   (s.drover.filters.filter fun p => decide (bitsOf p.2.toNat 120 7 = t) || decide (bitsOf p.2.toNat 113 7 = t)).map
      fun p => p.2.toNat,
   s.framesOf t]

/-- SPDM GET_MEASUREMENTS over a VF's own session; a tenant's indices only for that tenant (R298). -/
def execSpdmGetMeasurements (vf index : Nat) (s : State) : Result :=
  let t := s.vfTenant vf
  let image (k : Nat) : State := match s.package.images[k]? with
    | some m => s.answerMeasurement index (m.measurement.setWidth 512)
    | none => s.send .refused
  let own (l : List Nat) : State := if t = 0 then s.send .refused else s.answerMeasurement index (Config.measureOf (index :: l))
  .next (match index with
    | 1 => image 0
    | 2 => image 1
    | 3 => image 2
    | 4 => image 3
    | 5 => s.answerMeasurement 5 (Config.fusedMeasurement s.fuseCount)
    | 6 => s.answerMeasurement 6 (Config.measureOf [6, if 1 < s.tenants.length then 1 else 0, if s.soleTenant then 0 else 1])
    | 16 | 17 | 18 | 19 | 20 => own ((s.measured t).getD (index - 16) [])
    | _ => s.send .refused)

/-- PLDM base discovery: types 0, 2 and 5 (R354). -/
def execPldmBaseDiscovery (s : State) : Result := .next (s.send (.pldmBase [0, 2, 5]))

/-- The power of a bulkhead in milliwatts: its voted current times its rail voltage (R352). -/
def State.bhPower (s : State) (b : Nat) : Int := (vote (s.bulkhead b).currents).getD 0 * ((s.bulkhead b).rail : Int)

/-- A PLDM sensor (R354), numbered by the model (log entry 28): 0 package power in mW, 1 cap in force in W, 2 HEALTH, from 64
on the voted temperature of each bulkhead, from 128 on its voted current, from 192 on its state. -/
def State.pldmSensor (s : State) (k : Nat) : Option Int :=
  if k = 0 then some ((List.range 64).map s.bhPower).sum
  else if k = 1 then some s.capInForce
  else if k = 2 then some (s.pfValue (.word 0))
  else if 64 ≤ k ∧ k < 128 then vote (s.bulkhead (k - 64)).temps
  else if 128 ≤ k ∧ k < 192 then vote (s.bulkhead (k - 128)).currents
  else if 192 ≤ k ∧ k < 256 then some (s.bulkhead (k - 192)).state.code
  else none

/-- A PLDM sensor is read (R354). -/
def execPldmSensorRead (k : Nat) (s : State) : Result :=
  .next (match s.pldmSensor k with
    | some v => s.send (.sensor v)
    | none => s.send .refused)

/-- A firmware image is received: verified at once, activated at the next device reset; one that fails leaves everything as it
is (R354). -/
def execPldmFirmwareUpdate (m : FirmwareImage) (s : State) : Result :=
  .next (if s.verifies m then
      (s.updPackage fun p => { p with nextImages := m :: p.nextImages.filter fun x => decide (x.kind ≠ m.kind) }).send
        (.pldmFirmware true)
    else s.send (.pldmFirmware false))

/-- The state a TDISP message leads to (R299); none where it is refused. -/
def tdiNext (t : Tdi) (m : TdispMsg) : Option Tdi :=
  match t, m with
  | .unlocked, .lock => some .locked
  | .locked, .start => some .run
  | _, .stop => some .unlocked
  | _, _ => none

/-- A TDISP message to a VF of a confidential tenant (R299). -/
def execTdispRequest (vf : Nat) (m : TdispMsg) (s : State) : Result :=
  .next (if !(s.confidential (s.vfTenant vf)) then s.send .refused
    else match tdiNext (s.vf vf).tdi m with
      | none => s.send .refused
      | some t => (s.setTdi vf t).send (.tdisp t))

end Sys2Proof.Machine
end

