-- ==== Sys2Proof/Machine/Meter.lean ====
section
/-! DEFINITION. The 128-cycle window of a sheet (R262, R263), and the 4,096-cycle rate window of an instance with the layout
events it decides (R265–R269) and the slug tokens that bring them about (R223). -/

namespace Sys2Proof.Machine

/-! ### Allowances (R262, R263) -/

/-- The activity a sheet has counted, weighted, in 0.25 pJ (R262). -/
def State.estimate (s : State) (sh : Sheet) : Nat :=
  ((List.range 4).map fun c => s.energyOf (sh.activity.get c)).sum + s.energyOf sh.past

/-- An allowance after a window of energy e under a cap share (R263). -/
def nextAllowance (e share amax a : Nat) : Nat :=
  if share < e then max (a - a / 8) 8
  else if 16 * e < 15 * share then min (a + amax / 16) amax
  else a

/-- The allowances of a sheet after a window (R263). -/
def Sheet.adjust (sh : Sheet) (e share : Nat) : Sheet :=
  { sh with
    wideAllow := (List.range 8).map fun p => (p, nextAllowance e share 512 (agetD sh.wideAllow p 512)),
    edgeAllow := Quad.ofFn fun p => nextAllowance e share 256 (sh.edgeAllow.get p) }

/-- A window of 128 cycles ends: the sheet estimates its energy, what a context has spent is due to its slice (R243), and the allowances follow; on a hot bulkhead they stay at their
minimum (R262, R263, R353). -/
def execAllowanceWindow (sheet : Nat) (s : State) : Result :=
  let sh := s.sheet sheet
  let e := s.estimate sh + Config.otherEnergy s.free
  let sh' := if (s.bulkhead (bhOf sheet)).hot then sh.throttled else sh.adjust e (s.capShare sheet)
  .next ({ s with free := s.free + 1 }.setSheet sheet
    { sh' with
      wideUsed := [], edgeUsed := Quad.all 0, activity := Quad.all [], past := [], energy := e,
      spent := Quad.ofFn fun c => sh.spent.get c + s.energyOf (sh.activity.get c) })

/-! ### Occupancy and rate (R265) -/

/-- The largest of a list, 0 of none. -/
def largest (l : List Nat) : Nat := l.foldl max 0

/-- The input occupancy of an actor, summed over the window (R265). -/
def Actor.inOccupancy (a : Actor) : Nat :=
  largest (((List.range 4).filter fun p => decide (portMode a.header p ≠ .off)).map a.inOcc.get)

/-- The occupancy at the end of an edge, summed over the window (R265). -/
def Inst.endOccupancy (i : Inst) (e : EdgeEnd) : Nat :=
  match e with
  | .actor b p => ((aget? i.forme.actors b).map fun b => b.inOcc.get p).getD 0
  | .wide sh p => agetD i.wideOcc (sh, p) 0

/-- The output occupancy of an actor, summed over the window (R265). -/
def Inst.outOccupancy (i : Inst) (aid : Nat) (a : Actor) : Nat :=
  largest (((List.range 4).filter fun k => decide (outRate a.header k ≠ 0)).flatMap fun k =>
    (i.edgesFrom (.actor aid k)).map fun e => ((aget? i.edges e).map fun e => i.endOccupancy e.dst).getD 0)

/-- Firings of an actor in the window (R265). -/
def Actor.fired (a : Actor) : Nat := a.started - a.firedAt

/-! ### Decisions (R266–R269) -/

/-- The actor has had no event in the two windows before the end of window w (R266, R268). -/
def Actor.rested (a : Actor) (w : Nat) : Bool :=
  match a.eventWindow with
  | none => true
  | some e => decide (e + 2 ≤ w)

/-- A layout event of the actor is on its way. -/
def Inst.changing (i : Inst) (aid : Nat) : Bool :=
  i.changes.any fun c => decide (c.actor = aid) || (decide (2 ≤ c.kind.toNat) && decide (c.other = aid))

/-- Places that events on their way will take (R269). -/
def Inst.promised (i : Inst) : List NodeId := (i.changes.filter fun c => decide (c.kind ≠ 1)).map fun c => c.after

/-- The node of an actor that stands alone, or of clone 0. -/
def Actor.node (a : Actor) : NodeId := a.members.headD a.home

/-- An actor's class lets it be cloned (R26, R150, R266): an ASSOC or SCAN actor's state register carries a tag for which its
combine has an identity. -/
def State.mayClone (s : State) (i : Inst) (a : Actor) : Bool :=
  let c := s.nodeCtx a.node i.ctx
  match a.node.cls with
  | .element =>
    decide (actorClass a.header = 1) ||
    (decide (2 ≤ actorClass a.header) &&
      match stateReg c.slots a.extent with
      | some k => (combIdentity (actorComb a.header) (c.keeps.get k).tag).isSome
      | none => false)
  | .fe => decide (actorClass a.header = 2) && decide (actorComb a.header = 7)
  | _ => false

/-- An actor may take part in an event at the end of window w: of a forme without `.pin`, with no event on its way or in the two
windows before, of no colour wider than 1 (R22, R26, R266). -/
def Inst.free (i : Inst) (aid : Nat) (a : Actor) : Bool :=
  !i.pinned && !(i.changing aid) && a.rested i.window && a.replicas.isEmpty

/-- A clone of an actor (R266). -/
def State.decideClone (s : State) (i : Inst) (aid : Nat) (a : Actor) (high low : Nat) : Option Change :=
  if decide (4096 * high ≤ a.inOccupancy) && decide (i.outOccupancy aid a ≤ 4096 * low) && decide (a.members.length < 8) &&
      s.mayClone i a then
    (s.freePlace i a a.node (s.nodeCtx a.node i.ctx).slots i.promised).map fun n =>
      { id := 0, kind := 0, actor := aid, before := a.node, after := n, other := 0 }
  else none

/-- An unclone of a set (R267). -/
def decideUnclone (aid : Nat) (a : Actor) : Option Change :=
  if 1 < a.members.length ∧ 2 ≤ a.lowWindows then
    some { id := 0, kind := 1, actor := aid, before := a.members.getLastD a.node, after := a.node, other := 0 }
  else none

/-- Element m stands beside n in their tile, with the higher index (R268). -/
def foldsOnto (m n : NodeId) : Bool :=
  decide (m.cls = .element) && decide (n.cls = .element) && decide (m.sheet = n.sheet) && decide (m.tile = n.tile) &&
  (decide (m.elem = n.elem + 4) || (decide (m.elem = n.elem + 1) && decide (m.elem / 4 = n.elem / 4)))

/-- A fold of an actor onto the element of another, both with fewer than 256 firings in the window (R26, R268). -/
def State.decideFold (s : State) (i : Inst) (aid : Nat) (a : Actor) : Option Change :=
  if a.members.length ≠ 1 ∨ 256 ≤ a.fired then none
  else
    let c := s.nodeCtx a.node i.ctx
    (i.forme.actors.find? fun p =>
      foldsOnto a.node p.2.node && decide (p.2.members.length = 1) && decide (p.2.fired < 256) && i.free p.1 p.2 &&
      !(i.promised.contains p.2.node) && (s.nodeCtx p.2.node i.ctx).roomFor .element a c.slots).map fun p =>
      { id := 0, kind := 2, actor := aid, before := a.node, after := p.2.node, other := p.1 }

/-- An unfold of a folded pair with more than 1,024 firings in the window: back to the element it came from, or to the lowest-indexed
free one of its row domain (R268). -/
def State.decideUnfold (s : State) (i : Inst) (aid : Nat) (a : Actor) : Option Change :=
  match a.folded with
  | none => none
  | some (n, b) => match aget? i.forme.actors b with
    | none => none
    | some x =>
      if a.fired + x.fired ≤ 1024 ∨ i.changing b = true ∨ x.rested i.window = false ∨ a.members.length ≠ 1 then none
      else
        let slots := (s.nodeCtx a.node i.ctx).slots
        let home := !(i.promised.contains n) && (s.nodeCtx n i.ctx).roomFor .element a slots
        (if home then some n else s.freePlace i a a.node slots i.promised).map fun m =>
          { id := 0, kind := 3, actor := aid, before := a.node, after := m, other := b }

/-- The decision on one actor (R266–R268). -/
def State.decideOn (s : State) (i : Inst) (high low aid : Nat) (a : Actor) : Option Change :=
  if !(i.free aid a) then none
  else (s.decideClone i aid a high low).or ((decideUnclone aid a).or ((s.decideUnfold i aid a).or (s.decideFold i aid a)))

/-- A decided event is on its way: a slug goes out on every edge to its actor, and what follows takes the new route (R223). -/
def Inst.startChange (i : Inst) (c : Change) : Inst :=
  { i with
    changes := i.changes ++ [c],
    edges := amap i.edges fun _ e => match e.dst with
      | .actor a _ => if a = c.actor ∧ e.rewiring = none then { e.push (.slug c.id) with rewiring := some c.id } else e
      | .wide _ _ => e }

/-- An actor put into its place in the order of decisions: by number, copies by sheet (R269). -/
def insertActor (l : List (Nat × Actor)) (p : Nat × Actor) : List (Nat × Actor) :=
  match l with
  | [] => [p]
  | q :: r =>
    if p.2.number < q.2.number ∨ (p.2.number = q.2.number ∧ p.2.home.sheet < q.2.home.sheet) then p :: q :: r
    else q :: insertActor r p

/-- The decisions at the end of a window, one actor after another (R269). -/
def State.decideAll (s : State) (id high low : Nat) (l : List (Nat × Actor)) : State :=
  match l with
  | [] => s
  | (aid, a) :: r =>
    match aget? s.insts id with
    | none => s
    | some i =>
      match s.decideOn i high low aid a with
      | none => s.decideAll id high low r
      | some c =>
        let f := s.fresh
        (f.2.updInst id fun i => i.startChange { c with id := f.1 }).decideAll id high low r

/-- A window at whose end a set's input occupancy is at or below L counts toward its unclone (R267). -/
def Actor.countLow (a : Actor) (low : Nat) : Actor :=
  { a with lowWindows := if 1 < a.members.length ∧ a.inOccupancy ≤ 4096 * low then a.lowWindows + 1 else 0 }

/-- The measurements of the next window start (R32, R265). -/
def Inst.nextWindow (i : Inst) : Inst :=
  let fresh (a : Actor) : Actor := { a with firedAt := a.started, inOcc := Quad.all 0 }
  { i with
    forme := { i.forme with actors := amap i.forme.actors fun _ a => fresh a },
    wideOcc := amap i.wideOcc fun _ _ => 0,
    edges := amap i.edges fun _ e => { e with passed := 0 },
    window := i.window + 1 }

/-- A rate window ends: the decisions on the actors of the chase are taken, and the counts start anew (R265–R269). -/
def execRateWindowEnd (id : Nat) (s : State) : Result :=
  .next (match aget? s.insts id with
    | none => s
    | some i =>
      if i.cycle < 4096 * (i.window + 1) then s
      else
        let r := s.record i.tenant
        let low := recField r 320 4
        let s := s.updInst id fun i =>
          { i with forme := { i.forme with actors := amap i.forme.actors fun _ a => a.countLow low } }
        let l := (agetD s.insts id i).forme.actors.foldl insertActor []
        let s := (s.decideAll id (recField r 324 4) low l).updInst id Inst.nextWindow
        { s with tiles := amap s.tiles fun k t =>
            if i.sheets.contains k.1 then { t with counters := t.counters.filter fun c => decide (c.1.1 ≠ i.ctx) } else t })

/-! ### Slugs (R223) -/

/-- The slug of a change is first on an edge. -/
def Edge.slugFirst (e : Edge) (c : Nat) : Bool :=
  match e.items with
  | .slug k :: _ => decide (k = c)
  | _ => false

/-- The edges that a change rewires. -/
def Inst.rewired (i : Inst) (c : Nat) : Assoc Nat Edge := i.edges.filter fun p => decide (p.2.rewiring = some c)

/-- The slug is taken: what waited on the new route follows (R223). -/
def Edge.takeSlug (e : Edge) (c : Nat) : Edge :=
  if e.rewiring = some c then { e with items := e.items.drop 1 ++ e.next, next := [], rewiring := none } else e

/-- A slug that cannot be taken yet goes behind the next token: the event is at a later place on the edge. -/
def Edge.deferSlug (e : Edge) (c : Nat) : Edge :=
  if e.rewiring = some c then
    match e.items, e.next with
    | slug :: _, x :: r => { e with items := [x, slug], next := r }
    | _, _ => e
  else e

/-- Nothing of the actor is under way, nothing waits behind its set, and none of its tokens taken makes a set: its count is that of
every token before the slug (R194, R223). A set that takes no token does not hold the event back. -/
def State.settled (s : State) (i : Inst) (a : Actor) : Bool :=
  a.active.isEmpty && a.outs.isEmpty && ((s.setsOf i.ctx a).all fun t => decide (t.operands = Quad.all []))

/-- The place an event leaves and the one it goes to stand on different sides of the cut in progress (R223, R310). -/
def State.acrossCut (s : State) (i : Inst) (c : Change) (a : Actor) : Bool :=
  i.cutting.isSome && ((s.nodeCtx a.node i.ctx).saved != (s.nodeCtx c.after i.ctx).saved)

/-- The event can still take effect as decided: there is room, the set is as it was, and of a clone the state still carries a tag
with an identity (R26, R136). -/
def State.changeHolds (s : State) (i : Inst) (c : Change) (a : Actor) : Bool :=
  let room := match c.after.cls with
    | .fe => decide ((s.nodeCtx c.after i.ctx).headers = Quad.all none)
    | cls => (s.nodeCtx c.after i.ctx).roomFor cls a (s.nodeCtx a.node i.ctx).slots
  a.replicas.isEmpty && (match c.kind with
    | 0 => room && decide (a.members.length < 8) && s.mayClone i a
    | 1 => decide (1 < a.members.length)
    | _ => room && decide (a.members = [c.before]))

/-- A layout event takes effect (R28, R195, R196, R234). -/
def State.applyChange (s : State) (id : Nat) (c : Change) : State :=
  match c.kind with
  | 0 => s.cloneSet id c.actor c.after
  | 1 => (s.uncloneSet id c.actor).1
  | k => s.moveActor id c.actor c.after k c.other

/-- The unclone of a SCAN set waits for a block boundary (R199, R267). -/
def Actor.midBlock (a : Actor) (c : Change) : Bool :=
  decide (c.kind = 1) && decide (actorClass a.header = 3) && decide ((a.started - a.base) % actorBlock a.header ≠ 0)

/-- The slugs of a change that are first on their edges are taken there, while others are still on their way: what waited on the new
route of those edges goes on to the receiver (R223). -/
def Inst.takeFirstSlugs (i : Inst) (c : Nat) : Inst :=
  { i with edges := amap i.edges fun _ e => if e.slugFirst c then e.takeSlug c else e }

/-- The receiver takes the slug of a change: on each edge where it is first, and with the last of them the event takes effect, once
every firing from the tokens before it has ended (R223), and of an unclone once no scoreboard range holds back what the joined state
spills (R219). An event whose places a cut in progress parts goes on behind what follows
(DEDUCED, log entry 120). -/
def execSlugTaken (id change : Nat) (s : State) : Result :=
  .next (match aget? s.insts id with
    | none => s
    | some i => match i.changes.find? fun c => decide (c.id = change) with
      | none => s
      | some c => match aget? i.forme.actors c.actor with
        | none => s
        | some a =>
          if i.restoring || s.stopped a.node.sheet then s
          else if !((i.rewired change).all fun p => p.2.slugFirst change) then s.updInst id fun i => i.takeFirstSlugs change
          else if !(s.settled i a) || (decide (c.kind = 1) && s.joinHeld i.ctx a) then s
          else if a.midBlock c || s.acrossCut i c a then
            s.updInst id fun i => { i with edges := amap i.edges fun _ e => e.deferSlug change }
          else
            let s := if s.changeHolds i c a then s.applyChange id c else s
            s.updInst id fun i => { i.dropChange change with edges := amap i.edges fun _ e => e.takeSlug change })

end Sys2Proof.Machine
end

