-- ==== Sys2Proof/Machine/Schedule.lean ====
section
/-! DEFINITION. The drover's scheduling: ranks (R19), placement of a phase and its configuration (R10–R14, R29), the end of a
phase (R10, R340), the order of slices (R237–R239), budgets (R241–R243), and the records of the rings (R343–R345). -/

namespace Sys2Proof.Machine

/-! ### Ranks (R19) -/

/-- A rank written on every sheet of the chase. -/
def State.writeRank (s : State) (id : Nat) (i : Inst) (r : BitVec 16) : State :=
  let s := i.sheets.foldl (fun s sh => s.setSheet sh { s.sheet sh with rank := (s.sheet sh).rank.set i.ctx r }) s
  s.updInst id fun i => { i with forme := { i.forme with rank := r } }

/-- The drover rewrites a rank that has changed, not more often than once per 4,096 ns (R19). -/
def execRankRefresh (id : Nat) (s : State) : Result :=
  .next (match aget? s.insts id with
    | none => s
    | some i => match aget? s.slices i.slice with
      | none => s
      | some x =>
        let r := x.rank s.time
        if x.rankTime + 4096 ≤ s.time ∧ r ≠ i.forme.rank then
          (s.writeRank id i r).setSlice i.slice { x with rankTime := s.time }
        else s)

/-! ### Placement (R10–R14, R29, R237) -/

/-- An end of a route with its sheet as placed. -/
def EdgeEnd.placed (shs : List Nat) (e : EdgeEnd) : EdgeEnd :=
  match e with
  | .actor a p => .actor a p
  | .wide k p => .wide (shs.getD k 0) p

/-- The way that an image's switch words give a route as placed, between two elements (R73). -/
def ImageVariant.laidWay (v : ImageVariant) (base : Nat) (r : ImageRoute) : List (Nat × Nat) :=
  let place (a : ImageActor) : NodeId := { a.node with sheet := (chaseSheets base v.w v.h).getD a.sheet 0 }
  match r.src, r.dst with
  | .actor a k, .actor b p => match v.actors[a]?, v.actors[b]? with
    | some x, some y => v.wordWay base (place x) (place y) k p
    | _, _ => []
  | _, _ => []

/-- An edge of the graph as placed, empty. -/
def edgeOf (v : ImageVariant) (base : Nat) (r : ImageRoute) : Edge :=
  let shs := chaseSheets base v.w v.h
  { src := r.src.placed shs, dst := r.dst.placed shs, laid := v.laidWay base r, way := [], hops := [], cycle := r.cycle, items := [],
    next := [], rewiring := none, passed := 0 }

/-- An actor as placed: it stands alone at its place in the image (R26). -/
def actorOf (v : ImageVariant) (shs : List Nat) (a : ImageActor) : Actor :=
  let h := (v.header a).getD (0, 0)
  let n := { a.node with sheet := shs.getD a.sheet 0 }
  { number := a.number, home := n, header := h.1, extent := h.2, members := [n], started := 0, base := 0, replicas := [],
    active := [], outs := [], dealt := 0, carry := none, eventWindow := none, lowWindows := 0, firedAt := 0, inOcc := Quad.all 0,
    folded := none }

/-- A list keyed by place. -/
def keyed {α : Type} (l : List α) : Assoc Nat α := l.zipIdx.map fun p => (p.2, p.1)

/-- The ends at wide ports. -/
def wideEnds (l : List Edge) : List (Nat × Nat) :=
  (l.filterMap fun e => match e.dst with
    | .wide sh p => some (sh, p)
    | .actor _ _ => none).eraseDups

/-- A forme instance at placement, its edges on their ways (R12, R28, R132, R308, R355). -/
def instOf (slice : Nat) (x : Slice) (m : Image) (v : ImageVariant) (base ctx now : Nat) (rank : BitVec 16) : Inst :=
  let shs := chaseSheets base v.w v.h
  let edges := v.routes.map (edgeOf v base)
  Inst.reroute {
    slice := slice, tenant := x.tenant, image := v, pinned := m.pinned, base := base, w := v.w, h := v.h, n := x.n, ctx := ctx,
    forme := { actors := keyed (v.allActors.map (actorOf v shs)), layver := 0, frames := [], widths := [], widthChanges := [],
               rank := rank },
    edges := keyed edges, regionMask := v.regionMask, tcalls := [], grants := [], log := [], overwritten := 0, changes := [],
    keepRanges := v.keepRanges shs, configured := [], cycle := 0, held := [], heldLines := [], late := [], cutsDone := 0, cutting := none,
    cutWanted := false, cutClock := now, areaA := none, areaB := none, rollbacks := 0, restoring := false,
    dupSeen := [], watchdog := 0, stalled := false, frozen := false, reports := [], together := (0, 0), openReport := none, thawing := [],
    accepted := none, nextPhase := none, window := 0, wideOcc := (wideEnds edges).map fun k => (k, 0), relaunched := false }

/-- A thread at the start of a phase (R29, R90): g1 = n, g2 to g9 the parameters. DESIGN CHOICE (log entry 140): the entry point is the first word of
the code region, for no field of the image names another (R82). -/
def threadOf (x : Slice) (ctx : Nat) : Thread :=
  let g (k : Nat) : Word := if k = 1 then BitVec.ofNat 64 x.n else if 2 ≤ k ∧ k ≤ 9 then x.params.getD (k - 2) 0 else 0
  { Thread.reset with run := .running, regs := Vector.ofFn fun k => g k.val, pc := BitVec.ofNat 64 (codeBase ctx),
                      rasBase := x.rasBase, rasLim := x.rasLim }

/-- The dividers of a sheet's rows: the smallest that a context resident there asks for (R21, R264). -/
def State.rowDividers (s : State) (sheet : Nat) : Quad Nat :=
  Quad.ofFn fun row =>
    let l := s.insts.flatMap fun p =>
      if p.2.sheets.contains sheet then p.2.image.rowDividers (p.2.indexOf sheet) row else []
    match l with
    | [] => 1
    | d :: r => r.foldl min d

/-- A sheet of a chase at placement: rank, valid, thread, dividers, no unit in hand (R19, R21, R29, R31, R242). -/
def State.placeSheet (s : State) (x : Slice) (i : Inst) (rank : BitVec 16) (k sheet : Nat) : State :=
  let sh := s.sheet sheet
  let t := if i.image.code.contains k then threadOf x i.ctx else Thread.reset
  s.setSheet sheet { sh with
    threads := sh.threads.set i.ctx t, rank := sh.rank.set i.ctx rank, valid := sh.valid.set i.ctx true,
    units := sh.units.set i.ctx 0, workBase := sh.workBase.set i.ctx x.work, taken := sh.taken.set i.ctx 0,
    dividers := s.rowDividers sheet }

/-- The weight stores that an earlier forme left in the context are empty (R154). -/
def State.emptyStores (s : State) (i : Inst) : State :=
  let drop (w : Option WeightStore) : Option WeightStore := w.filter fun w => decide (w.owner ≠ i.ctx)
  { s with nodes := amap s.nodes fun n v =>
      if i.sheets.contains n.sheet then { v with ws0 := drop v.ws0, ws1 := drop v.ws1 } else v }

/-- A phase is placed: the imposer claims the chase and the configuration starts to stream; code and data of the image are in
scratch (R11, R13, R14, R29, R75). A quantum restarts when the slice comes from the queue (R239). -/
def State.placePhase (s : State) (slice : Nat) (x : Slice) (m : Image) (v : ImageVariant) (base ctx : Nat) : State :=
  let r := s.fresh
  let rank := x.rank s.time
  let i := instOf slice x m v base ctx s.time rank
  let shs := i.sheets
  let s := (r.2.setInst r.1 i).emptyStores i
  let s := shs.zipIdx.foldl (fun s p => s.placeSheet x i rank p.2 p.1) s
  let s := { s with mem := writeAll s.mem (v.packets.flatMap (packetWrites shs v.w ctx)) }
  let s := s.setSlice slice { x with
    state := .placed, inst := some r.1, image := none, phasesRun := x.phasesRun + 1, rankTime := s.time,
    quantum := if x.state = .queued then 0 else x.quantum }
  s.updDrover fun d => { d with
    backfill := d.backfill.filter fun k => decide (k ≠ slice),
    launched := if d.launched.contains x.tenant then d.launched else d.launched ++ [x.tenant] }

/-- A head of the queue that has waited 50 µs keeps a lower slice of its tenant from being placed (R238). -/
def State.heldBack (s : State) (slice : Nat) (x : Slice) : Bool :=
  s.drover.backfill.any fun k => decide (k ≠ slice) &&
    match aget? s.slices k with
    | some h => decide (h.state = .queued) && decide (h.tenant = x.tenant) && h.before x
    | none => false

/-- Where a slice's next phase can be placed now (R3, R13, R238, R273). -/
def State.placeFor (s : State) (slice : Nat) (x : Slice) : Option (Image × ImageVariant × Nat × Nat) :=
  if s.heldBack slice x || !(s.clocksAllow x.tenant) || s.holdsPhases x.tenant then none
  else match x.image with
    | none => none
    | some m => match m.variant x.n with
      | none => none
      | some v => (s.findChase x.tenant m v).map fun p => (m, v, p.1, p.2)

/-- The first slice of a list that can be placed. -/
def State.firstPlaceable (s : State) (l : List (Nat × Slice)) :
    Option ((Nat × Slice) × (Image × ImageVariant × Nat × Nat)) :=
  l.findSome? fun p => (s.placeFor p.1 p.2).map fun q => (p, q)

/-- The drover chooses on a die: the next phase of a running slice, else the first queued slice that fits (R237, R239). -/
def execPhasePlace (die : Nat) (s : State) : Result :=
  .next (match s.firstPlaceable (s.slicesIn die .requeued ++ s.slicesIn die .queued) with
    | none => s
    | some ((slice, x), (m, v, base, ctx)) => s.placePhase slice x m v base ctx)

/-- A tile's configuration is complete and it starts firing (R11); when all of the chase's are, cut 0 is requested (R308). -/
def execTileConfigComplete (id sheet tile : Nat) (s : State) : Result :=
  .next (match aget? s.insts id with
    | none => s
    | some i =>
      if !(i.sheets.contains sheet) || decide (16 ≤ tile) || i.configured.contains (sheet, tile) then s
      else
        let s := s.configureTile i (i.indexOf sheet) tile
        let done := i.configured ++ [(sheet, tile)]
        let all := decide (done.length = 16 * (i.w * i.h))
        let s := s.updInst id fun i => { i with configured := done, relaunched := i.relaunched || all }
        if all && !i.relaunched then s.requestCut id else s)

/-! ### The end of a phase (R10, R110, R340) -/

/-- The phase has ended: every thread has halted, every engine operation has joined, every stream has drained (R10). -/
def State.phaseOver (s : State) (id : Nat) (i : Inst) : Bool :=
  (i.sheets.all fun sh => decide ((s.thread sh i.ctx).run ≠ .running)) &&
  (s.ops.all fun p => decide (p.2.inst ≠ id)) &&
  (s.streams.all fun p => decide (p.2.inst ≠ id) || decide (p.2.state = .drained) || decide (p.2.state = .stopped) ||
    decide (p.2.state = .cancelled)) &&
  !i.restoring && !i.frozen

/-- The slice with the phase it runs next, ready for a chase (R239, R340). -/
def Slice.withPhase (x : Slice) (a : PhaseAsk) (phase now : Nat) : Slice :=
  { x with
    image := some a.image, n := a.n, params := a.params, rasBase := a.rasBase, rasLim := a.rasLim, die := a.die, phase := phase,
    state := if x.sendBack then .queued else .requeued, waitSince := now, sendBack := false }

/-- What a committed `frun` asks for, checked as a phase that starts is (R110, R342). -/
def State.frunAsk (s : State) (x : Slice) (h n : Nat) (ps : List Word) : State × Except (BitVec 8) PhaseAsk :=
  match aget? x.handles h with
  | none => (s, .error 3)
  | some m => match m.variant n with
    | none => (s, .error 4)
    | some v =>
      if !(s.couldFit x.tenant m v) then (s, .error 5)
      else if !(s.saveOk x.tenant x.save.toNat v) then (s, .error 6)
      else (s, .ok { image := m, n := n, params := ps, rasBase := x.rasBase, rasLim := x.rasLim, die := s.dieFor x.tenant m v })

/-- What follows a phase of a slice: the phase that `frun` named, else the next table entry, else completion (R340); a phase that
is refused ends the slice with ILLEGAL and the reason (R342). -/
def State.nextPhaseOf (s : State) (slice : Nat) (x : Slice) (frun : Option (Nat × Nat × List Word)) : State :=
  let go (r : State × Except (BitVec 8) PhaseAsk) (phase : Nat) : State :=
    match r.2 with
    | .error e => r.1.endSlice slice 2 e kIllegal 0
    | .ok a => r.1.setSlice slice (x.withPhase a phase s.time)
  match frun with
  | some (h, n, ps) => go (s.frunAsk x h n ps) x.phase
  | none =>
    if x.phase + 1 < x.nph then go (s.checkPhase x.tenant x.ptab.toNat x.save.toNat (x.phase + 1)) (x.phase + 1)
    else s.endSlice slice 0 0 0 0

/-- A phase ends (R10): sets are joined (R196), the proof buffers commit (R232), the chase is freed, and the next phase or the
completion follows (R340). -/
def execPhaseEnd (id : Nat) (s : State) : Result :=
  .next (match aget? s.insts id with
    | none => s
    | some i =>
      if !(s.phaseOver id i) then s
      else
        let s := (s.uncloneSets id (s.assocSets i)).commitHeld id
        match aget? s.insts id with
        | none => s
        | some i =>
          let s := s.freeChase id i
          match aget? s.slices i.slice with
          | none => s
          | some x =>
            let x := { x with lastCut := i.lastCut, inst := none }
            (s.setSlice i.slice x).nextPhaseOf i.slice x i.nextPhase)

/-! ### The order of slices (R238, R239) -/

/-- The head of a die's queue has waited 50 µs (R238). -/
def execBackfillLimit (die : Nat) (s : State) : Result :=
  .next (match s.slicesIn die .queued with
    | [] => s
    | (k, x) :: _ =>
      if x.waitSince + 50000 ≤ s.time ∧ s.drover.backfill.contains k = false then
        s.updDrover fun d => { d with backfill := d.backfill ++ [k] }
      else s)

/-- The quantum of a slice: its priority class's, 2^24 where the drover has set none (R19, R239). -/
def State.quantumOf (s : State) (x : Slice) : Nat := agetD s.drover.quanta (x.curPrio / 32) (2 ^ 24)

/-- A placed slice has used up its quantum while one of equal or higher priority waits: it goes back to the queue at its next phase
boundary (R239). -/
def execQuantumExhausted (slice : Nat) (s : State) : Result :=
  .next (match aget? s.slices slice with
    | none => s
    | some x =>
      if x.state = .placed ∧ s.quantumOf x ≤ x.quantum ∧
          ((s.slicesIn x.die .queued).any fun p => decide (x.curPrio ≤ p.2.curPrio)) = true then
        s.setSlice slice { x with sendBack := true }
      else s)

/-! ### Budgets (R241–R243) -/

/-- A sheet whose allowance has run out draws another of 4,096 units, or what is left (R242). -/
def execWorkAllowanceDraw (sheet ctx : Nat) (s : State) : Result :=
  .next (match s.instAt sheet ctx with
    | none => s
    | some (_, i) => match aget? s.slices i.slice with
      | none => s
      | some x =>
        let g := if x.workFree then 4096 else min 4096 x.work
        let sh := s.sheet sheet
        if sh.units.get ctx ≠ 0 ∨ g = 0 then s
        else
          let s := s.setSheet sheet { sh with units := sh.units.set ctx g, workBase := sh.workBase.set ctx x.work,
                                              taken := sh.taken.set ctx 0 }
          s.setSlice i.slice { x with work := if x.workFree then x.work else x.work - g })

/-- Every sheet of a chase has stopped for want of units: BUDGET goes to the supervisor (R242, R345). -/
def execBudgetReport (id : Nat) (s : State) : Result :=
  .next (match aget? s.insts id with
    | none => s
    | some i => match aget? s.slices i.slice with
      | none => s
      | some x =>
        if !x.workFree && decide (x.work = 0) && !x.heldForBudget &&
            (i.sheets.all fun sh => decide ((s.sheet sh).units.get i.ctx = 0)) then
          (s.setSlice i.slice { x with heldForBudget := true }).postEvent x.vf
            { kind := 2, fault := kBudget.setWidth 7, tag := x.stamp, a := 0, b := x.cookie, c := BitVec.ofNat 64 x.charged }
        else s)

/-- A rank with another priority and the same urgency. -/
def withPrio (r : BitVec 16) (prio : Nat) : BitVec 16 := BitVec.ofNat 8 prio ++ r.extractLsb' 0 8

/-- ENERGYLEFT is refreshed by what the estimator has counted (R243); at zero the slice drops to class 0 (R19). -/
def execEnergyRefresh (id : Nat) (s : State) : Result :=
  .next (match aget? s.insts id with
    | none => s
    | some i => match aget? s.slices i.slice with
      | none => s
      | some x =>
        let y := x.chargeEnergy (s.energyDue i false)
        let s := s.payEnergy i false
        if y.curPrio = x.curPrio then s else s.writeRank id i (withPrio i.forme.rank y.curPrio))

/-! ### Records (R343–R345) -/

/-- The 64 bytes of a completion record (R343). -/
def Completion.bytes (c : Completion) (ph : Bool) : List Byte :=
  wordBytes 8 c.cookie ++ wordBytes 8 c.time ++ wordBytes 8 c.work ++ wordBytes 8 c.energy ++
  wordBytes 8 (BitVec.ofNat 64 (c.cut.toNat + 2 ^ 32 * (c.code.toNat % 2 ^ 16) + 2 ^ 48 * c.kind.toNat +
    2 ^ 56 * (c.reason.toNat % 2 ^ 8))) ++
  wordBytes 8 (BitVec.ofNat 64 (c.status.toNat + (if c.dmiss then 16 else 0) + 256 * c.nphr.toNat)) ++
  wordBytes 8 0 ++
  wordBytes 8 (BitVec.ofNat 64 (2 ^ 32 * c.stamp.toNat + (if ph then 2 ^ 63 else 0)))

/-- The 32 bytes of an event record (R345). -/
def EventRec.bytes (e : EventRec) (ph : Bool) (now : Nat) : List Byte :=
  wordBytes 8 (BitVec.ofNat 64 (e.kind.toNat + 256 * e.fault.toNat + (if ph then 2 ^ 15 else 0) + 2 ^ 16 * e.tag.toNat +
    2 ^ 32 * e.a.toNat)) ++
  wordBytes 8 e.b ++ wordBytes 8 e.c ++ natBytes 8 now

/-- The tail after one more record. -/
def nextTail (tail size : Word) : Word := BitVec.ofNat 64 ((tail.toNat + 1) % size.toNat)

/-- A ring has no room for a record (R344). -/
def ringFull (tail head size : Word) : Bool := decide (size = 0) || decide (nextTail tail size = head)

/-- Every engine operation and every stream of an instance has come to its end (R232). -/
def State.joined (s : State) (inst : Nat) : Bool :=
  (s.ops.all fun p => decide (p.2.inst ≠ inst)) && s.streams.all fun p => decide (p.2.inst ≠ inst)

/-- A record written to a ring of a VF; a page of it that is missing ends the launches of the VF (R337). -/
def State.writeRecordTo (s : State) (vf va : Nat) (bs : List Byte) : State × Bool :=
  if s.ringMisses vf va bs.length then (s.endVf vf, false) else s.droverWrite (s.vfTenant vf) va bs

/-- The first completion record that waits goes to its ring and vector 0 is signalled; it waits until the engine operations of its launch
have joined, and while the ring is full or the slot cannot be reached (R232, R344). -/
def execCompletionRecordPost (vf : Nat) (s : State) : Result :=
  let v := s.vf vf
  .next (match v.completions with
    | [] => s
    | c :: rest =>
      if !(s.joined c.inst) then s
      else if ringFull v.crTail v.crHead v.crSize then s
      else match s.writeRecordTo vf (v.crBase.toNat + 64 * v.crTail.toNat) (c.bytes v.crPhase) with
        | (s, false) => s
        | (s, true) =>
          let tail := nextTail v.crTail v.crSize
          (s.setVf vf { s.vf vf with
            completions := rest, crTail := tail, crPhase := if tail = 0 then !v.crPhase else v.crPhase }).signalVector vf 0)

/-- The first event record that waits goes to its ring and vector 1 is signalled (R345). DESIGN CHOICE (log entry 145): its device time is
that of its posting. -/
def execEventRecordPost (vf : Nat) (s : State) : Result :=
  let v := s.vf vf
  .next (match v.events with
    | [] => s
    | e :: rest =>
      if ringFull v.erTail v.erHead v.erSize then s
      else match s.writeRecordTo vf (v.erBase.toNat + 32 * v.erTail.toNat) (e.bytes v.erPhase s.time) with
        | (s, false) => s
        | (s, true) =>
          let tail := nextTail v.erTail v.erSize
          (s.setVf vf { s.vf vf with
            events := rest, erTail := tail, erPhase := if tail = 0 then !v.erPhase else v.erPhase }).signalVector vf 1)

end Sys2Proof.Machine
end

