-- ==== Sys2Proof/Machine/Recovery.lean ====
section
/-! DEFINITION. Recovery of an instance: reports and the thaw (R257, R305), cuts from the nodes' saves to the commit (R308–R313,
R226–R228, R323), machine faults (R314, R319, R322), and the restore that ends a rollback (R315–R318, R324). -/

namespace Sys2Proof.Machine

/-! ### The STALL watchdog (R255–R257) -/

/-- The tokens that wait at nodes of an instance, with their nodes. -/
def State.waitingTokens (s : State) (i : Inst) : List (NodeId × QToken) :=
  (s.nodes.flatMap fun p =>
    if i.sheets.contains p.1.sheet then
      ((List.range 4).flatMap fun k => (p.2.ctxs.get i.ctx).queues.get k).map fun q => (p.1, q)
    else []) ++
  s.tiles.flatMap fun p =>
    if i.sheets.contains p.1.1 then
      (p.2.store.filter fun e => decide (e.qt.tok.ctx.toNat = i.ctx)).map fun e => (e.node, e.qt)
    else []

/-- The node at whose switch an end of an edge stands: an actor's own, at a wide port the tile's first element (R30). -/
def Inst.nodeAt (i : Inst) (e : EdgeEnd) : NodeId :=
  match e with
  | .actor a _ => ((aget? i.forme.actors a).map fun x => x.members.headD x.home).getD ⟨.element, 0, 0, 0⟩
  | .wide sheet port => ⟨.element, sheet, wideTile port, 0⟩

/-- The tokens among what travels, with the cycle since which each waits. -/
def waitingItems (n : NodeId) (l : List Item) : List (NodeId × QToken) :=
  l.filterMap fun x => match x with
    | .token t since => some (n, { tok := t, arrived := since, edge := 0 })
    | _ => none

/-- The tokens that wait in the fabric of an instance, each since it was emitted or, at a wide port, since it came there: behind its
sets, in inject buffers, on edges, at wide ports (log entry 121). -/
def State.fabricTokens (s : State) (i : Inst) : List (NodeId × QToken) :=
  let sets := i.forme.actors.flatMap fun p => p.2.outs.filterMap fun o => match o.2 with
    | .out _ t since => some (p.2.node, { tok := t, arrived := since, edge := 0 })
    | .block _ => none
  let inject := s.nodes.flatMap fun p =>
    if i.sheets.contains p.1.sheet then
      (List.range 4).flatMap fun k => waitingItems p.1 (((p.2.ctxs.get i.ctx).inject.get k).map fun x => x.2.2)
    else []
  let wide := i.sheets.flatMap fun sh => (s.sheet sh).wide.flatMap fun p =>
    if p.1.2 = i.ctx then waitingItems (i.nodeAt (.wide sh p.1.1)) p.2 else []
  (i.edges.flatMap fun p => waitingItems (i.nodeAt p.2.dst) (p.2.items ++ p.2.next)) ++ wide ++ inject ++ sets

/-- The entries of `delay` rings of an instance: what a ring holds is value and tag alone, and its age is not kept, so the record names
no more than the node of the first, and that only where no other token is held (R137, R257; log entry 121). -/
def State.ringTokens (s : State) (i : Inst) : List (NodeId × QToken) :=
  s.nodes.flatMap fun p =>
    if i.sheets.contains p.1.sheet && ((p.2.ctxs.get i.ctx).rings.any fun r => decide (r.count ≠ 0)) then
      [(p.1, { tok := { width := 0, ctx := BitVec.ofNat 2 i.ctx, colour := 0, iter := 0, slot := 0, port := 0, fmt := 0, value := 0 },
               arrived := 0, edge := 0 })]
    else []

/-- The token that has waited longest. -/
def oldestToken (l : List (NodeId × QToken)) : Option (NodeId × QToken) :=
  l.foldl (fun acc x => match acc with
    | none => some x
    | some y => if x.2.arrived < y.2.arrived then some x else some y) none

/-- Some thread of an instance waits in a way. -/
def State.someWait (s : State) (i : Inst) (p : Wait → Bool) : Bool :=
  i.sheets.any fun sh => ((s.thread sh i.ctx).wait.map p).getD false

/-- Windows of an instance that are full. -/
def State.fullWindows (s : State) (i : Inst) : Nat :=
  (i.sheets.map fun sh => ((s.sheet sh).windows.get i.ctx).countP fun w => w.2.full).sum

/-- A token of a context waits in an input queue of a tile for the matching store (R250). -/
def State.boundAt (s : State) (ctx : Nat) (tile : Nat × Nat) : Bool :=
  s.nodes.any fun p => decide ((p.1.sheet, p.1.tile) = tile) &&
    (List.range 4).any fun k => ((p.2.ctxs.get ctx).queues.get k).any fun q => (p.2.ctxs.get ctx).bound k q.tok

/-- The kinds of wait present, bits 64 to 74 of the record from bit 0 on (R257). -/
def State.stallCauses (s : State) (id : Nat) (i : Inst) : Nat :=
  let mine (sh : Nat) : Bool := i.sheets.contains sh
  let streams := s.streams.filter fun p => decide (p.2.inst = id)
  let l : List Bool := [
    s.tiles.any fun p => mine p.1.1 && decide (1008 ≤ p.2.store.countP fun e => !e.reserved) && s.boundAt i.ctx p.1,
    decide (s.fullWindows i ≠ 0),
    decide (i.tcalls ≠ []),
    s.someWait i fun w => match w with | .await _ _ => true | _ => false,
    s.someWait i fun w => match w with | .qpop _ _ => true | _ => false,
    s.someWait i fun w => match w with | .bar _ => true | _ => false,
    s.someWait i fun w => match w with | .evwait _ _ => true | _ => false,
    i.forme.actors.any fun p => p.2.places.any fun n => (List.range 4).any fun k => decide (4 ≤ s.buffered i.ctx p.1 p.2 n k),
    streams.any fun p => decide (p.2.state = .held),
    s.someWait i fun w => match w with | .qpush => true | _ => false,
    streams.any fun p => decide (p.2.state = .live)]
  (l.zipIdx.map fun p => if p.1 then 2 ^ p.2 else 0).sum

/-- The STALL record (R257). -/
def State.stallRecord (s : State) (id : Nat) (i : Inst) : Nat :=
  let waiters := (i.sheets.filter fun sh => (s.thread sh i.ctx).wait.isSome).length
  let oldest := match (oldestToken (s.waitingTokens i ++ s.fabricTokens i)).or (s.ringTokens i).head? with
    | none => 0
    | some (n, q) =>
      2 ^ 112 * (nodeRef n).toNat + 2 ^ 108 * (LogEntry.bits.classCodeOf n).toNat + 2 ^ 96 * q.tok.colour.toNat +
        2 ^ 88 * q.tok.iter.toNat + 2 ^ 84 * q.tok.slot.toNat + 2 ^ 82 * q.tok.port.toNat
  2 ^ 192 * (s.time % 2 ^ 64) + 2 ^ 160 * min (2 ^ 32 - 1) (s.heldTokens i) + 2 ^ 152 * min 255 i.tcalls.length +
    2 ^ 144 * min 255 (s.fullWindows i) + 2 ^ 136 * min 255 waiters + oldest + 2 ^ 64 * s.stallCauses id i +
    2 ^ 32 * i.forme.layver.toNat

/-- The watchdog has reached 2^20: the instance stops where it stands and STALL is raised (R257, R301, R302). -/
def execWatchdogExpiry (id : Nat) (s : State) : Result :=
  .next (match aget? s.insts id with
    | none => s
    | some i =>
      if i.watchdog < 2 ^ 20 ∨ i.stalled = true ∨ i.frozen = true then s
      else
        let r : Report :=
          { kind := kStall, src := 6, sub := 0, sheet := i.base, tile := 0, elem := 0, ctx := i.ctx, slot := 0,
            tval := ssAddr (popBuffer i.ctx), record := natBytes 32 (s.stallRecord id i), node := none, discard := none }
        (s.updInst id fun i => { i with stalled := true }).report id r)

/-! ### Delivery and thaw (R305) -/

/-- A push that waits at a thread is withdrawn, as its instruction will be executed again (R305). -/
def State.withdrawPush (s : State) (i : Inst) (sheet : Nat) : State :=
  { s with sheets := amap s.sheets fun n sh =>
      if i.sheets.contains n then
        { sh with queues := amap sh.queues fun _ q =>
            { q with waiting := q.waiting.filter fun p => decide (p.pusher ≠ some (sheet, i.ctx)) } }
      else sh }

/-- The base thread can take a report: it runs, and waits for nothing but what a report ends (R305). -/
def State.canDeliver (s : State) (i : Inst) : Bool :=
  let t := s.thread i.base i.ctx
  decide (i.openReport = none) && !i.restoring && !(s.stopped i.base) &&
  (match t.wait with
   | none => true
   | some w => w.abandoned)

/-- The base thread takes the oldest queued report as an asynchronous trap; a wait is abandoned and its unit given back; for STALL
the record goes to the pop buffer first (R242, R302, R305). -/
def execReportDelivery (id : Nat) (s : State) : Result :=
  .next (match aget? s.insts id with
    | none => s
    | some i => match i.reports with
      | [] => s
      | r :: rest =>
        if !(s.canDeliver i) then s
        else if s.noHandler i then s.endLaunch id r.kind 0
        else
          let s := (s.actAs i.base i.ctx).endGroupOf i.base i.ctx
          let s := if s.cur.wait.isSome then (s.withdrawPush i i.base).giveBack else s
          let s := { s with mem := s.mem.write (ssLoc i.base (popBuffer i.ctx)) r.record }
          let s := s.setCur (s.cur.enter r.cause r.tval)
          (s.updInst id fun i => { i with reports := rest, openReport := some r }).endTurn i.base i.ctx)

/-- The thaw reaches a sheet (R305). -/
def execThawArrival (id sheet : Nat) (s : State) : Result :=
  .next (s.updInst id fun i => { i with thawing := i.thawing.filter fun n => decide (n ≠ sheet) })

/-! ### Cuts: the nodes save (R310, R311) -/

/-- The 100 µs timer has run out, or a request waits (R308). -/
def execCutTimer (id : Nat) (s : State) : Result :=
  .next (match aget? s.insts id with
    | none => s
    | some i =>
      if i.cutWanted || (decide (i.cutsDone ≠ 0) && decide (i.cutClock + 100000 ≤ s.time)) then s.requestCut id else s)

/-- The actors that stand on some of a list of nodes. -/
def FormeState.actorsOn (f : FormeState) (l : List NodeId) : Assoc Nat Actor :=
  f.actors.filter fun p => p.2.places.any fun n => l.contains n

/-- A node with every node that a clone set or a set of replicas joins it to: they save as one, since one input feeds them. -/
def FormeState.group (f : FormeState) (l : List NodeId) (fuel : Nat) : List NodeId :=
  match fuel with
  | 0 => l
  | fuel + 1 => f.group (l ++ (f.actorsOn l).flatMap fun p => p.2.places).eraseDups fuel

/-- The bellwether has come by every aligning edge to an actor (R310). -/
def State.aligned (s : State) (i : Inst) (aid : Nat) (a : Actor) : Bool :=
  let c := s.nodeCtx a.node i.ctx
  i.edges.all fun p => match p.2.dst with
    | .actor b _ => decide (b ≠ aid) || p.2.cycle || c.belled.contains p.1
    | .wide _ _ => true

/-- What an actor has emitted has entered the fabric. -/
def State.drained (s : State) (i : Inst) (aid : Nat) (a : Actor) : Bool :=
  a.outs.isEmpty &&
  a.places.all fun n => (List.range 4).all fun k =>
    (i.edgesFrom (.actor aid k)).isEmpty || ((s.nodeCtx n i.ctx).inject.get k).all fun x => decide (x.1 ≠ aid)

/-- A node stands between firings of a context, or where a save may fall inside one: an `mm` of which every row begun is finished or
has only drawn lanes, which are saved with it (R310, R311), a firing that waits for the commit itself (log entry 30). -/
def State.betweenFirings (s : State) (n : NodeId) (ctx : Nat) : Bool :=
  match (s.node n).running with
  | none => true
  | some f => decide (f.ctx ≠ ctx) || decide (f.wait = .publish) || decide (f.wait = .proofFull) ||
      (s.mmOf n f).isSome

/-- The bytes of a save slot with a valid record (R161, R311). -/
def State.slotBytes (s : State) (n : NodeId) (ctx : Nat) : List (Nat × List Byte) :=
  if (s.node n).suspended.any fun f => decide (f.ctx = ctx) then
    let off := (s.nodeCtx n ctx).saveSlot
    [(off, s.mem.read (sheetLoc n.sheet off) 32832)]
  else []

/-- What a node saves of a context (R311). -/
def State.saveNode (s : State) (n : NodeId) (ctx : Nat) : NodeSave :=
  let v := s.node n
  let bank (b : Bank) : Option Bank := if b.owner = some ctx then some b else none
  { node := n, saved := s.nodeCtx n ctx,
    store := (s.tile n.sheet n.tile).store.filter fun e => decide (e.node = n) && decide (e.qt.tok.ctx.toNat = ctx),
    retries := v.retries, acc0 := bank v.acc0, acc1 := bank v.acc1,
    running := v.running.filter fun f => decide (f.ctx = ctx),
    suspended := v.suspended.filter fun f => decide (f.ctx = ctx),
    slotBytes := s.slotBytes n ctx }

/-- Nodes are marked as having saved. -/
def State.markSaved (s : State) (ctx : Nat) (l : List NodeId) : State :=
  l.foldl (fun s n => s.setNodeCtx n ctx { s.nodeCtx n ctx with saved := true }) s

/-- The actors of a saved layout replaced by what they are now. -/
def FormeState.saveActors (f : FormeState) (l : Assoc Nat Actor) : FormeState :=
  { f with actors := amap f.actors fun k a => agetD l k a }

/-- A group of nodes saves into the cut in progress, with the rewirings not yet taken (R223), and sends the bellwether on, behind every token it has emitted (R310). -/
def State.saveGroup (s : State) (id : Nat) (l : List NodeId) : State :=
  match aget? s.insts id with
  | none => s
  | some i =>
    match i.cutting with
    | none => s
    | some area =>
      let actors := i.forme.actorsOn l
      let saves := l.map fun n => s.saveNode n i.ctx
      let area := { area with
        nodes := area.nodes ++ saves, forme := area.forme.map fun f => f.saveActors actors,
        incomplete := area.incomplete ++ i.changes.filter fun c => (aget? actors c.actor).isSome }
      let outs := actors.flatMap fun p => (List.range 4).flatMap fun k => i.edgesFrom (.actor p.1 k)
      (s.setInst id { i.pushEdges outs (.bell area.cut) with cutting := some area }).markSaved i.ctx l

/-- A node saves once the bellwether has come by all its aligning ports (R310); an ASSOC set is joined first (R196). -/
def execNodeSave (id : Nat) (n : NodeId) (s : State) : Result :=
  .next (match aget? s.insts id with
    | none => s
    | some i =>
      let l := i.forme.group [n] 32
      let actors := i.forme.actorsOn l
      if i.cutting.isNone || i.restoring || actors.isEmpty || (s.nodeCtx n i.ctx).saved then s
      else if (actors.all fun p => s.aligned i p.1 p.2 && s.drained i p.1 p.2 && !(s.joinHeld i.ctx p.2)) &&
          (l.all fun m => s.betweenFirings m i.ctx) then
        let sets := (actors.filter fun p => decide (actorClass p.2.header = 2) && decide (1 < p.2.members.length)).map Prod.fst
        let s := s.uncloneSets id sets
        match aget? s.insts id with
        | none => s
        | some i => s.saveGroup id (l.filter fun m => !(i.forme.actorsOn [m]).isEmpty)
      else s)

/-! ### Cuts: completion and commit (R226–R228, R313, R323) -/

/-- What travels is a bellwether. -/
def Item.isBell : Item → Bool
  | .bell _ => true
  | _ => false

/-- The bellwethers of a cut that is over are off the edges. -/
def Inst.dropBells (i : Inst) : Inst :=
  { i with edges := amap i.edges fun _ e =>
      { e with items := e.items.filter fun x => !x.isBell, next := e.next.filter fun x => !x.isBell } }

/-- What is on its way to a wide port ahead of a marker that need not come (R313, log entry 61). -/
def Inst.lateTokens (i : Inst) (area : Area) : List (Nat × Nat × Token) :=
  i.edges.flatMap fun p => match p.2.dst with
    | .wide sh port =>
      if area.rung.contains p.1 then []
      else (itemTokens ((p.2.items ++ p.2.next).takeWhile fun x => !x.isBell)).map fun t => (sh, port, t)
    | .actor _ _ => []

/-- The port has an outbound stream. -/
def State.boundOut (s : State) (id sheet port : Nat) : Bool :=
  s.streams.any fun p => decide (p.2.inst = id) && !p.2.inbound && decide (p.2.sheet = sheet) && decide (p.2.port = port) &&
    decide (p.2.state = .live)

/-- The bellwether has come to the end of an edge (R310, R313). -/
def State.bellHome (s : State) (id : Nat) (i : Inst) (area : Area) (k : Nat) (e : Edge) : Bool :=
  match e.dst with
  | .actor a _ => match aget? i.forme.actors a with
    | some x => (s.nodeCtx x.node i.ctx).belled.contains k
    | none => true
  | .wide sh p => area.rung.contains k || !(s.boundOut id sh p)

/-- Every part of the cut is there (R313): every node has saved, the bellwether has come to the end of every edge, every operation
issued before it has made its final write, and neither a freeze nor a budget holds the instance. -/
def State.cutReady (s : State) (id : Nat) (i : Inst) (area : Area) : Bool :=
  ((area.forme.map fun f => f.actors.all fun p => p.2.places.all fun n => area.nodes.any fun v => decide (v.node = n)).getD
    false) &&
  (i.edges.all fun p => s.bellHome id i area p.1 p.2) &&
  (s.ops.all fun p => decide (p.2.inst ≠ id) || decide (i.cutsDone < p.2.cut) || (p.2.afterCommit && !p.2.released)) &&
  !i.frozen && !i.restoring && !(((aget? s.slices i.slice).map fun x => x.heldForBudget).getD false)

/-- A publishing access of a thread is performed as part of the commit, and the thread retires it (R227). -/
def State.publishThread (s : State) (i : Inst) (sheet : Nat) : State :=
  let t := s.thread sheet i.ctx
  match t.wait with
  | some (.publish ins read) =>
    let s := publish ins read ((s.setThread sheet i.ctx { t with wait := none }).actAs sheet i.ctx)
    if s.cur.wait.isSome || s.cur.entering then s else s.retire
  | _ => s

/-- The thread waits to publish. -/
def Thread.publishing (t : Thread) : Bool :=
  match t.wait with
  | some (.publish _ _) => true
  | _ => false

/-- A firing that waits for the commit goes on (R145, R227). -/
def Firing.commit (f : Firing) (ctx : Nat) : Firing :=
  if f.ctx = ctx ∧ f.wait = .publish then { f with wait := .none, progress := 1 } else f

/-- What the commit releases on the nodes of a chase, and the marks of the cut off them. -/
def State.commitNodes (s : State) (i : Inst) : State :=
  { s with nodes := amap s.nodes fun n v =>
      if i.sheets.contains n.sheet then
        { v with ctxs := v.ctxs.set i.ctx (v.ctxs.get i.ctx).clearMarks, running := v.running.map fun f => f.commit i.ctx }
      else v }

/-- The channel state recorded since the saves (R310). -/
def State.withChannels (s : State) (ctx : Nat) (area : Area) : Area :=
  { area with nodes := area.nodes.map fun v => { v with saved := { v.saved with channel := (s.nodeCtx v.node ctx).channel } } }

/-- The thread of a sheet stands where the cut in progress has saved it, so that the cut can record its publishing access as retired (R227;
log entry 127). -/
def Area.standsAt (a : Area) (sheet : Nat) (t : Thread) : Bool :=
  a.sheets.any fun v => decide (v.sheet = sheet) && decide ({ v.thread with events := t.events } = { t with wait := none })

/-- The saved threads of those that published are as they stand after it, with their spill areas and pop buffers (R227). -/
def State.withPublished (s : State) (id ctx : Nat) (l : List Nat) (area : Area) : Area :=
  { area with sheets := area.sheets.map fun v =>
      if l.contains v.sheet then
        let t := s.thread v.sheet ctx
        { v with thread := { t with wait := none, events := v.thread.events }, spill := s.spillWords id v.sheet t,
                 popBuffer := s.mem.read (ssLoc v.sheet (popBuffer ctx)) 32 }
      else v }

/-- What was popped before the cut cannot come back (R318). -/
def State.trimPops (s : State) (id : Nat) (area : Area) : State :=
  area.sheets.foldl (fun s v =>
    let sh := s.sheet v.sheet
    s.setSheet v.sheet { sh with queues := amap sh.queues fun k q =>
      let from_ := (agetD v.queues k Queue.reset).pops
      { q with popped := q.popped.filter fun p => decide (p.inst ≠ id) || decide (from_ ≤ p.seq) } }) s

/-- Body length of an area in 64-byte units, as far as it lies in DM (log entry 27). -/
def ImageVariant.saveUnits (v : ImageVariant) : Nat := (v.saveBytes - 64 + 63) / 64

/-- The bytes of an area's header (R312). -/
def Area.header (a : Area) : List Byte :=
  natBytes 64 (a.time.toNat * 2 ^ 448 + a.cut % 2 ^ 32 * 2 ^ 416 + a.layver.toNat * 2 ^ 384 + a.crc.toNat * 2 ^ 352 +
    a.len % 2 ^ 32 * 2 ^ 320 + (if a.valid then 1 else 0))

/-- The image of a bank in an area: that of R161 for an FP32 bank; that of an INT48 bank is left open (log entry 8). -/
def Bank.image (b : Bank) : List Byte := if b.int48 then [] else bankBytes b

/-- The parts of a body that come first: keep ranges and bank images (R312, log entry 8). -/
def Area.parts (a : Area) : List Byte :=
  (a.sheets.flatMap fun v => v.keep.flatMap Prod.snd) ++
  a.nodes.flatMap fun v => (v.acc0.toList ++ v.acc1.toList).flatMap Bank.image

/-- The body of an area as it is written to DM: its parts, and behind them what the spec leaves open (R166, R312; log entry 8). -/
def State.areaBody (s : State) (i : Inst) (a : Area) : List Byte :=
  let n := 64 * i.image.saveUnits
  let l := a.parts.take n
  l ++ (List.range (n - l.length)).map fun k => Config.freeByte (s.free + k)

/-- Keep ranges as a body has them, and the rest of the body. -/
def takeKeeps (l : List (Nat × List Byte)) (bs : List Byte) : List (Nat × List Byte) × List Byte :=
  match l with
  | [] => ([], bs)
  | p :: r =>
    let q := takeKeeps r (bs.drop p.2.length)
    ((p.1, bs.take p.2.length) :: q.1, q.2)

/-- Saved sheets with the keep ranges that a body has, and the rest of the body. -/
def takeSheets (l : List SheetSave) (bs : List Byte) : List SheetSave × List Byte :=
  match l with
  | [] => ([], bs)
  | v :: r =>
    let k := takeKeeps v.keep bs
    let q := takeSheets r k.2
    ({ v with keep := k.1 } :: q.1, q.2)

/-- A saved bank as a body has it, and the rest of the body. -/
def takeBank (b : Option Bank) (bs : List Byte) : Option Bank × List Byte :=
  match b with
  | none => (none, bs)
  | some b => if b.int48 then (some b, bs) else (some { bankOf bs 0 with owner := b.owner }, bs.drop 32768)

/-- Saved nodes with the banks that a body has. -/
def takeNodes (l : List NodeSave) (bs : List Byte) : List NodeSave :=
  match l with
  | [] => []
  | v :: r =>
    let p := takeBank v.acc0 bs
    let q := takeBank v.acc1 p.2
    { v with acc0 := p.1, acc1 := q.1 } :: takeNodes r q.2

/-- An area with the parts that its body in DM has. -/
def Area.withBody (a : Area) (bs : List Byte) : Area :=
  let r := takeSheets a.sheets bs
  { a with sheets := r.1, nodes := takeNodes a.nodes r.2 }

/-- Where a tenant's bytes lie as the drover reaches them with no stall, none where some cannot be reached; a held line does not stand in
the way (R312, R337, log entry 8). -/
def State.directRun (s : State) (tenant va n : Nat) (k : AccessKind) : Option (List Nat) :=
  (pageParts va n (n / 65536 + 2)).foldr (fun p r => match r, (s.translate tenant p.1).2 with
    | some l, .page leaf at_ => match s.pageAns (remoteAgent tenant (64 * ((frameOf at_).getD 0 / 192))) leaf at_ k with
      | .ok loc _ => some ((List.range p.2).map (fun j => loc + j) ++ l)
      | _ => none
    | _, _ => none) (some [])

/-- The virtual address of the area that a cut goes to: area A at the save base of the launch packet for even cuts, area B behind it for
odd ones (R312, log entry 8). -/
def State.areaBase (s : State) (i : Inst) (cut : Nat) : Option Nat :=
  (aget? s.slices i.slice).map fun x => x.save.toNat + (if cut % 2 = 0 then 0 else i.image.saveBytes)

/-- Where the header and body of the area that a cut goes to lie in DM (R312). -/
def State.areaLocs (s : State) (i : Inst) (cut : Nat) (k : AccessKind) : Option (List Nat) :=
  (s.areaBase i cut).bind fun at_ => s.directRun i.tenant at_ (64 + 64 * i.image.saveUnits) k

/-- Bytes written by the device itself, lines rewritten whole free of poison (R326). -/
def State.deviceWrite (s : State) (l : List (Nat × Byte)) : State :=
  { s with
    mem := s.mem.scatter l,
    package := s.package.rewritten fun k => (List.range 256).all fun b => l.any fun p => decide (p.1 = 256 * k + b) }

/-- The instance's operations that a complete cut covers: those issued before its injection (R228). -/
def EngineOp.coveredBy (o : EngineOp) (id cut : Nat) : Bool := decide (o.inst = id) && decide (o.cut ≤ cut)

/-- The operations after a complete cut: what it covers is released (R228). -/
def State.releaseOps (s : State) (id cut : Nat) : State :=
  { s with ops := amap s.ops fun _ o => if o.coveredBy id cut then { o with released := o.released || o.afterCommit } else o }

/-- A thread of the instance waits to publish, or a `bndry.sys` firing for the commit. -/
def State.wantsPublish (s : State) (i : Inst) : Bool := i.sheets.any fun sh => (s.thread sh i.ctx).publishing

/-- The next cut begins at once where a thread still waits to publish (log entry 127). -/
def State.wantNext (s : State) (id : Nat) (i : Inst) : State := if s.wantsPublish i then s.requestCut id else s

/-- The cut is complete (R312, R313): the proof buffers commit, what waits for the commit is performed (R226–R228), the area is
valid, and the counts start anew. A thread that has come to a publishing access since it was saved waits for the next cut, which begins at
once (log entry 127). -/
def State.completeCut (s : State) (id : Nat) (i : Inst) (area : Area) (locs : List Nat) : State :=
  let area := s.withChannels i.ctx { area with wide := area.wide ++ i.lateTokens area }
  let publishers := i.sheets.filter fun sh => (s.thread sh i.ctx).publishing && area.standsAt sh (s.thread sh i.ctx)
  let s := (s.commitCut id).commitNodes i
  let s := publishers.foldl (fun s sh => s.publishThread i sh) s
  let s := ((s.releaseOps id area.cut).trimPops id area).updDrover fun d => d.endReplay id
  let layver := (area.forme.map fun f => f.layver).getD 0
  let area := s.withPublished id i.ctx publishers area
  let body := s.areaBody i area
  let area := { area with
    time := BitVec.ofNat 64 s.time, layver := layver, crc := crc32c body, len := i.image.saveUnits, valid := true }
  let s := { s.deviceWrite (locs.zip (area.header ++ body)) with free := s.free + body.length }
  let s := s.updInst id fun i =>
    { i.dropBells with
      areaA := if area.cut % 2 = 0 then some area else i.areaA, areaB := if area.cut % 2 = 0 then i.areaB else some area,
      cutting := none, cutWanted := false, cutsDone := i.cutsDone + 1, rollbacks := 0, dupSeen := [], cutClock := s.time }
  s.wantNext id i

/-- The area that a cut is being written to holds no complete cut (R312). -/
def Inst.voidArea (i : Inst) (cut : Nat) : Inst := if cut % 2 = 0 then { i with areaA := none } else { i with areaB := none }

/-! ### Lasting faults (R319, R322) -/

/-- The bulkhead of a site: of an edge port, the receiving side's (R322). -/
def faultBh : FaultSite → Nat
  | .node n => bhOf n.sheet
  | .tileSwitch sheet _ => bhOf sheet
  | .edgePort sheet _ => bhOf sheet
  | .widePort sheet _ => bhOf sheet
  | .saveLine bh _ => bh
  | .proofBuffer bh => bh

/-- Faults of a kind at a site. -/
def NodeFault.same (f : NodeFault) (site : FaultSite) (check : Bool) : Bool := decide (f.site = site) && (f.check == check)

/-- A fault at a node is lasting: it recurs before the first cut after its rollback, or for the third time within 1,000 ms
(R319). -/
def State.lastingAt (s : State) (site : FaultSite) (check : Bool) : Bool :=
  let l := s.drover.nodeFaults.filter fun f => f.same site check
  (l.any fun f => !f.replay.isEmpty) || decide (2 ≤ l.countP fun f => s.recent f.time)

/-- A fault at a node is noted with the instances that it winds back. -/
def State.noteFault (s : State) (site : FaultSite) (check : Bool) (l : List Nat) : State :=
  s.updDrover fun d => { d with nodeFaults := { site := site, check := check, time := s.time, replay := l } :: d.nodeFaults }

/-- A machine fault: a lasting one retires the bulkhead (R322), any other winds back the instances it strikes (R314, R319). -/
def State.machineFault (s : State) (site : FaultSite) (check : Bool) (l : List Nat) : State :=
  let lasting := s.lastingAt site check
  let s := s.noteFault site check l
  if lasting then s.retireBh (faultBh site) else l.foldl State.beginRollback s

/-- A parity error on a token, a slug or a configuration packet (R314). -/
def execTokenParityError (id : Nat) (site : FaultSite) (s : State) : Result :=
  .next (if (aget? s.insts id).isSome then s.machineFault site false [id] else s)

/-- A site is one of an instance: it lies on its chase, or holds lines of its (R314, log entry 67). -/
def Inst.holdsAt (i : Inst) (site : FaultSite) : Bool :=
  match site with
  | .node n => i.sheets.contains n.sheet
  | .tileSwitch sheet _ | .edgePort sheet _ | .widePort sheet _ => i.sheets.contains sheet
  | .saveLine _ _ => false
  | .proofBuffer bh => i.heldLines.any fun l => decide (l.2 = bh)

/-- A parity or ECC error in the state of a node, or in a held proof-buffer line (R314). -/
def execNodeMachineCheck (site : FaultSite) (s : State) : Result :=
  .next (s.machineFault site true ((s.insts.filter fun p => p.2.holdsAt site).map Prod.fst))

/-- A cut is abandoned, since a line of its area cannot be written: a new one is requested at once into the same area; the same line
failing again is a lasting fault (R319, R323). -/
def State.abandonCut (s : State) (id : Nat) (i : Inst) (area : Area) (line : Nat) (locs : List Nat) : State :=
  let site : FaultSite := .saveLine (bhOf i.base) line
  let again := s.lastingAt site true
  let s := (s.noteFault site true [id]).setInst id { (i.voidArea area.cut).dropBells with cutting := none, late := [] }
  let s := s.deviceWrite (locs.zip { area with valid := false }.header)
  if again then s.retireBh (faultBh site) else s.requestCut id

/-- A cut completes when every part of it is written (R313), or is abandoned at a line that fails (R323); an area that cannot be reached ends
the launch (R337). -/
def execCutComplete (id : Nat) (failingLine : Option Nat) (s : State) : Result :=
  .next (match aget? s.insts id with
    | none => s
    | some i => match i.cutting with
      | none => s
      | some area =>
        if !(s.cutReady id i area) then s
        else match s.areaLocs i area.cut .write with
          | none => s.endLaunch id kDataLost 0
          | some locs => match failingLine with
            | some line => s.abandonCut id i area line locs
            | none => s.completeCut id i area locs)

/-! ### Restore (R315–R318) -/

/-- The newest complete cut (R315). -/
def Inst.newestArea (i : Inst) : Option Area :=
  match i.areaA.filter (·.valid), i.areaB.filter (·.valid) with
  | some a, some b => if a.cut < b.cut then some b else some a
  | some a, none => some a
  | none, b => b

/-- Nodes without the instance's context; its weight stores are empty (R315, R317). -/
def State.clearNodes (s : State) (i : Inst) : State :=
  let drop (v : Node) (w : Option WeightStore) : Option WeightStore :=
    w.filter fun w => decide (w.owner ≠ i.ctx) && v.running.isSome
  { s with nodes := amap s.nodes fun n v =>
      if i.sheets.contains n.sheet then
        let v := v.dropCtx i.ctx
        { v with ws0 := drop v v.ws0, ws1 := drop v v.ws1 }
      else v }

/-- Tokens and accesses of the instance are gone from tiles, ports, edges and the scoreboard (R311, R315). -/
def State.clearFabric (s : State) (id : Nat) (i : Inst) : State :=
  let here (n : Nat) : Bool := i.sheets.contains n
  let sheetOf (n : Nat) (sh : Sheet) : Sheet :=
    if here n then
      { sh with
        wide := sh.wide.filter fun p => decide (p.1.2 ≠ i.ctx),
        board := sh.board.filter fun r => r.node.isNone || decide (r.ctx ≠ i.ctx) }
    else sh
  { s with
    tiles := amap s.tiles fun k t => if here k.1 then t.dropCtx i.ctx else t,
    sheets := amap s.sheets sheetOf,
    drover := { s.drover with tags := s.drover.tags.filter fun p => !(p.2.who.isOf s id i.ctx i.sheets) } }

/-- Op words, headers and switch words of a configured tile reloaded from the image (R315). -/
def State.reloadTile (s : State) (i : Inst) (k tile : Nat) : State :=
  let sheet := i.sheets.getD k i.base
  let s := (i.image.nodesOf k tile).foldl (fun s n => s.configureNode i.image i.ctx sheet n) s
  let t := s.tile sheet tile
  s.setTile sheet tile { t with switch := t.switch.set i.ctx (i.image.switchWords i.base k tile) }

/-- A saved node put back, channel state behind its queues and in its parameter ports (R116, R310, R311). Op words and headers are
those that the restored layout has on the node. A bank that another context owns by now stays (log entry 31). -/
def State.restoreNode (s : State) (ctx : Nat) (v : NodeSave) : State :=
  let c := v.saved
  let paramOf (p : Nat × Token) : Option Nat := match c.headerFor p.2.slot.toNat with
    | some (k, h, _) => if portMode h p.1 = .stream 0 then some k else none
    | none => none
  let arrive (t : Token) : QToken := { tok := t, arrived := s.cycle, edge := 0 }
  let late (k : Nat) : List QToken :=
    (c.channel.filter fun p => decide (p.1 = k) && (paramOf p).isNone).map fun p => arrive p.2
  let param (h k : Nat) : Option QToken :=
    (((c.channel.filter fun p => decide (p.1 = k) && decide (paramOf p = some h)).getLast?).map fun p => arrive p.2).or
      ((c.params.get h).get k)
  let s := s.setNodeCtx v.node ctx { c with
    queues := Quad.ofFn fun k => c.queues.get k ++ late k, params := Quad.ofFn fun h => Quad.ofFn (param h), inject := Quad.all [], belled := [], saved := false, channel := [],
    stopped := [] }
  let n := s.node v.node
  let put (old : Bank) (b : Option Bank) : Bank := if old.owner.isNone then b.getD old else old
  let s := s.setNode v.node { n with
    retries := v.retries, acc0 := put n.acc0 v.acc0, acc1 := put n.acc1 v.acc1,
    running := n.running.or v.running, suspended := n.suspended ++ v.suspended }
  let t := s.tile v.node.sheet v.node.tile
  let s := s.setTile v.node.sheet v.node.tile { t with store := t.store ++ v.store }
  { s with mem := writeAll s.mem (v.slotBytes.map fun p => (sheetLoc v.node.sheet p.1, p.2)) }

/-- The entries of a galley as queue entries, with the bytes that their slots hold. -/
def State.ringEntries (s : State) (sheet : Nat) (g : Galley) : List QEntry :=
  g.held.map fun e =>
    let bs := match s.ringLoc sheet g e.j .read with
      | some loc => s.loadBytes e.inst loc 32
      | none => []
    { bytes := padBytes 32 bs, inst := e.inst, num := e.num, place := none }

/-- An entry stays when an instance rolls back to a cut: it was accepted before the cut, or another pushed it (R318). -/
def keepsEntry (id : Nat) (saved : Queue) (inst num : Nat) : Bool := decide (num < saved.pushes) || decide (inst ≠ id)

/-- Entries at the tail of a hardware queue of more than 32 go back to the galley places from which they came, while those are free
(R271, R318); the list is the hardware queue's, last first. -/
def Galley.takeBack (g : Galley) (l : List QEntry) : List QEntry × Galley :=
  match l with
  | [] => ([], g)
  | e :: r =>
    if l.length ≤ 32 then (l, g)
    else match e.place with
      | none => (l, g)
      | some (n, j) =>
        if n = g.set ∧ j < g.head ∧ g.next - j ≤ g.size then
          Galley.takeBack { g with held := { j := j, inst := e.inst, num := e.num } :: g.held } r
        else (l, g)

/-- Ring bytes in SS as the cut saved them, for the entries that stand in the same slots again (R318); those in DS and DM are as they were,
since the held lines are gone. -/
def State.restoreRing (s : State) (sheet : Nat) (g old : Galley) (ring : List Byte) : State :=
  let mine := g.held.filter fun e => g.set = old.set && old.held.any fun x => decide (x.num = e.num) && decide (x.j = e.j)
  match decodeAddr sheet false g.base.toNat with
  | some (.ss sh off) => { s with mem := writeAll s.mem (mine.map fun e =>
      (ssLoc sh off + 32 * (e.j % g.size), (ring.drop (32 * (e.j % g.size))).take 32)) }
  | _ => s

/-- A queue after a rollback (R318): what the instance popped since the cut is back at the head and what it pushed since is gone, each
entry in a galley stays in its slot, and a galley that is the instance's, now or at the cut, is set as it was. DESIGN CHOICE (log entry
40): where entries of another instance have taken the places meanwhile, the hardware queue holds more than 32 until they are
popped. -/
def State.restoreQueue (s : State) (id : Nat) (i : Inst) (sheet k : Nat) (saved : Queue) (ring : Option (List Byte)) : State :=
  let now := s.queue sheet k
  let keeps (e : QEntry) : Bool := keepsEntry id saved e.inst e.num
  let ours (g : Option Galley) : Bool := (g.map fun g => decide (g.owner = id)).getD false
  let galley := if ours saved.galley || ours now.galley then saved.galley else now.galley
  let same := decide (galley.map (·.set) = now.galley.map (·.set))
  let back := (now.popped.filter fun p => decide (p.inst = id) && decide (saved.pops ≤ p.seq)).map (·.entry)
  let moved := if same then [] else (now.galley.map fun g => s.ringEntries sheet g).getD []
  let l := (back ++ now.hw ++ moved).filter keeps
  let waiting := now.waiting.filter fun p => match p.pusher with
    | some (sh, c) => !(decide (c = i.ctx) && i.sheets.contains sh)
    | none => true
  let popped := now.popped.filter fun p => decide (p.inst ≠ id) || decide (p.seq < saved.pops)
  let q : Queue := { now with hw := l, galley := none, waiting := waiting, popped := popped }
  match galley with
  | none => s.setQueue sheet k q
  | some g =>
    let held := if same then (now.galley.map fun g => g.held.filter fun e => keepsEntry id saved e.inst e.num).getD [] else []
    let since := match saved.galley with
      | some o => if o.set = g.set then o.next else g.next
      | none => g.next
    let next := max since ((held.getLast?.map fun e => e.j + 1).getD 0)
    let r := Galley.takeBack { g with held := held, next := next } l.reverse
    let s := match saved.galley, ring with
      | some old, some bs => s.restoreRing sheet r.2 old bs
      | _, _ => s
    s.setQueue sheet k { q with hw := r.1.reverse, galley := some r.2 }

/-- A saved sheet put back (R311, R318): thread, spill, pop buffer, windows and the tiles' copies of lo, queues with their entries in
rings, keep ranges. -/
def State.restoreSheet (s : State) (id : Nat) (i : Inst) (v : SheetSave) : State :=
  let s := s.setThread v.sheet i.ctx v.thread
  let spill := match decodeAddr v.sheet false v.thread.rasBase.toNat with
    | some r => [(r.loc, v.spill.flatMap (wordBytes 8))]
    | none => []
  let s := { s with mem := writeAll s.mem (spill ++ (ssLoc v.sheet (popBuffer i.ctx), v.popBuffer) :: v.keep) }
  let s := s.setSheet v.sheet { s.sheet v.sheet with windows := (s.sheet v.sheet).windows.set i.ctx v.windows }
  let lo := v.windows.map fun w => ((i.ctx, w.1), w.2.lo)
  let s := { s with tiles := amap s.tiles fun k t => if i.sheets.contains k.1 then { t with lo := t.lo ++ lo } else t }
  let keys := (v.queues.map Prod.fst ++ (s.sheet v.sheet).queues.map Prod.fst).eraseDups
  keys.foldl (fun s k => s.restoreQueue id i v.sheet k (agetD v.queues k Queue.reset) (aget? v.rings k)) s

/-- No node that a firing is to be put back on runs one of another context. -/
def State.nodesFree (s : State) (i : Inst) (area : Area) : Bool :=
  area.nodes.all fun v => v.running.isNone || match (s.node v.node).running with
    | none => true
    | some f => decide (f.ctx = i.ctx)

/-- The log after a rollback to a cut: the events that the saved layout holds, in so far as later ones have not overwritten them (R28,
R315). -/
def Inst.logAt (i : Inst) (area : Area) : List LogEntry :=
  area.log.filter fun e => i.log.any fun x => decide ({ x with version := e.version } = e)

/-- The instance after step 5 of R315: layout, edges empty and on their ways in it, log without later events, timers restarted. -/
def Inst.restored (i : Inst) (area : Area) (f : FormeState) (now : Nat) : Inst :=
  Inst.reroute { i with
    forme := f, edges := amap i.edges fun _ e => { e with items := [], next := [], rewiring := none },
    tcalls := [], grants := [], changes := [], log := i.logAt area, held := [], heldLines := [], late := [], reports := [],
    openReport := none, frozen := false, stalled := false, thawing := [], restoring := false, watchdog := 0, cutClock := now,
    cutWanted := i.cutWanted || area.nodes.any fun v => (v.running.map fun f => decide (f.wait = .publish)).getD false }

/-- The tokens that a cut saved with a wide port wait there again. -/
def State.restoreWide (s : State) (ctx : Nat) (l : List (Nat × Nat × Token)) : State :=
  l.foldl (fun s p =>
    let sh := s.sheet p.1
    let key := (p.2.1, ctx)
    s.setSheet p.1 { sh with wide := aset sh.wide key (agetD sh.wide key [] ++ [.token p.2.2 s.cycle]) }) s

/-- Steps 4 to 7 of R315. A rewiring that the cut saved as incomplete starts anew: its slugs go out on the empty edges (R223;
DESIGN CHOICE, log entry 120). -/
def State.restoreArea (s : State) (id : Nat) (i : Inst) (area : Area) (f : FormeState) : State :=
  let s := (s.clearFabric id i).clearNodes i
  let s := i.configured.foldl (fun s k => s.reloadTile i (i.indexOf k.1) k.2) s
  let s := area.nodes.foldl (fun s v => s.restoreNode i.ctx v) s
  let s := (area.sheets.foldl (fun s v => s.restoreSheet id i v) s).restoreWide i.ctx area.wide
  let resumed : Assoc Nat Stream := amap area.streams fun _ x => { x with stall := none, invalid := false, ahead := [] }
  let others := s.streams.filter fun p => decide (p.2.inst ≠ id)
  let s := { s with streams := others ++ resumed }
  let s := s.setInst id (area.incomplete.foldl Inst.startChange (i.restored area f s.time))
  s.writeRank id (i.restored area f s.time) f.rank

/-- An area as it is read back from DM; none where a line of it shows an uncorrectable error or the CRC of its header does not match
(R315, R324). -/
def State.readArea (s : State) (i : Inst) (a : Area) : Option Area :=
  match s.areaLocs i a.cut .read with
  | none => none
  | some locs =>
    let bs := locs.map s.mem.get
    let body := bs.drop 64
    if locs.any s.isPoisoned || decide ((crc32c body).toNat ≠ bitsOf (leNat (bs.take 64)) 352 32) then none else some (a.withBody body)

/-- The restore is done and the instance replays (R315); an area that fails ends the launch (R324, R337). -/
def execRollbackRestoreDone (id : Nat) (areaFails : Bool) (s : State) : Result :=
  .next (match aget? s.insts id with
    | none => s
    | some i =>
      if !i.restoring then s
      else if areaFails then s.endLaunch id kDataLost 0
      else match i.newestArea.bind fun a => s.readArea i a with
        | none => s.endLaunch id kDataLost 0
        | some area => match area.forme with
          | none => s.endLaunch id kDataLost 0
          | some f => if s.nodesFree i area then s.restoreArea id i area f else s)

end Sys2Proof.Machine
end

