-- ==== Sys2Proof/Machine/SeqAlu.lean ====
section
/-! DEFINITION. Sequencer integer arithmetic (R86) and immediates (R87). g0 reads zero and a write to it is discarded
(R29); nothing traps. -/

namespace Sys2Proof.Machine

/-- s(a) ÷ s(b) truncated toward zero; all ones for a zero divisor, −2^63 for −2^63 ÷ −1 (R86). -/
def divSigned (a b : Word) : Word := if b = 0 then BitVec.allOnes 64 else BitVec.ofInt 64 (a.toInt.tdiv b.toInt)

/-- u(a) ÷ u(b); all ones for a zero divisor (R86). -/
def divUnsigned (a b : Word) : Word := if b = 0 then BitVec.allOnes 64 else BitVec.ofNat 64 (a.toNat / b.toNat)

/-- The signed remainder with the sign of a; a for a zero divisor (R86). -/
def remSigned (a b : Word) : Word := if b = 0 then a else BitVec.ofInt 64 (a.toInt.tmod b.toInt)

/-- The unsigned remainder; a for a zero divisor (R86). -/
def remUnsigned (a b : Word) : Word := if b = 0 then a else BitVec.ofNat 64 (a.toNat % b.toNat)

/-- Leading zero bits, 64 for 0 (R86). -/
def leadingZeros (a : Word) : Nat := if a = 0 then 64 else 63 - a.toNat.log2

/-- One bits (R86). -/
def oneBits (a : Word) : Nat := ((List.range 64).filter fun k => a.getLsbD k).length

/-- The low six bits, a shift amount (R86). -/
def shiftOf (b : Word) : Nat := b.toNat % 64

/-- An immediate, sign-extended (R87). -/
def sext16 (i : BitVec 16) : Word := i.signExtend 64

/-- An immediate, zero-extended (R87). -/
def zext16 (i : BitVec 16) : Word := i.setWidth 64

/-- `add` (R86). -/
def execAdd (d a b : Reg) (s : State) : Result := .next (s.writeNext d (s.reg a + s.reg b))

/-- `sub` (R86). -/
def execSub (d a b : Reg) (s : State) : Result := .next (s.writeNext d (s.reg a - s.reg b))

/-- `and` (R86). -/
def execAnd (d a b : Reg) (s : State) : Result := .next (s.writeNext d (s.reg a &&& s.reg b))

/-- `or` (R86). -/
def execOr (d a b : Reg) (s : State) : Result := .next (s.writeNext d (s.reg a ||| s.reg b))

/-- `xor` (R86). -/
def execXor (d a b : Reg) (s : State) : Result := .next (s.writeNext d (s.reg a ^^^ s.reg b))

/-- `shl` by the low six bits of gb (R86). -/
def execShl (d a b : Reg) (s : State) : Result := .next (s.writeNext d (s.reg a <<< shiftOf (s.reg b)))

/-- `shr` (R86). -/
def execShr (d a b : Reg) (s : State) : Result := .next (s.writeNext d (s.reg a >>> shiftOf (s.reg b)))

/-- `sra`, sign-filled (R86). -/
def execSra (d a b : Reg) (s : State) : Result := .next (s.writeNext d ((s.reg a).sshiftRight (shiftOf (s.reg b))))

/-- `mul`: the low 64 bits (R86). -/
def execMul (d a b : Reg) (s : State) : Result := .next (s.writeNext d (s.reg a * s.reg b))

/-- `mulh`: the high 64 bits of the signed product (R86). -/
def execMulh (d a b : Reg) (s : State) : Result := .next (s.writeNext d (BitVec.ofInt 64 ((s.reg a).toInt * (s.reg b).toInt / 2 ^ 64)))

/-- `mulhu`: the high 64 bits of the unsigned product (R86). -/
def execMulhu (d a b : Reg) (s : State) : Result := .next (s.writeNext d (BitVec.ofNat 64 ((s.reg a).toNat * (s.reg b).toNat / 2 ^ 64)))

/-- `div` (R86). -/
def execDiv (d a b : Reg) (s : State) : Result := .next (s.writeNext d (divSigned (s.reg a) (s.reg b)))

/-- `divu` (R86). -/
def execDivu (d a b : Reg) (s : State) : Result := .next (s.writeNext d (divUnsigned (s.reg a) (s.reg b)))

/-- `rem` (R86). -/
def execRem (d a b : Reg) (s : State) : Result := .next (s.writeNext d (remSigned (s.reg a) (s.reg b)))

/-- `remu` (R86). -/
def execRemu (d a b : Reg) (s : State) : Result := .next (s.writeNext d (remUnsigned (s.reg a) (s.reg b)))

/-- `min`, signed (R86). -/
def execMin (d a b : Reg) (s : State) : Result := .next (s.writeNext d (if condLt (s.reg b) (s.reg a) then s.reg b else s.reg a))

/-- `max`, signed (R86). -/
def execMax (d a b : Reg) (s : State) : Result := .next (s.writeNext d (if condLt (s.reg a) (s.reg b) then s.reg b else s.reg a))

/-- `minu`, unsigned (R86). -/
def execMinu (d a b : Reg) (s : State) : Result := .next (s.writeNext d (if condLtu (s.reg b) (s.reg a) then s.reg b else s.reg a))

/-- `maxu`, unsigned (R86). -/
def execMaxu (d a b : Reg) (s : State) : Result := .next (s.writeNext d (if condLtu (s.reg a) (s.reg b) then s.reg b else s.reg a))

/-- `slt` (R86). -/
def execSlt (d a b : Reg) (s : State) : Result := .next (s.writeNext d (boolWord (condLt (s.reg a) (s.reg b))))

/-- `sltu` (R86). -/
def execSltu (d a b : Reg) (s : State) : Result := .next (s.writeNext d (boolWord (condLtu (s.reg a) (s.reg b))))

/-- `clz` (R86). -/
def execClz (d a : Reg) (s : State) : Result := .next (s.writeNext d (BitVec.ofNat 64 (leadingZeros (s.reg a))))

/-- `popc` (R86). -/
def execPopc (d a : Reg) (s : State) : Result := .next (s.writeNext d (BitVec.ofNat 64 (oneBits (s.reg a))))

/-- `addi` (R87). -/
def execAddi (d a : Reg) (i : BitVec 16) (s : State) : Result := .next (s.writeNext d (s.reg a + sext16 i))

/-- `andi` (R87). -/
def execAndi (d a : Reg) (i : BitVec 16) (s : State) : Result := .next (s.writeNext d (s.reg a &&& zext16 i))

/-- `ori` (R87). -/
def execOri (d a : Reg) (i : BitVec 16) (s : State) : Result := .next (s.writeNext d (s.reg a ||| zext16 i))

/-- `xori` (R87). -/
def execXori (d a : Reg) (i : BitVec 16) (s : State) : Result := .next (s.writeNext d (s.reg a ^^^ zext16 i))

/-- `slti` (R87). -/
def execSlti (d a : Reg) (i : BitVec 16) (s : State) : Result := .next (s.writeNext d (boolWord (condLt (s.reg a) (sext16 i))))

/-- `shli` (R87). -/
def execShli (d a : Reg) (sh : BitVec 6) (s : State) : Result := .next (s.writeNext d (s.reg a <<< sh.toNat))

/-- `shri` (R87). -/
def execShri (d a : Reg) (sh : BitVec 6) (s : State) : Result := .next (s.writeNext d (s.reg a >>> sh.toNat))

/-- `srai` (R87). -/
def execSrai (d a : Reg) (sh : BitVec 6) (s : State) : Result := .next (s.writeNext d ((s.reg a).sshiftRight sh.toNat))

/-- `lui`: the immediate in bits 31:16, every other bit zero (R87). -/
def execLui (d : Reg) (i : BitVec 16) (s : State) : Result := .next (s.writeNext d (zext16 i <<< 16))

end Sys2Proof.Machine
end

