-- ==== Sys2Proof/Machine/Shared.lean ====
section
/-! DEFINITION. Loss at rest as the scrubbers find it (R325, R326), the resumption of an `mm` (R163, R327), and faults of
the units that bulkheads share (R296, R328). -/

namespace Sys2Proof.Machine

/-! ### The scrubbers (R325, R326) -/

/-- The bulkhead in whose scratch a location lies. -/
def scratchBh (loc : Nat) : Option Nat := (List.range 64).find? fun b => inScratch b loc

/-- The event of a loss at rest (R345). -/
def lossEvent (addr tenant : Nat) : EventRec :=
  { kind := 5, fault := kDataLost.setWidth 7, tag := 0, a := 0, b := BitVec.ofNat 64 addr, c := BitVec.ofNat 64 tenant }

/-- A corrected single-bit error counted: per bulkhead, per HBM stack, or of FM per CXL port (R325). -/
def State.countCorrected (s : State) (loc : Nat) : State :=
  match scratchBh loc with
  | some b => s.setBulkhead b { s.bulkhead b with corrected := (s.bulkhead b).corrected + 1 }
  | none => match frameOf loc with
    | none => s
    | some f =>
      let unit := if isFm loc then 12 + ((s.package.expander.find? fun x => decide (x.first ≤ f) && decide (f < x.first + x.frames)).map
        fun x => x.port).getD 0 else f / 64
      s.updPackage fun p => { p with stackErrors := aset p.stackErrors unit (agetD p.stackErrors unit 0 + 1) }

/-- An SRAM line written with zeros and its tag (R326). -/
def State.blankLine (s : State) (line : Nat) : State :=
  ({ s with
    mem := s.mem.clear (256 * line) (256 * line + 256),
    images := s.images.filter fun p => decide (p.1 < 256 * line) || decide (256 * line + 256 ≤ p.1) } : State).updPackage
    fun p => { p with faulty := p.faulty.filter fun q => decide (q.1 ≠ line) }

/-- An SRAM line of a bulkhead is lost (R326): the launches of its tenant there end, or its VFs are told; the line is zero again,
or the bulkhead is retired. -/
def State.loseScratch (s : State) (bh loc : Nat) (readBackFails : Bool) : State :=
  let tenant := s.lineTag loc bh
  let line := loc / 256 * 256
  let hit := (s.insts.filter fun p => decide (p.2.tenant = tenant) && p.2.bulkheads.contains bh).map Prod.fst
  let s := if hit.isEmpty then s.tellTenant tenant (lossEvent line tenant) else s.endLaunches hit kDataLost
  let s := s.blankLine (line / 256)
  if readBackFails then s.retireBh bh else s

/-- The tenant whose tag a frame carries. -/
def State.frameTenant (s : State) (p : Nat) : Nat := bitsOf (agetD s.drover.frames ((frameOf p).getD 0) 0).toNat 0 7

/-- A line of DM or FM is lost: it is poisoned, and the tenant of the frame is told (R326, R345). -/
def State.losePhysical (s : State) (p : Nat) : State :=
  let line := p / 256
  let s := s.updPackage fun x => { x with
    poisoned := if x.poisoned.contains line then x.poisoned else line :: x.poisoned,
    faulty := x.faulty.filter fun q => decide (q.1 ≠ line) }
  s.tellTenant (s.frameTenant p) (lossEvent (256 * line) (s.frameTenant p))

/-- The line at a location is lost at rest (R326). -/
def State.loseLine (s : State) (loc : Nat) (readBackFails : Bool) : State :=
  match scratchBh loc with
  | some b => s.loseScratch b loc readBackFails
  | none => if (frameOf loc).isSome then s.losePhysical loc else s

/-- A scrubber reads a line, or an error arises in it that nothing has read yet (R325, R326). -/
def execScrubLine (loc : Nat) (find : ScrubFind) (s : State) : Result :=
  .next (match find with
    | .clean => s
    | .single => s.countCorrected loc
    | .lost readBackFails => s.loseLine loc readBackFails
    | .arises readBackFails => s.updPackage fun p =>
      { p with faulty := (loc / 256, readBackFails) :: p.faulty.filter fun q => decide (q.1 ≠ loc / 256) })

/-- Lines whose errors agents have met are treated as lost at rest (R326). -/
def State.loseMet (s : State) : State :=
  let l := s.package.met
  l.foldl (fun s p => s.loseLine (256 * p.1) p.2) (s.updPackage fun p => { p with met := [] })

/-! ### A suspended `mm` resumes (R163, R327) -/

/-- The lines of a firing's save slot that have an uncorrectable error, each with whether its read-back fails. -/
def State.slotFaults (s : State) (n : NodeId) (f : Firing) : List (Nat × Bool) :=
  let first := sheetLoc n.sheet (s.nodeCtx n f.ctx).saveSlot
  s.package.faulty.filter fun p => decide (first / 256 ≤ p.1) && decide (p.1 ≤ (first + 32831) / 256)

/-- An error met on reading a save slot: its lines are scrubbed, and the instance rolls back; a line whose read-back fails retires the
bulkhead (R326, R327). -/
def State.loseSlot (s : State) (n : NodeId) (f : Firing) (l : List (Nat × Bool)) : State :=
  let s := l.foldl (fun s p => s.blankLine p.1) s
  if l.any fun p => p.2 then s.retireBh (bhOf n.sheet)
  else match s.instAt n.sheet f.ctx with
    | some (id, _) => s.beginRollback id
    | none => s

/-- A suspended `mm` resumes: bank from the slot, store loaded anew where another context owns it, record no longer valid
(R163); unless the slot has an uncorrectable error (R327). -/
def execMmResume (n : NodeId) (s : State) : Result :=
  .next (match s.resumeDue n with
    | none => s
    | some (f, c) =>
      let l := s.slotFaults n f
      if !l.isEmpty then s.loseSlot n f l
      else
        let at_ := sheetLoc n.sheet (s.nodeCtx n f.ctx).saveSlot
        let record := s.slotRecord n f.ctx
        let v := (s.node n).setBank c.bank (bankOf (s.mem.read at_ 0x8000) f.ctx)
        let s := s.setNode n { v with running := some f, suspended := v.suspended.erase f }
        let s := if s.keepsStore n f c then s else s.loadStore n f.ctx c.store (bitsOf record 48 21) (bitsOf record 40 2)
        let clear : Byte := (s.mem.get (at_ + 0x8000 + 13)) &&& 0xFE
        { s with mem := s.mem.set (at_ + 0x8000 + 13) clear })

/-! ### Shared units (R296, R328) -/

/-- The package asks to be replaced (R322, R328). -/
def State.askReplace (s : State) : State := s.updPackage fun p => { p with replace := true }

/-- The tenants with valid frames on an HBM stack (R296). -/
def State.stackTenants (s : State) (stack : Nat) : List Nat :=
  ((s.drover.frames.filter fun p => decide (p.1 / 64 = stack) && p.2.getLsbD 7).map fun p => bitsOf p.2.toNat 0 7).eraseDups

/-- An HBM stack is lost: launches of tenants with frames on it end, its frames become invalid, and its lines are poisoned. -/
def State.loseStack (s : State) (stack : Nat) : State :=
  let s := (s.stackTenants stack).foldl (fun s t => s.endTenant t kDataLost) s
  let s := s.updDrover fun d => { d with frames := amap d.frames fun f e => if f / 64 = stack then e &&& 0x7F else e }
  (s.updPackage fun p => { p with lostStacks := if p.lostStacks.contains stack then p.lostStacks else stack :: p.lostStacks }).askReplace

/-- The operations in flight at an engine. -/
def State.inFlight (s : State) (e : Nat × Nat × Nat) : List Nat :=
  (s.ops.filter fun p => decide (s.engineFor p.2 = e) && p.2.started && p.2.status.isNone).map Prod.fst

/-- A fault of an engine: operations in flight end with DATA_LOST; a lasting one disables it, and its messages go to the next of its
class. -/
def State.engineFault (s : State) (e : Nat × Nat × Nat) (lasting : Bool) : State :=
  let s := s.endOps (s.inFlight e) stLost
  if lasting then (s.updDrover fun d => { d with disabledEngines := e :: d.disabledEngines }).askReplace else s

/-- Every launch on a die ends (R328): placed there, or in its queue. -/
def State.loseDie (s : State) (die : Nat) : State :=
  let on (x : Slice) : Bool := match x.inst.bind fun id => aget? s.insts id with
    | some i => i.sheets.any fun sh => decide (sh / 64 = die)
    | none => decide (x.die = die)
  ((s.slices.filter fun p => on p.2).map Prod.fst).foldl (fun s k => s.endSlice k 2 0 kDataLost 0) s

/-- Expanders are lost: the FM frames behind them become invalid (R328). -/
def State.loseExpanders (s : State) (lost : Expander → Bool) : State :=
  (s.package.expander.filter lost).foldl (fun s x => s.loseFrames x.first x.frames true) s

/-- The Transient column of R328: what a fault of a unit does in any case. -/
def State.faultTransient (s : State) (u : SharedUnit) : State :=
  match u with
  | .copyEngine die k => s.engineFault (0, die, k) false
  | .compositor die k => s.engineFault (1, die, k) false
  | .linkEngine die k => s.engineFault (2, die, k) false
  | .secondaryDrover die => s.loseDie die
  | .primaryDrover => (List.range 4).foldl State.loseDie s
  | .hostLink k => s.updPackage fun p => { p with linkUp := p.linkUp.set k false }
  | .hbmStack _ | .cxlPort _ | .expander _ _ | .spanPort _ | .spineRouter _ | .spineLink _ _ => s

/-- The Lasting column of R328, but for what attaches to a router. -/
def State.faultLasting (s : State) (u : SharedUnit) : State :=
  match u with
  | .hbmStack k => s.loseStack k
  | .cxlPort p => s.loseExpanders fun x => decide (x.port = p)
  | .expander p half => s.loseExpanders fun x => decide (x.port = p) && decide (x.half = half)
  | .copyEngine die k => s.engineFault (0, die, k) true
  | .compositor die k => s.engineFault (1, die, k) true
  | .linkEngine die k => s.engineFault (2, die, k) true
  | .spanPort p => s.disablePort p
  | .spineRouter bh => ((s.updDrover fun d => { d with disabledRouters := bh :: d.disabledRouters }).retireBh bh).askReplace
  | .spineLink bh dir => (s.updDrover fun d => { d with disabledLinks := (bh, dir) :: d.disabledLinks }).askReplace
  | .secondaryDrover _ | .primaryDrover => s.askReplace
  | .hostLink k => s.send (.down k)

/-- The units that attach to the routers at the die edges: HBM controllers, engines, Span ports (R258). -/
def edgeUnits : List SharedUnit :=
  (List.range 12).map .hbmStack ++ (List.range 16).map .spanPort ++
  (List.range 4).flatMap fun die =>
    (List.range 8).map (.copyEngine die) ++ (List.range 4).map (.compositor die) ++ (List.range 4).map (.linkEngine die)

/-- The routers at the edge of a die's 4 × 4 grid, router (x, y) being 4·y + x (R258). -/
def edgeRouters : List Nat := [0, 1, 2, 3, 4, 7, 8, 11, 12, 13, 14, 15]

/-- The die that an edge unit stands on: a stack's by its frames (R334), an engine's own; of a Span port no rule names it (Config.routerOf,
log entry 70). -/
def edgeDie (u : SharedUnit) : Nat :=
  match u with
  | .hbmStack k => k / 3
  | .copyEngine die _ | .compositor die _ | .linkEngine die _ => die
  | _ => Config.routerOf u / 12 % 4

/-- The router that an edge unit attaches to: one at the edge of its die (R258; which of the twelve is left open, log entry 70). -/
def attachedRouter (u : SharedUnit) : Nat := 16 * edgeDie u + edgeRouters.getD (Config.routerOf u % 12) 0

/-- What a lasting fault of a unit disables with it: of a router, the units that attach to it (R328). -/
def unitsWith (u : SharedUnit) : List SharedUnit :=
  match u with
  | .spineRouter bh => edgeUnits.filter fun x => decide (attachedRouter x = bh)
  | _ => []

/-- A fault in a shared unit. It is lasting where it strikes again as the unit takes up its work once more, which is what stands for the
replay of R319 at a unit that no rollback concerns (DEDUCED, log entry 70), or for the third time within 1,000 ms (R319, R328). -/
def execSharedUnitFault (u : SharedUnit) (again : Bool) (s : State) : Result :=
  .next (match (s.faultTransient u).noteUnitFault u with
    | (s, third) => if again || third then (unitsWith u).foldl State.faultLasting (s.faultLasting u) else s)

end Sys2Proof.Machine
end

