-- ==== Sys2Proof/Machine/Dispatch.lean ====
section
/-! DEFINITION. What each instruction, op word, engine operation and event does: one arm per constructor, each a call of
its meaning. -/

namespace Sys2Proof.Machine

open Sys2Proof

/-- The meaning of an instruction. -/
def exec (i : Instr) (s : State) : Host.Outcome State Fault Refusal :=
  match i with
  -- the register ALU, major 0x01 (R60, R86)
  | .add d a b => Sys2Proof.Machine.execAdd d a b s
  | .sub d a b => Sys2Proof.Machine.execSub d a b s
  | .and d a b => Sys2Proof.Machine.execAnd d a b s
  | .or d a b => Sys2Proof.Machine.execOr d a b s
  | .xor d a b => Sys2Proof.Machine.execXor d a b s
  | .shl d a b => Sys2Proof.Machine.execShl d a b s
  | .shr d a b => Sys2Proof.Machine.execShr d a b s
  | .sra d a b => Sys2Proof.Machine.execSra d a b s
  | .mul d a b => Sys2Proof.Machine.execMul d a b s
  | .mulh d a b => Sys2Proof.Machine.execMulh d a b s
  | .mulhu d a b => Sys2Proof.Machine.execMulhu d a b s
  | .div d a b => Sys2Proof.Machine.execDiv d a b s
  | .divu d a b => Sys2Proof.Machine.execDivu d a b s
  | .rem d a b => Sys2Proof.Machine.execRem d a b s
  | .remu d a b => Sys2Proof.Machine.execRemu d a b s
  | .min d a b => Sys2Proof.Machine.execMin d a b s
  | .max d a b => Sys2Proof.Machine.execMax d a b s
  | .minu d a b => Sys2Proof.Machine.execMinu d a b s
  | .maxu d a b => Sys2Proof.Machine.execMaxu d a b s
  | .slt d a b => Sys2Proof.Machine.execSlt d a b s
  | .sltu d a b => Sys2Proof.Machine.execSltu d a b s
  | .clz d a => Sys2Proof.Machine.execClz d a s
  | .popc d a => Sys2Proof.Machine.execPopc d a s
  -- immediates (R58, R87)
  | .addi d a imm => Sys2Proof.Machine.execAddi d a imm s
  | .andi d a imm => Sys2Proof.Machine.execAndi d a imm s
  | .ori d a imm => Sys2Proof.Machine.execOri d a imm s
  | .xori d a imm => Sys2Proof.Machine.execXori d a imm s
  | .slti d a imm => Sys2Proof.Machine.execSlti d a imm s
  | .shli d a sh => Sys2Proof.Machine.execShli d a sh s
  | .shri d a sh => Sys2Proof.Machine.execShri d a sh s
  | .srai d a sh => Sys2Proof.Machine.execSrai d a sh s
  | .lui d imm => Sys2Proof.Machine.execLui d imm s
  -- branches, jumps, calls (R88, R89)
  | .beq a b o => Sys2Proof.Machine.execBeq a b o s
  | .bne a b o => Sys2Proof.Machine.execBne a b o s
  | .blt a b o => Sys2Proof.Machine.execBlt a b o s
  | .bge a b o => Sys2Proof.Machine.execBge a b o s
  | .bltu a b o => Sys2Proof.Machine.execBltu a b o s
  | .bgeu a b o => Sys2Proof.Machine.execBgeu a b o s
  | .jmp o => Sys2Proof.Machine.execJmp o s
  | .jr a => Sys2Proof.Machine.execJr a s
  | .call o => Sys2Proof.Machine.execCall o s
  | .callr a => Sys2Proof.Machine.execCallr a s
  | .loop a o => Sys2Proof.Machine.execLoop a o s
  -- memory pairs (R62, R91) and the fence (R94)
  | .ld d a off wd ord sc => Sys2Proof.Machine.execLd d a off wd ord sc s
  | .st d a off wd ord sc => Sys2Proof.Machine.execSt d a off wd ord sc s
  | .amo d a b off wd ord sc fn => Sys2Proof.Machine.execAmo d a b off wd ord sc fn s
  | .cas d a b off wd ord sc => Sys2Proof.Machine.execCas d a b off wd ord sc s
  | .fence sc => Sys2Proof.Machine.execFence sc s
  -- streams (R64, R96–R102)
  | .dset n a => Sys2Proof.Machine.execDset n a s
  | .strin k n x => Sys2Proof.Machine.execStrin k n x s
  | .strout k n x => Sys2Proof.Machine.execStrout k n x s
  | .bsel a => Sys2Proof.Machine.execBsel a s
  | .scancel x => Sys2Proof.Machine.execScancel x s
  -- engine messages (R103, R104)
  | .amsg a f => Sys2Proof.Machine.execAmsg a f s
  | .await d a => Sys2Proof.Machine.execAwait d a s
  | .apoll d a => Sys2Proof.Machine.execApoll d a s
  -- queues (R105–R109)
  | .qpush k a b => Sys2Proof.Machine.execQpush k a b s
  | .qpop d k => Sys2Proof.Machine.execQpop d k s
  | .qcnt d k => Sys2Proof.Machine.execQcnt d k s
  | .qctl k a b => Sys2Proof.Machine.execQctl k a b s
  | .qbind k o => Sys2Proof.Machine.execQbind k o s
  | .xq d a b => Sys2Proof.Machine.execXq d a b s
  -- forme control (R110, R111)
  | .fload d a => Sys2Proof.Machine.execFload d a s
  | .fplace d a b => Sys2Proof.Machine.execFplace d a b s
  | .frun a => Sys2Proof.Machine.execFrun a s
  | .flay d a => Sys2Proof.Machine.execFlay d a s
  -- barriers and events (R112)
  | .bar a => Sys2Proof.Machine.execBar a s
  | .evsig a b => Sys2Proof.Machine.execEvsig a b s
  | .evwait d a => Sys2Proof.Machine.execEvwait d a s
  -- control registers and system (R113, R114)
  | .csrr d c => Sys2Proof.Machine.execCsrr d c s
  | .csrw a c => Sys2Proof.Machine.execCsrw a c s
  | .trap c => Sys2Proof.Machine.execTrap c s
  -- sequencer events
  | .waitingInstructionRetire sheet ctx => Sys2Proof.Machine.execWaitingInstructionRetire sheet ctx s
  | .handlerInvocation sheet ctx => Sys2Proof.Machine.execHandlerInvocation sheet ctx s
  | .queuePushAccept sheet q => Sys2Proof.Machine.execQueuePushAccept sheet q s
  | .galleyRefill sheet q => Sys2Proof.Machine.execGalleyRefill sheet q s
  -- element op words (R67–R69, R124–R140)
  | .elemAdd a b d n sat e => Sys2Proof.Machine.execElemAdd a b d n sat e s
  | .elemSub a b d n sat e => Sys2Proof.Machine.execElemSub a b d n sat e s
  | .elemMul a b d n sat e => Sys2Proof.Machine.execElemMul a b d n sat e s
  | .fma a b c d n sat e => Sys2Proof.Machine.execFma a b c d n sat e s
  | .elemMin a b d n e => Sys2Proof.Machine.execElemMin a b d n e s
  | .elemMax a b d n e => Sys2Proof.Machine.execElemMax a b d n e s
  | .abs a d n e => Sys2Proof.Machine.execAbs a d n e s
  | .neg a d n e => Sys2Proof.Machine.execNeg a d n e s
  | .elemShl a b d n sat e => Sys2Proof.Machine.execElemShl a b d n sat e s
  | .elemShr a b d n e => Sys2Proof.Machine.execElemShr a b d n e s
  | .elemSra a b d n e => Sys2Proof.Machine.execElemSra a b d n e s
  | .elemAnd a b d n e => Sys2Proof.Machine.execElemAnd a b d n e s
  | .elemOr a b d n e => Sys2Proof.Machine.execElemOr a b d n e s
  | .elemXor a b d n e => Sys2Proof.Machine.execElemXor a b d n e s
  | .not a d n e => Sys2Proof.Machine.execNot a d n e s
  | .cmp a b d n cc e => Sys2Proof.Machine.execCmp a b d n cc e s
  | .sel a b c d n e => Sys2Proof.Machine.execSel a b c d n e s
  | .mov a d n e => Sys2Proof.Machine.execMov a d n e s
  | .const d n tag e imm => Sys2Proof.Machine.execConst d n tag e imm s
  | .exp2 a d n e => Sys2Proof.Machine.execExp2 a d n e s
  | .log2 a d n e => Sys2Proof.Machine.execLog2 a d n e s
  | .rcp a d n e => Sys2Proof.Machine.execRcp a d n e s
  | .rsq a d n e => Sys2Proof.Machine.execRsq a d n e s
  | .sqrt a d n e => Sys2Proof.Machine.execSqrt a d n e s
  | .pack a b d n e => Sys2Proof.Machine.execPack a b d n e s
  | .unpack a b d n e => Sys2Proof.Machine.execUnpack a b d n e s
  | .lane a d n l e => Sys2Proof.Machine.execLane a d n l e s
  | .bcast a d n e => Sys2Proof.Machine.execBcast a d n e s
  | .ctxalloc a d n e => Sys2Proof.Machine.execCtxalloc a d n e s
  | .ctxfree a d n e => Sys2Proof.Machine.execCtxfree a d n e s
  | .colourWidthChange inst colour => Sys2Proof.Machine.execColourWidthChange inst colour s
  | .itin a d n e => Sys2Proof.Machine.execItin a d n e s
  | .itnext a d n e => Sys2Proof.Machine.execItnext a d n e s
  | .itout a d n e => Sys2Proof.Machine.execItout a d n e s
  | .loUpdateArrival sheet tile ctx colour => Sys2Proof.Machine.execLoUpdateArrival sheet tile ctx colour s
  | .tcall a b d n e => Sys2Proof.Machine.execTcall a b d n e s
  | .tret a b d n e => Sys2Proof.Machine.execTret a b d n e s
  | .setslot a b d e => Sys2Proof.Machine.execSetslot a b d e s
  | .steer a b d n e => Sys2Proof.Machine.execSteer a b d n e s
  | .merge a b d n e => Sys2Proof.Machine.execMerge a b d n e s
  | .omerge a b d n e => Sys2Proof.Machine.execOmerge a b d n e s
  | .gate a b d n e => Sys2Proof.Machine.execGate a b d n e s
  | .fan a n e => Sys2Proof.Machine.execFan a n e s
  | .sink a e => Sys2Proof.Machine.execSink a e s
  | .acc a b d n e => Sys2Proof.Machine.execAcc a b d n e s
  | .scan a b d n e => Sys2Proof.Machine.execScan a b d n e s
  | .delay a b e => Sys2Proof.Machine.execDelay a b e s
  | .rowms a b c d n e => Sys2Proof.Machine.execRowms a b c d n e s
  | .rowfin a b d n e => Sys2Proof.Machine.execRowfin a b d n e s
  | .rowscl a b c d n e => Sys2Proof.Machine.execRowscl a b c d n e s
  -- address generator (R141–R145)
  | .ldt a d n tag e => Sys2Proof.Machine.execLdt a d n tag e s
  | .stt a b e => Sys2Proof.Machine.execStt a b e s
  | .ldx a b d n tag e => Sys2Proof.Machine.execLdx a b d n tag e s
  | .stx a b c e => Sys2Proof.Machine.execStx a b c e s
  | .amox a b c d n fn e => Sys2Proof.Machine.execAmox a b c d n fn e s
  | .tmove a d n e => Sys2Proof.Machine.execTmove a d n e s
  | .bndry a d n sc e => Sys2Proof.Machine.execBndry a d n sc e s
  -- converter (R147–R149)
  | .cvt a d n sat tag e => Sys2Proof.Machine.execCvt a d n sat tag e s
  | .cvtq a d n target e => Sys2Proof.Machine.execCvtq a d n target e s
  | .cvts a d n sat tag e => Sys2Proof.Machine.execCvts a d n sat tag e s
  -- plane array (R155–R163)
  | .wsload a e => Sys2Proof.Machine.execWsload a e s
  | .mm a b d n e => Sys2Proof.Machine.execMm a b d n e s
  | .accrd a d n sat e => Sys2Proof.Machine.execAccrd a d n sat e s
  | .acczero a e => Sys2Proof.Machine.execAcczero a e s
  | .mmInterrupt n => Sys2Proof.Machine.execMmInterrupt n s
  | .mmResume n => Sys2Proof.Machine.execMmResume n s
  -- front element (R164–R171)
  | .fcfg a e => Sys2Proof.Machine.execFcfg a e s
  | .fins a b c e => Sys2Proof.Machine.execFins a b c e s
  | .fprobe a b c d n e => Sys2Proof.Machine.execFprobe a b c d n e s
  | .fmrg a e => Sys2Proof.Machine.execFmrg a e s
  | .fdrain a d n e => Sys2Proof.Machine.execFdrain a d n e s
  | .fcnt d n e => Sys2Proof.Machine.execFcnt d n e s
  | .fclr e => Sys2Proof.Machine.execFclr e s
  -- fabric events
  | .tokenArrival inst edge => Sys2Proof.Machine.execTokenArrival inst edge s
  | .matchingStoreAdmit n ctx port place => Sys2Proof.Machine.execMatchingStoreAdmit n ctx port place s
  | .firingStart n => Sys2Proof.Machine.execFiringStart n s
  | .streamPoint stream => Sys2Proof.Machine.execStreamPoint stream s
  | .wakeTokenArrival tag => Sys2Proof.Machine.execWakeTokenArrival tag s
  -- engine operations (R176–R180): the operation, and how many of its units move now
  | .ceCopy op units => Sys2Proof.Machine.execCeCopy op units s
  | .ceCopyc op units => Sys2Proof.Machine.execCeCopyc op units s
  | .ceFill op units => Sys2Proof.Machine.execCeFill op units s
  | .cePlane op units => Sys2Proof.Machine.execCePlane op units s
  | .ceGather op units => Sys2Proof.Machine.execCeGather op units s
  | .ceScatter op units => Sys2Proof.Machine.execCeScatter op units s
  | .coCompose op units => Sys2Proof.Machine.execCoCompose op units s
  | .lePut op units answer => Sys2Proof.Machine.execLePut op units answer s
  | .leGet op data answer => Sys2Proof.Machine.execLeGet op data answer s
  | .leLamo op old answer => Sys2Proof.Machine.execLeLamo op old answer s
  | .leLsig op answer => Sys2Proof.Machine.execLeLsig op answer s
  | .engineCompletion op => Sys2Proof.Machine.execEngineCompletion op s
  | .spanRequestArrival r => Sys2Proof.Machine.execSpanRequestArrival r s
  | .spanFlitError port f => Sys2Proof.Machine.execSpanFlitError port f s
  | .spanVcEscape packet => Sys2Proof.Machine.execSpanVcEscape packet s
  -- host and drover registers (R335–R342)
  | .kick vf v => Sys2Proof.Machine.execKick vf v s
  | .launchSlotReread vf => Sys2Proof.Machine.execLaunchSlotReread vf s
  | .wakeMapped vf tag => Sys2Proof.Machine.execWakeMapped vf tag s
  | .wakeInvalid vf tag => Sys2Proof.Machine.execWakeInvalid vf tag s
  | .superGrant vf stamp units => Sys2Proof.Machine.execSuperGrant vf stamp units s
  | .superEnd vf stamp units => Sys2Proof.Machine.execSuperEnd vf stamp units s
  | .tlbinvVa vf v => Sys2Proof.Machine.execTlbinvVa vf v s
  | .tlbinvAll vf => Sys2Proof.Machine.execTlbinvAll vf s
  | .tlbinvDone vf => Sys2Proof.Machine.execTlbinvDone vf s
  | .lrbaseWrite vf v => Sys2Proof.Machine.execLrbaseWrite vf v s
  | .crbaseWrite vf v => Sys2Proof.Machine.execCrbaseWrite vf v s
  | .erbaseWrite vf v => Sys2Proof.Machine.execErbaseWrite vf v s
  | .statusRead vf => Sys2Proof.Machine.execStatusRead vf s
  | .registerWrite fn off v => Sys2Proof.Machine.execRegisterWrite fn off v s
  | .tenantRecordWrite tag v => Sys2Proof.Machine.execTenantRecordWrite tag v s
  | .windowEntryWrite bank entry v => Sys2Proof.Machine.execWindowEntryWrite bank entry v s
  | .filterEntryWrite entry v => Sys2Proof.Machine.execFilterEntryWrite entry v s
  | .frameTableWrite frame v => Sys2Proof.Machine.execFrameTableWrite frame v s
  -- bulkheads (R276–R289, R294)
  | .bulkheadAssign bh tag => Sys2Proof.Machine.execBulkheadAssign bh tag s
  | .pllRelockDone bh => Sys2Proof.Machine.execPllRelockDone bh s
  | .bulkheadRelease bh => Sys2Proof.Machine.execBulkheadRelease bh s
  | .bulkheadReleaseDone bh => Sys2Proof.Machine.execBulkheadReleaseDone bh s
  | .bulkheadReset bh release => Sys2Proof.Machine.execBulkheadReset bh release s
  | .resetLineRelease bh => Sys2Proof.Machine.execResetLineRelease bh s
  | .zeroisationDone bh readBackFails => Sys2Proof.Machine.execZeroisationDone bh readBackFails s
  | .timeSliceExpiry bh => Sys2Proof.Machine.execTimeSliceExpiry bh s
  | .bulkheadSwitch bh => Sys2Proof.Machine.execBulkheadSwitch bh s
  -- host accesses (R332–R334)
  | .hostRead fn bar off size path => Sys2Proof.Machine.execHostRead fn bar off size path s
  | .hostWrite fn bar off data path => Sys2Proof.Machine.execHostWrite fn bar off data path s
  | .hostAtomic fn bar off size op operand compare path => Sys2Proof.Machine.execHostAtomic fn bar off size op operand compare path s
  | .vfFlr vf => Sys2Proof.Machine.execVfFlr vf s
  | .hostLinkRetrain link up => Sys2Proof.Machine.execHostLinkRetrain link up s
  -- bring-up and far memory (R346, R351)
  | .powerGood images => Sys2Proof.Machine.execPowerGood images s
  | .memoryTrained u => Sys2Proof.Machine.execMemoryTrained u s
  | .bulkheadBringup bh => Sys2Proof.Machine.execBulkheadBringup bh s
  | .cxlFrameResident frame => Sys2Proof.Machine.execCxlFrameResident frame s
  | .cxlFrameLost firstFrame frames lasting => Sys2Proof.Machine.execCxlFrameLost firstFrame frames lasting s
  -- power (R352, R353)
  | .capMessage m => Sys2Proof.Machine.execCapMessage m s
  | .capScaleTick millivolts => Sys2Proof.Machine.execCapScaleTick millivolts s
  | .sensorSample bh temps currents => Sys2Proof.Machine.execSensorSample bh temps currents s
  -- management (R298, R354)
  | .spdmGetMeasurements vf index => Sys2Proof.Machine.execSpdmGetMeasurements vf index s
  | .pldmSensorRead sensor => Sys2Proof.Machine.execPldmSensorRead sensor s
  | .pldmFirmwareUpdate image => Sys2Proof.Machine.execPldmFirmwareUpdate image s
  -- scheduling (R19, R236–R243, R263–R269)
  | .rankRefresh inst => Sys2Proof.Machine.execRankRefresh inst s
  | .phasePlace die => Sys2Proof.Machine.execPhasePlace die s
  | .tileConfigComplete inst sheet tile => Sys2Proof.Machine.execTileConfigComplete inst sheet tile s
  | .phaseEnd inst => Sys2Proof.Machine.execPhaseEnd inst s
  | .completionRecordPost vf => Sys2Proof.Machine.execCompletionRecordPost vf s
  | .eventRecordPost vf => Sys2Proof.Machine.execEventRecordPost vf s
  | .backfillLimit die => Sys2Proof.Machine.execBackfillLimit die s
  | .quantumExhausted slice => Sys2Proof.Machine.execQuantumExhausted slice s
  | .workAllowanceDraw sheet ctx => Sys2Proof.Machine.execWorkAllowanceDraw sheet ctx s
  | .budgetReport inst => Sys2Proof.Machine.execBudgetReport inst s
  | .energyRefresh inst => Sys2Proof.Machine.execEnergyRefresh inst s
  | .allowanceWindow sheet => Sys2Proof.Machine.execAllowanceWindow sheet s
  | .rateWindowEnd inst => Sys2Proof.Machine.execRateWindowEnd inst s
  | .slugTaken inst change => Sys2Proof.Machine.execSlugTaken inst change s
  | .watchdogExpiry inst => Sys2Proof.Machine.execWatchdogExpiry inst s
  -- recovery (R305–R328)
  | .cutTimer inst => Sys2Proof.Machine.execCutTimer inst s
  | .nodeSave inst n => Sys2Proof.Machine.execNodeSave inst n s
  | .cutComplete inst failingLine => Sys2Proof.Machine.execCutComplete inst failingLine s
  | .tokenParityError inst site => Sys2Proof.Machine.execTokenParityError inst site s
  | .nodeMachineCheck site => Sys2Proof.Machine.execNodeMachineCheck site s
  | .rollbackRestoreDone inst areaFails => Sys2Proof.Machine.execRollbackRestoreDone inst areaFails s
  | .reportDelivery inst => Sys2Proof.Machine.execReportDelivery inst s
  | .thawArrival inst sheet => Sys2Proof.Machine.execThawArrival inst sheet s
  | .scrubLine addr find => Sys2Proof.Machine.execScrubLine addr find s
  | .illegalInstruction w => Sys2Proof.Machine.execIllegalInstruction w s
  | .sharedUnitFault u again => Sys2Proof.Machine.execSharedUnitFault u again s
  | .parkComplete bh => Sys2Proof.Machine.execParkComplete bh s
  | .restoreComplete bh => Sys2Proof.Machine.execRestoreComplete bh s
  | .tdispRequest vf m => Sys2Proof.Machine.execTdispRequest vf m s
  -- rows without operands
  | .ret => Sys2Proof.Machine.execRet s
  | .stbar => Sys2Proof.Machine.execStbar s
  | .fhalt => Sys2Proof.Machine.execFhalt s
  | .bell => Sys2Proof.Machine.execBell s
  | .eret => Sys2Proof.Machine.execEret s
  | .wfi => Sys2Proof.Machine.execWfi s
  | .yield => Sys2Proof.Machine.execYield s
  | .brk => Sys2Proof.Machine.execBrk s
  | .nop => Sys2Proof.Machine.execNop s
  | .pferrRead => Sys2Proof.Machine.execPferrRead s
  | .perstDeassert => Sys2Proof.Machine.execPerstDeassert s
  | .capHorizonExpiry => Sys2Proof.Machine.execCapHorizonExpiry s
  | .pldmBaseDiscovery => Sys2Proof.Machine.execPldmBaseDiscovery s
  | .instructionFetchFault => Sys2Proof.Machine.execInstructionFetchFault s
  | .configurationRequest => Sys2Proof.Machine.execConfigurationRequest s

end Sys2Proof.Machine
end

