-- ==== Sys2Proof/Machine/Settle.lean ====
section
/-! DEFINITION. What follows every turn of the device, whichever unit moved: errors that an agent has met are lost at rest (R326), what
is asked of bulkheads is done once their state allows (R276), record writes that waited take effect (R273), park images follow the set of shared bulkheads (R289), host requests that waited
are tried again (R226, R333), what a tenant attested has not changed behind its back (R299), and engines admit what waits in their inboxes
(R290). Where nothing waits, a turn leaves
nothing to be done. -/

namespace Sys2Proof.Machine

/-- The bulkheads of which something is asked. -/
def State.asked (s : State) : List Nat := (s.bulkheads.filter fun p => !p.2.asks.isEmpty).map Prod.fst

/-- What is asked of bulkheads is done as far as their states allow (R276). -/
def State.serveAll (s : State) : State := s.asked.foldl (fun s bh => s.serveBh bh (s.bulkhead bh).asks.length) s

/-- The tenants with record writes that wait. -/
def State.waitingTenants (s : State) : List Nat := (s.drover.recordWrites.map Prod.fst).eraseDups

/-- Record writes that wait take effect where no phase of the tenant runs (R273). -/
def State.serveRecords (s : State) : State := s.waitingTenants.foldl State.boundary s

/-- Host requests that wait are tried again (R226, R333). -/
def State.serveHost (s : State) : State := if s.package.hostWaits.isEmpty then s else s.hostAgain s.package.hostWaits []

/-- The tenants with a TDI in RUN (R299). -/
def State.attested (s : State) : List Nat :=
  (((s.vfs.filter fun p => decide (p.2.tdi = .run)).map fun p => s.vfTenant p.1).eraseDups).filter s.tdiRuns

/-- The attested measurements of a tenant have changed in a turn that began at `old`, whatever its record says now: while a TDI that was its
own is still in RUN, its TDIs go to ERROR, and frames it has lost are zeroed with the rest (R299). -/
def State.attestTenant (old s : State) (t : Nat) : State :=
  if ((old.vfsOf t).any fun v => decide ((s.vf v).tdi = .run)) ∧ old.measured t ≠ s.measured t then
    ((old.framesOf t).filter fun f => !((s.framesOf t).contains f)).foldl State.zeroFrame (s.breakTdis t (old.vfsOf t))
  else s

/-- Every tenant with a TDI in RUN before the turn is looked at (R299). -/
def State.attest (old s : State) : State := old.attested.foldl (fun s t => old.attestTenant s t) s

/-- What follows a turn that began at `old`. -/
def State.settle (old s : State) : State := (old.attest (((s.loseMet.serveAll).serveRecords).moveParks).serveHost).admitMessages

/-- A turn's outcome with what follows it. -/
def State.afterTurn (old : State) (o : Host.Outcome State Fault Refusal) : Host.Outcome State Fault Refusal :=
  match o with
  | .next s => .next (old.settle s)
  | o => o

end Sys2Proof.Machine
end

