-- ==== Sys2Proof/Machine/Tags.lean ====
section
/-! DEFINITION. Owner tags of the arrays of a bulkhead other than TS, SS and DS (R279): which lines a turn of a unit reaches, and what
comes of one whose tag is another tenant's. Accesses to TS, SS and DS are checked where they are made. -/

namespace Sys2Proof.Machine

/-- A node among those of its sheet. -/
def nodePart (n : NodeId) : Nat := 4096 * (classCode n.cls).toNat + 64 * n.tile + n.elem

/-- The lines a node reaches as it works: its op slots, headers and keep registers, and the arrays of its class. -/
def nodeLines (n : NodeId) : List SramLine :=
  let own (a : SramArray) : SramLine := ⟨n.sheet, a, nodePart n⟩
  [own .slots, own .headers, own .keeps] ++
    match n.cls with
    | .pa => [own .weights, own .banks]
    | .fe => [own .tuples]
    | .element | .ag | .cv => []

/-- The lines of a tile that tokens reach: its switch words and its matching store. -/
def tileLines (sheet tile : Nat) : List SramLine := [⟨sheet, .switch, tile⟩, ⟨sheet, .store, tile⟩]

/-- The proof buffer of a bulkhead, with its first sheet. -/
def proofLine (bh : Nat) : SramLine := ⟨(bhSheets bh).headD 0, .proof, bh⟩

/-- The ring of a galley lies in SS, whose writes are never held (R229, R271). -/
def Galley.inSs (g : Galley) (sheet : Nat) : Bool :=
  match decodeAddr sheet false g.base.toNat with
  | some (.ss _ _) => true
  | _ => false

/-- The lines a push to a queue reaches: the queue's, and the proof buffer of its bulkhead where it goes to a ring in DS or DM (R225,
R253). -/
def State.pushLines (s : State) (sheet q : Nat) : List SramLine :=
  let x := s.queue sheet q
  let held := decide (x.pushTo = .galley) && (x.galley.map fun g => !(g.inSs sheet)).getD false
  ⟨sheet, .queues, q⟩ :: if held then [proofLine (bhOf sheet)] else []

/-- The lines an instruction of the acting thread reaches: a queue, or the proof buffer of its bulkhead. -/
def State.threadLines (s : State) (i : Instr) : List SramLine :=
  match i with
  | .qpop _ k | .qcnt _ k | .qctl k _ _ => [⟨s.curSheet, .queues, k.toNat⟩]
  | .qpush k a _ => ((s.chaseSheet (s.reg a)).map fun sheet => s.pushLines sheet k.toNat).getD []
  | .st _ _ _ _ _ _ | .amo _ _ _ _ _ _ _ _ | .cas _ _ _ _ _ _ _ | .flay _ _ => [proofLine (bhOf s.curSheet)]
  | _ => []

/-- The lines an op word reaches beside its node's own: an AG that stores, the proof buffer of its bulkhead. -/
def opLines (n : NodeId) (i : Instr) : List SramLine :=
  match i with
  | .stt _ _ _ | .stx _ _ _ _ | .amox _ _ _ _ _ _ _ | .tmove _ _ _ _ => [proofLine (bhOf n.sheet)]
  | _ => []

/-- The line that stands against a thread's instruction. -/
def State.strayInstr (s : State) (i : Instr) : Option SramLine :=
  s.strayArray (s.tenantAt s.curSheet s.curCtx) (s.threadLines i)

/-- The instruction takes no effect and faults ACCESS (R279). -/
def State.strayTrap (s : State) (x : SramLine) : State := (s.arrayEvent x s.curSheet s.curCtx).trap kAccess 0

/-- The line that stands against a node's work for a context. -/
def State.strayNode (s : State) (n : NodeId) (ctx : Nat) : Option SramLine :=
  s.strayArray (s.tenantAt n.sheet ctx) (nodeLines n ++ tileLines n.sheet n.tile)

/-- The line that stands against an op word of a node. -/
def State.strayOp (s : State) (n : NodeId) (ctx : Nat) (i : Instr) : Option SramLine :=
  s.strayArray (s.tenantAt n.sheet ctx) (nodeLines n ++ tileLines n.sheet n.tile ++ opLines n i)

/-- The line that stands against the start of a node's next firing. -/
def State.strayStart (s : State) (n : NodeId) : Option (SramLine × Nat) :=
  if s.arrayTags.isEmpty then none
  else (s.choose n).bind fun x => (s.strayNode n x.ctx).map fun l => (l, x.ctx)

/-- The line that stands against a token at the end of its edge, with the sheet and context. -/
def State.strayToken (s : State) (id edge : Nat) : Option (SramLine × Nat × Nat) :=
  if s.arrayTags.isEmpty then none
  else (aget? s.insts id).bind fun i => (aget? i.edges edge).bind fun e =>
    let at_ := i.tileOf e.dst
    (s.strayArray i.tenant (tileLines at_.1 at_.2)).map fun l => (l, at_.1, i.ctx)

/-- The line that stands against the push that waits first, with its pusher; a record of the drover is the holder's (R109). -/
def State.strayPush (s : State) (sheet q : Nat) : Option (SramLine × Nat × Nat) :=
  match (s.queue sheet q).waiting with
  | [] => none
  | p :: _ =>
    let who := p.pusher.getD (sheet, 4)
    (s.strayArray (s.tenantAt who.1 who.2) (s.pushLines sheet q)).map fun l => (l, who)

/-- The line that stands against a refill, with the instance that set the galley. -/
def State.strayRefill (s : State) (sheet q : Nat) : Option (SramLine × Nat × Nat) :=
  (s.queue sheet q).galley.bind fun g =>
    let ctx := ((aget? s.insts g.owner).map fun i => i.ctx).getD 4
    (s.strayArray g.tenant [⟨sheet, .queues, q⟩]).map fun l => (l, sheet, ctx)

/-- The line that stands against a write of an engine operation (R225). -/
def State.strayEngine (s : State) (k : Nat) : Option (SramLine × Nat × Nat) :=
  (aget? s.ops k).bind fun o => (s.strayArray o.tenant [proofLine (bhOf o.sheet)]).map fun l => (l, o.sheet, o.ctx)

/-- The line that stands against a write of an outbound stream (R225). -/
def State.strayStream (s : State) (id : Nat) : Option (SramLine × Nat × Nat) :=
  (aget? s.streams id).bind fun x =>
    if x.inbound then none
    else (s.strayArray (s.tenantAt x.sheet x.ctx) [proofLine (bhOf x.sheet)]).map fun l => (l, x.sheet, x.ctx)

/-- The line that stands against an event of the fabric, of a queue, of a stream or of an engine. -/
def State.strayEvent (s : State) (i : Instr) : Option (SramLine × Nat × Nat) :=
  if s.arrayTags.isEmpty then none
  else match i with
  | .tokenArrival id edge => s.strayToken id edge
  | .queuePushAccept sheet q => s.strayPush sheet q
  | .galleyRefill sheet q => s.strayRefill sheet q
  | .streamPoint id => s.strayStream id
  | .ceCopy k _ | .ceCopyc k _ | .ceFill k _ | .cePlane k _ | .ceGather k _ | .ceScatter k _ | .coCompose k _ | .leGet k _ _
  | .engineCompletion k => s.strayEngine k
  | _ => none

end Sys2Proof.Machine
end

