-- ==== Sys2Proof/Machine/Turn.lean ====
section
/-! DEFINITION. A turn of one unit of the device: what the step does around the meaning of an instruction, of an op word
or of an event (R17, R84, R246, R305). -/

namespace Sys2Proof.Machine

/-- An outcome with something done to a next state. -/
def onNext (o : Host.Outcome State Fault Refusal) (f : State → State) : Host.Outcome State Fault Refusal :=
  match o with
  | .next s => .next (f s)
  | o => o

/-- An instruction of the acting thread: its own effect, its activity (R262), and its end (R84); one that meets another tenant's tag
has no effect (R279). -/
def State.runInstr (s : State) (i : Instr) : Host.Outcome State Fault Refusal :=
  match s.strayInstr i with
  | some x => .next (s.strayTrap x).afterInstr
  | none => onNext (exec i s) fun t => (t.counted (s.instrActivity i)).afterInstr

/-- The op word a node's firing stands at, with its activity (R262); one that meets another tenant's tag has no effect and faults ACCESS
(R279). -/
def State.runOpWord (s : State) (n : NodeId) (f : Firing) (i : Instr) : Host.Outcome State Fault Refusal :=
  match s.strayOp n f.ctx i with
  | some x => .next ((s.opFault n f kAccess 0 (BitVec.ofNat 64 x.number)).arrayEvent x n.sheet f.ctx)
  | none => onNext (exec i s) fun t => t.counted (s.opActivity t n f i)

/-- A node starts its next firing, unless it meets another tenant's tag (R279). -/
def State.startNext (s : State) (n : NodeId) : Host.Outcome State Fault Refusal :=
  match s.strayStart n with
  | some (x, ctx) => .next (s.arrayEvent x n.sheet ctx)
  | none => if (s.resumeDue n).isSome then exec (.mmResume n) s else exec (.firingStart n) s

/-- What the drover firmware answers: requests of the host and the hypervisor, and sensor reads (R351). -/
def needsDrover : Instr → Bool
  | .hostRead _ _ _ _ _ | .hostWrite _ _ _ _ _ | .hostAtomic _ _ _ _ _ _ _ _ | .vfFlr _ | .bulkheadAssign _ _ | .bulkheadRelease _
  | .bulkheadReset _ _ | .tdispRequest _ _ | .pldmSensorRead _ => true
  | i => (registerRequest 0 i).isSome

/-- What nothing answers before power-good: messages of management and configuration requests (R351). -/
def needsPower : Instr → Bool
  | .capMessage _ | .pldmBaseDiscovery | .pldmFirmwareUpdate _ | .spdmGetMeasurements _ _ | .configurationRequest => true
  | i => needsDrover i

/-- A request that the device does not answer at its stage of bring-up: nothing before power-good, and in recovery only MCTP, PLDM firmware
update and SPDM (R351; DEDUCED, log entry 138). -/
def State.deaf (s : State) (i : Instr) : Bool :=
  match s.package.boot with
  | .running => false
  | .recovery => needsDrover i
  | .off => needsPower i

/-- An event, with its activity (R262): one that the device does not answer yet is lost (R351); a register event waits behind a host write
that waits (R333); a token that meets another tenant's tag does not move (R279). -/
def State.runEvent (s : State) (i : Instr) : Host.Outcome State Fault Refusal :=
  if s.deaf i then .next s
  else match s.lateRegister i, s.strayEvent i with
  | some r, _ => .next (s.host r)
  | none, some (x, sheet, ctx) => .next (s.arrayEvent x sheet ctx)
  | none, none => onNext (exec i s) fun t => t.counted (s.eventActivity t i)

/-- The sequencer of a sheet issues: the chosen thread's handler invocation starts (R254), or a report is delivered first (R305), else its
next instruction runs.
Where no thread can issue, nothing happens (R246). -/
def State.issue (s : State) (sheet : Nat) : Host.Outcome State Fault Refusal :=
  match s.chooseThread sheet with
  | none => .next s
  | some ctx =>
    if s.canInvoke sheet ctx && !(s.canIssue sheet ctx) then exec (.handlerInvocation sheet ctx) s
    else match s.mustDeliver sheet ctx with
    | some id => exec (.reportDelivery id) s
    | none =>
      let i := s.nextInstr sheet ctx
      (s.beginInstr sheet ctx i).runInstr i

/-- A node moves: an `mm` that is to be interrupted or resumed is (R162, R163), the firing in progress runs its next op word
(R17), an undecodable one stops it (R67, R118), and a node without a firing starts one. A firing that waits, one of an instance that is
being restored (R315), and a node whose clock stands, do nothing. -/
def State.runNode (s : State) (n : NodeId) : Host.Outcome State Fault Refusal :=
  let s := { s with curNode := n }
  if s.stopped n.sheet then .next s
  else match (s.node n).running with
    | none => s.startNext n
    | some f =>
      if s.restoringAt n.sheet f.ctx then .next s else
      -- a firing that a full proof buffer held up tries again (R225)
      let s := if f.wait = .proofFull then s.setRunning n (some { f with wait := .none }) else s
      if f.wait ≠ .none ∧ f.wait ≠ .proofFull then .next s
      else if (s.interruptDue n).isSome then exec (.mmInterrupt n) s
      else match s.nextOp n f with
        | .ok i => s.runOpWord n f i
        | .error _ => .next (s.opIllegal n f 0)

/-- The unit a turn names moves; a turn that names a unit the package does not have stops the run. -/
def State.take (s : State) (t : Turn) : Host.Outcome State Fault Refusal :=
  if t.named then
    match t with
    | .issue sheet => s.issue sheet
    | .node n => s.runNode n
    | .event i => s.runEvent i
    | .transit n ctx k =>
      let t := s.transit n ctx k
      .next (t.counted (s.injectActivity t n ctx k))
    | .time ns cycles => .next (s.passTime ns cycles)
  else .fault .noSuchUnit

/-! ### An instruction placed where the next step fetches it -/

/-- A sequencer word at the start of sheet 0's context-0 code region, its thread running there with a unit in hand. -/
def State.placeWord (s : State) (bs : List Byte) : State :=
  let t := { s.thread 0 0 with run := .running, pc := BitVec.ofNat 64 (codeBase 0), wait := none }
  let sh := s.sheet 0
  let s := s.setSheet 0 { sh with threads := sh.threads.set 0 t, units := sh.units.set 0 (sh.units.get 0 + 1) }
  { s with mem := s.mem.write (ssLoc 0 0x300000) bs, agenda := .issue 0 :: s.agenda }

/-- Node of a class on sheet 0, in the first tile that has one (R36). -/
def firstNode (c : NodeClass) : NodeId :=
  match c with
  | .cv => ⟨.cv, 0, 5, 0⟩
  | c => ⟨c, 0, 0, 0⟩

/-- An op word in slot 0 of a node, and what follows it in slot 1, under a header with four tagged ports and output
rates of 3; a firing of context 0 stands at it with INT32 0 on every port. -/
def State.placeOp (s : State) (c : NodeClass) (bs : List Byte) : State :=
  let n := firstNode c
  let x := s.nodeCtx n 0
  let w0 : W32 := BitVec.ofNat 32 (leNat (bs.take 4))
  let w1 : W32 := BitVec.ofNat 32 (leNat ((bs.drop 4).take 4))
  let slots := (x.slots.set 0 w0).set 1 w1
  let s := s.setNodeCtx n 0 { x with slots := slots, headers := x.headers.set 0 (some (0x249FF000, 0x0F00)) }
  let t (p : Nat) : Token :=
    { width := 0, ctx := 0, colour := 0, iter := 0, slot := 0, port := BitVec.ofNat 2 p, fmt := 0, value := 0 }
  let f : Firing :=
    { ctx := 0, actor := 0, hdr := 0, seq := 0, pc := 0, tag := ⟨0, 0, 0⟩, operands := Quad.ofFn fun p => [t p],
      heads := Quad.all 0, emitted := Quad.all 0, itin := none, itnext := none, itout := none, progress := 0,
      lanes := [], rows := 0, latched := [], pending := [], wait := .none, invalid := false, ready := 0 }
  { s.setRunning n (some f) with agenda := .node n :: s.agenda }

/-- A table word placed where the next step fetches it: sequencer words in the code region, op words on a node of the
first class that decodes them (log entry 7). -/
def State.placeTableWord (s : State) (nbits w : Nat) : State :=
  let bs := tableBytes nbits w
  match firstClass wordClasses bs with
  | some (.op c, _) => s.placeOp c bs
  | _ => s.placeWord bs

end Sys2Proof.Machine
end

