-- ==== Sys2Proof/Machine/Step.lean ====
section
/-! DEFINITION. One step of the device: the next turn of the agenda, or the idle turn where the agenda says nothing
(log entry 1), and what follows every turn. -/

namespace Sys2Proof.Machine

/-- One step. -/
def step (s : State) : Host.Outcome State Fault Refusal :=
  match s.agenda with
  | [] => s.afterTurn (s.take s.idleTurn)
  | t :: r =>
    let s := { s with agenda := r }
    s.afterTurn (s.take t)

/-- `s` with a table word placed so that the very next step runs it. -/
def State.withFetchWord (s : State) (nbits w : Nat) : State := s.placeTableWord nbits w

end Sys2Proof.Machine
end

