-- ==== Sys2Proof/Safety.lean ====
section
/-! DEFINITION. What counts as a safe run, in the terms statements use: memory keeps its canonical form. -/

namespace Sys2Proof.Machine

/-- What every step keeps: the canonical form of memory. -/
def Inv (s : State) : Prop := s.mem.wf = true

end Sys2Proof.Machine
end

