-- ==== Sys2Proof/Certificates/Slice0/Obligations.lean ====
section
/-! DEFINITION. The statements for the provers, one definition each (OBLIGATIONS.json lists them). `State.setCur`,
`State.writeNext` and the other operations a conclusion names have frame statements of their own here. -/

open Sys2Proof Sys2Proof.Machine

/-- The words the spec writes out for sequencer instructions, a memory pair, and op words of an element, an AG, a CV, a PA
and an FE decode to exactly those instructions. (R66, R69, 04_sequencer_isa.md, 05_element_isa.md) -/
def Obligations.DecodesSpecWords : Prop :=
  decodeTableWord 32 0x04642800 = some (.add 3 4 5) ∧
  decodeTableWord 32 0x04642801 = some (.sub 3 4 5) ∧
  decodeTableWord 32 0x08A0000C = some (.addi 5 0 12) ∧
  decodeTableWord 32 0x6C60FFFC = some (.loop 3 0xFFFC) ∧
  decodeTableWord 64 0x0000960080EA0010 = some (.ld 7 10 16 .w .acq .dev) ∧
  decodeTableWord 64 0x00008006888A0000 = some (.amo 4 10 6 0 .w .plain .tile .add) ∧
  decodeTableWord 32 0xA4E60800 = some (.strin 7 6 1) ∧
  decodeTableWord 32 0xD077C000 = some (.qpush 3 23 24) ∧
  decodeTableWord 32 0xFC004800 = some (.trap 0x12) ∧
  decodeAs (.op .element) (bytesOfWord 0x0C180820) = .ok (.fma 0 1 4 0 2 true false, []) ∧
  decodeAs (.op .ag) (bytesOfWord 0xC0000050) = .ok (.ldt 0 0 0 2 true, []) ∧
  decodeAs (.op .cv) (bytesOfWord 0xC0000150) = .ok (.cvt 0 0 0 true 2 true, []) ∧
  decodeAs (.op .pa) (bytesOfWord 0xC4100010) = .ok (.mm 0 1 0 0 true, []) ∧
  decodeAs (.op .fe) (bytesOfWord 0xC4040010) = .ok (.fins 0 0 2 true, [])

/-- For every well-formed instruction of every word class, with every operand at every value the encoding admits, the
decoder of its class reads the instruction back from its words and leaves the bytes that follow. (R57, R58, R59, R60,
R61, R62, R64, R65, R67, R68, R69) -/
def Obligations.DecodeOfEncode : Prop :=
  ∀ (i : Instr) (c : WordClass) (rest : List Byte), i.wordClass = some c → i.wf = true →
    decodeAs c (encodeBytes i ++ rest) = .ok (i, rest)

/-- When the agenda names a sheet, the sheet chooses a thread that can issue and has no report to take, and the bytes at that
thread's pc decode to a well-formed instruction, the step is exec of that instruction on the state in which the unit is
taken and the thread acts (beginInstr), followed by what it counts (counted), by what retiring does (afterInstr) and by
what follows every turn (afterTurn); an instruction that meets another tenant's tag in the arrays it names has no effect
and traps (strayTrap). What follows a turn is nothing where no tenant had a TDI in RUN, no error was met, nothing is
asked of a bulkhead, of the records or of the host window, no park image stands out of its place, and no operation is
still on its way to its inbox. The turn that issues is an input of the model (log entry 1); which lines an instruction
names is log entry 130. (R82, R84, R246, R262, R279, 04_sequencer_isa.md) -/
def Obligations.StepRunsInstruction : Prop :=
  (∀ (s u v : State) (sheet ctx : Nat) (r : List Turn) (bs rest : List Byte) (i : Instr),
    s.agenda = .issue sheet :: r → sheet < 256 → u = { s with agenda := r } → v = u.beginInstr sheet ctx i →
    u.chooseThread sheet = some ctx → u.canIssue sheet ctx = true → u.mustDeliver sheet ctx = none →
    u.fetch sheet ctx = .ok bs → decodeSeq bs = .ok (i, rest) →
    (v.strayInstr i = none →
      step s = u.afterTurn (onNext (exec i v) fun t => (t.counted (v.instrActivity i)).afterInstr)) ∧
    (∀ x, v.strayInstr i = some x → step s = u.afterTurn (.next (v.strayTrap x).afterInstr))) ∧
  (∀ old t : State, old.attested = [] → t.package.met = [] → t.asked = [] → t.drover.recordWrites = [] → t.misplaced = [] →
    t.package.hostWaits = [] → (∀ p ∈ t.ops, p.2.arrived.isSome = true) → old.afterTurn (.next t) = .next t)

/-- When the agenda names a node whose clock runs and whose firing neither waits nor is to be interrupted, and the slot the
firing stands at decodes to an op word of the node's class, the step is exec of that op word with that node acting,
followed by what it counts and by what follows every turn; where the node's arrays, or the proof buffer it stores into,
hold another tenant's tag the op word has no effect and faults ACCESS, TVAL the number of the line (log entry 130). When
the agenda names an event of the device or of the host (which turns happen is an input: log entry 1), the step is exec of
that event; but one that the device does not answer at its stage of bring-up is lost (log entry 138), a register event
behind a host write that waits joins it (log entry 139), and one that meets another tenant's tag is stopped. (R17, R67,
R68, R262, R279, R333, R351, 05_element_isa.md) -/
def Obligations.StepRunsOpWord : Prop :=
  (∀ (s u v : State) (n : NodeId) (r : List Turn) (f : Firing) (i : Instr),
    s.agenda = .node n :: r → n.exists = true → u = { s with agenda := r } → v = { u with curNode := n } →
    v.stopped n.sheet = false → (s.node n).running = some f → v.restoringAt n.sheet f.ctx = false → f.wait = .none →
    v.interruptDue n = none → v.nextOp n f = .ok i →
    (v.strayOp n f.ctx i = none → step s = u.afterTurn (onNext (exec i v) fun t => t.counted (v.opActivity t n f i))) ∧
    (∀ x, v.strayOp n f.ctx i = some x → step s = u.afterTurn
      (.next ((v.opFault n f 0x0A 0 (BitVec.ofNat 64 x.number)).arrayEvent x n.sheet f.ctx)))) ∧
  (∀ (s u : State) (i : Instr) (r : List Turn), s.agenda = .event i :: r → (Turn.event i).named = true → u = { s with agenda := r } →
    (u.deaf i = true → step s = u.afterTurn (.next u)) ∧
    (u.deaf i = false →
      (∀ q, u.lateRegister i = some q → step s = u.afterTurn (.next (u.host q))) ∧
      (u.lateRegister i = none → u.strayEvent i = none →
        step s = u.afterTurn (onNext (exec i u) fun t => t.counted (u.eventActivity t i))) ∧
      (∀ x sheet ctx, u.lateRegister i = none → u.strayEvent i = some (x, sheet, ctx) →
        step s = u.afterTurn (.next (u.arrayEvent x sheet ctx)))))

/-- From every state whose memory is canonical (addresses strictly rising, no byte equal to what an unlisted address reads
as), whatever the step runs (an instruction, an op word, an event of the device or of the host), a next state has a
canonical memory. (R7, R39, 01_machine.md) -/
def Obligations.StepKeepsMemoryCanonical : Prop :=
  ∀ s t : State, Inv s → step s = .next t → Inv t

/-- At reset memory is canonical and lists nothing; a read of each control register that R37 resets to 0 (TVEC, EPC, CAUSE,
TVAL, RASCNT, RASSPL, CYCLE, LAYVER) gives 0 on every thread of the package; every window entry and frame entry is
invalid; and no instance, slice, stream or operation exists. What the spec gives no reset value for is the model's
choice (log entry 10) and is not stated. (R37, 01_machine.md, 14_isolation.md) -/
def Obligations.ResetState : Prop :=
  Inv State.reset ∧ State.reset.mem = [] ∧
  (∀ sheet ctx : Nat, ∀ c : BitVec 16, c ∈ [0x0000#16, 0x0001#16, 0x0002#16, 0x0003#16, 0x0012#16, 0x0013#16, 0x0031#16, 0x0040#16] →
    ({ State.reset with curSheet := sheet, curCtx := ctx } : State).csr c = some 0) ∧
  (∀ b bank tenant : Nat, ∀ w : Bool, State.reset.hasWindow bank tenant w = false ∧ State.reset.frameOk tenant b = false) ∧
  State.reset.insts = [] ∧ State.reset.slices = [] ∧ State.reset.streams = [] ∧ State.reset.ops = []

/-- State.setCur, by which the register, branch and control instructions change the acting thread, makes that thread the one
given and leaves alone every other thread of the sheet and of every other sheet, the rest of the acting sheet, every
byte of memory and every other field of the state. (R37, 04_sequencer_isa.md) -/
def Obligations.ActingThreadFrame : Prop :=
  ∀ (s : State) (thr : Thread), s.curCtx < 4 →
    (s.setCur thr).cur = thr ∧
    (∀ sheet ctx, ctx < 4 → ¬(sheet = s.curSheet ∧ ctx = s.curCtx) → (s.setCur thr).thread sheet ctx = s.thread sheet ctx) ∧
    (∀ n, n ≠ s.curSheet → (s.setCur thr).sheet n = s.sheet n) ∧
    (s.setCur thr).sheet s.curSheet = { s.sheet s.curSheet with threads := ((s.setCur thr).sheet s.curSheet).threads } ∧
    (∀ a, (s.setCur thr).mem.get a = s.mem.get a) ∧
    { s.setCur thr with sheets := s.sheets } = s

/-- State.writeNext d v, the whole effect of the ALU, immediate and register-reading instructions: the destination register
reads v (g0 reads zero whatever is written to it), every other register reads as before, the pc moves by 4, and nothing
else of the thread changes. (R29, R37) -/
def Obligations.WriteNextFrame : Prop :=
  ∀ (s : State) (d : Reg) (v : Word),
    s.writeNext d v = s.setCur (s.writeNext d v).cur ∧
    (∀ r, (s.writeNext d v).reg r = if r = 0 then 0 else if r = d then v else s.reg r) ∧
    (s.writeNext d v).cur.pc = s.cur.pc + 4 ∧
    (s.writeNext d v).cur = { s.cur with regs := (s.writeNext d v).cur.regs, pc := s.cur.pc + 4 } ∧
    (∀ a, (s.writeNext d v).mem.get a = s.mem.get a)

/-- For every operand value each operation of the register ALU answers a next state that is the one before with the value of
R86 in gd and the pc moved by 4 (WriteNextFrame): sums, differences, bitwise operations, shifts by the low six bits of
gb, products and their high halves, quotients and remainders with the fixed corner cases, minima and maxima,
comparisons, leading zeros and one bits. A clz or popc word with a nonzero gb field does not decode. (R86) -/
def Obligations.RegisterAlu : Prop :=
  ∀ (s : State) (d a b : Reg),
    exec (.add d a b) s = .next (s.writeNext d (s.reg a + s.reg b)) ∧
    exec (.sub d a b) s = .next (s.writeNext d (s.reg a - s.reg b)) ∧
    exec (.and d a b) s = .next (s.writeNext d (s.reg a &&& s.reg b)) ∧
    exec (.or d a b) s = .next (s.writeNext d (s.reg a ||| s.reg b)) ∧
    exec (.xor d a b) s = .next (s.writeNext d (s.reg a ^^^ s.reg b)) ∧
    exec (.shl d a b) s = .next (s.writeNext d (s.reg a <<< ((s.reg b).extractLsb' 0 6).toNat)) ∧
    exec (.shr d a b) s = .next (s.writeNext d (s.reg a >>> ((s.reg b).extractLsb' 0 6).toNat)) ∧
    exec (.sra d a b) s = .next (s.writeNext d ((s.reg a).sshiftRight ((s.reg b).extractLsb' 0 6).toNat)) ∧
    exec (.mul d a b) s = .next (s.writeNext d (s.reg a * s.reg b)) ∧
    exec (.mulh d a b) s = .next (s.writeNext d (BitVec.ofInt 64 ((s.reg a).toInt * (s.reg b).toInt / 2 ^ 64))) ∧
    exec (.mulhu d a b) s = .next (s.writeNext d (BitVec.ofNat 64 ((s.reg a).toNat * (s.reg b).toNat / 2 ^ 64))) ∧
    (s.reg b ≠ 0 → exec (.div d a b) s = .next (s.writeNext d (BitVec.ofInt 64 ((s.reg a).toInt.tdiv (s.reg b).toInt)))) ∧
    (s.reg b ≠ 0 → exec (.divu d a b) s = .next (s.writeNext d (s.reg a / s.reg b))) ∧
    (s.reg b ≠ 0 → exec (.rem d a b) s = .next (s.writeNext d
      (BitVec.ofInt 64 ((s.reg a).toInt - (s.reg b).toInt * (s.reg a).toInt.tdiv (s.reg b).toInt)))) ∧
    (s.reg b ≠ 0 → exec (.remu d a b) s = .next (s.writeNext d (s.reg a - s.reg b * (s.reg a / s.reg b)))) ∧
    (s.reg b = 0 → exec (.div d a b) s = .next (s.writeNext d 0xFFFFFFFFFFFFFFFF) ∧
      exec (.divu d a b) s = .next (s.writeNext d 0xFFFFFFFFFFFFFFFF) ∧
      exec (.rem d a b) s = .next (s.writeNext d (s.reg a)) ∧ exec (.remu d a b) s = .next (s.writeNext d (s.reg a))) ∧
    (s.reg a = 0x8000000000000000 → s.reg b = 0xFFFFFFFFFFFFFFFF →
      exec (.div d a b) s = .next (s.writeNext d 0x8000000000000000) ∧ exec (.rem d a b) s = .next (s.writeNext d 0)) ∧
    exec (.min d a b) s = .next (s.writeNext d (if (s.reg a).toInt ≤ (s.reg b).toInt then s.reg a else s.reg b)) ∧
    exec (.max d a b) s = .next (s.writeNext d (if (s.reg a).toInt ≤ (s.reg b).toInt then s.reg b else s.reg a)) ∧
    exec (.minu d a b) s = .next (s.writeNext d (if (s.reg a).toNat ≤ (s.reg b).toNat then s.reg a else s.reg b)) ∧
    exec (.maxu d a b) s = .next (s.writeNext d (if (s.reg a).toNat ≤ (s.reg b).toNat then s.reg b else s.reg a)) ∧
    exec (.slt d a b) s = .next (s.writeNext d (if (s.reg a).toInt < (s.reg b).toInt then 1 else 0)) ∧
    exec (.sltu d a b) s = .next (s.writeNext d (if (s.reg a).toNat < (s.reg b).toNat then 1 else 0)) ∧
    (∃ k, exec (.clz d a) s = .next (s.writeNext d (BitVec.ofNat 64 k)) ∧ (s.reg a = 0 → k = 64) ∧
      (s.reg a ≠ 0 → k < 64 ∧ (s.reg a).getLsbD (63 - k) = true ∧ ∀ j, 63 - k < j → (s.reg a).getLsbD j = false)) ∧
    exec (.popc d a) s = .next (s.writeNext d (BitVec.ofNat 64 ((List.range 64).countP fun k => (s.reg a).getLsbD k))) ∧
    (b ≠ 0 → decodeSingle (encSR 0x01 d a b 0x015) = .error .reservedField ∧
      decodeSingle (encSR 0x01 d a b 0x016) = .error .reservedField)

/-- For every operand value each immediate instruction answers a next state with the value of R87 in gd and the pc moved by
4 (WriteNextFrame): sign-extended for addi and slti, zero-extended for the bitwise ones, shifts by the low six bits, and
lui with bits 63:32 and 15:0 zero. A shift immediate with a nonzero bit above the six, and a lui with a nonzero ga
field, do not decode. (R87) -/
def Obligations.Immediates : Prop :=
  (∀ (s : State) (d a : Reg) (i : BitVec 16) (sh : BitVec 6),
    exec (.addi d a i) s = .next (s.writeNext d (s.reg a + i.signExtend 64)) ∧
    exec (.andi d a i) s = .next (s.writeNext d (s.reg a &&& i.setWidth 64)) ∧
    exec (.ori d a i) s = .next (s.writeNext d (s.reg a ||| i.setWidth 64)) ∧
    exec (.xori d a i) s = .next (s.writeNext d (s.reg a ^^^ i.setWidth 64)) ∧
    exec (.slti d a i) s = .next (s.writeNext d (if (s.reg a).toInt < i.toInt then 1 else 0)) ∧
    exec (.shli d a sh) s = .next (s.writeNext d (s.reg a <<< sh.toNat)) ∧
    exec (.shri d a sh) s = .next (s.writeNext d (s.reg a >>> sh.toNat)) ∧
    exec (.srai d a sh) s = .next (s.writeNext d ((s.reg a).sshiftRight sh.toNat)) ∧
    exec (.lui d i) s = .next (s.writeNext d (0#32 ++ i ++ 0#16))) ∧
  (∀ (d a : Reg) (i : BitVec 16), i.extractLsb' 6 10 ≠ 0 → decodeSingle (encSI 0x07 d a i) = .error .reservedField ∧
    decodeSingle (encSI 0x08 d a i) = .error .reservedField ∧ decodeSingle (encSI 0x09 d a i) = .error .reservedField) ∧
  (∀ (d a : Reg) (i : BitVec 16), a ≠ 0 → decodeSingle (encSI 0x0A d a i) = .error .reservedField)

/-- Every conditional branch goes to its own address plus four times its sign-extended offset when its condition holds and
to the next word otherwise; jmp always goes; jr goes to an absolute word-aligned address, or to a code offset below
0x3_C000 from the base of the thread's code region, and traps ALIGN with TVAL = ga where ga is not word-aligned; loop
decrements ga first and branches unless the difference is zero, also from ga = 0. Nothing but the pc (and loop's ga)
changes. For loop g0 the test is of the difference, for g0 stays zero (R29); that reading is the model's (DEDUCED).
(R88, R29, R82) -/
def Obligations.Branches : Prop :=
  ∀ (s : State) (a b : Reg) (o : BitVec 16) (p : BitVec 26),
    exec (.beq a b o) s = .next (s.goto (if s.reg a = s.reg b then s.cur.pc + 4 * o.signExtend 64 else s.cur.pc + 4)) ∧
    exec (.bne a b o) s = .next (s.goto (if s.reg a ≠ s.reg b then s.cur.pc + 4 * o.signExtend 64 else s.cur.pc + 4)) ∧
    exec (.blt a b o) s = .next (s.goto (if (s.reg a).toInt < (s.reg b).toInt then s.cur.pc + 4 * o.signExtend 64 else s.cur.pc + 4)) ∧
    exec (.bge a b o) s = .next (s.goto (if (s.reg a).toInt ≥ (s.reg b).toInt then s.cur.pc + 4 * o.signExtend 64 else s.cur.pc + 4)) ∧
    exec (.bltu a b o) s = .next (s.goto (if (s.reg a).toNat < (s.reg b).toNat then s.cur.pc + 4 * o.signExtend 64 else s.cur.pc + 4)) ∧
    exec (.bgeu a b o) s = .next (s.goto (if (s.reg a).toNat ≥ (s.reg b).toNat then s.cur.pc + 4 * o.signExtend 64 else s.cur.pc + 4)) ∧
    exec (.jmp p) s = .next (s.goto (s.cur.pc + 4 * p.signExtend 64)) ∧
    ((s.reg a).extractLsb' 0 2 = 0 → exec (.jr a) s = .next (s.goto
      (if (s.reg a).toNat < 0x3C000 then 0xFF00000001300000 + 0x3C000 * BitVec.ofNat 64 s.curCtx + s.reg a else s.reg a))) ∧
    ((s.reg a).extractLsb' 0 2 ≠ 0 → exec (.jr a) s = .next (s.trap 0x0B (s.reg a))) ∧
    exec (.loop a o) s = .next ((s.setCur (s.cur.setReg a (s.reg a - 1))).goto
      (if s.reg a - 1 ≠ 0 then s.cur.pc + 4 * o.signExtend 64 else s.cur.pc + 4))

/-- call and callr push the address of the next word on the return-address store and branch as jmp and jr do; the thread's
other state is unchanged while the store holds fewer than 16 entries. When the store is full and the spill area has
room, the oldest entry is first stored at RASBASE + 8·RASSPL and RASSPL goes up by 1. ret pops the youngest entry, from
the store, or from the spill area when the store is empty, and goes there. A full store whose spill area has no room
traps STACKOVF, an empty store with an empty spill area traps STACKUNF, and a callr to an address that is no multiple of
4 traps ALIGN before the push. So call, callr and ret complete in every one of these cases but the traps. (R89, R88) -/
def Obligations.CallReturn : Prop :=
  ∀ (s : State) (a : Reg) (o : BitVec 26),
    let dest (c : State) (r : Word) : Word := if r.toNat < 0x3C000 then 0xFF00000001300000 + 0x3C000 * BitVec.ofNat 64 c.curCtx + r else r
    let slot := s.cur.rasBase + BitVec.ofNat 64 (8 * s.cur.rasSpl)
    let last := s.cur.rasBase + BitVec.ofNat 64 (8 * (s.cur.rasSpl - 1))
    (s.cur.ras.length < 16 →
      exec (.call o) s = .next (s.setCur { s.cur with ras := (s.cur.pc + 4) :: s.cur.ras, pc := s.cur.pc + 4 * o.signExtend 64 }) ∧
      ((s.reg a).toNat % 4 = 0 → exec (.callr a) s =
        .next (s.setCur { s.cur with ras := (s.cur.pc + 4) :: s.cur.ras, pc := dest s (s.reg a) }))) ∧
    (16 ≤ s.cur.ras.length → s.cur.rasBase.toNat + 8 * (s.cur.rasSpl + 1) ≤ s.cur.rasLim.toNat → slot.toNat % 8 = 0 → s.cur.invalid = none →
      ∀ t loc ord, s.resolve s.threadAgent slot.toNat 8 .write = (t, .ok loc ord) →
      let u := t.storeBytes t.threadAgent loc (wordBytes 8 (t.cur.ras.getLastD 0))
      let thr : Thread := { t.cur with ras := (s.cur.pc + 4) :: t.cur.ras.take 15, rasSpl := t.cur.rasSpl + 1 }
      exec (.call o) s = .next (u.setCur { thr with pc := t.cur.pc + 4 * o.signExtend 64 }) ∧
      ((s.reg a).toNat % 4 = 0 → exec (.callr a) s = .next (u.setCur { thr with pc := dest u (t.reg a) }))) ∧
    ((s.reg a).toNat % 4 ≠ 0 → exec (.callr a) s = .next (s.trap 0x0B (s.reg a))) ∧
    (16 ≤ s.cur.ras.length → s.cur.rasLim.toNat < s.cur.rasBase.toNat + 8 * (s.cur.rasSpl + 1) →
      exec (.call o) s = .next (s.trap 0x07 0) ∧ ((s.reg a).toNat % 4 = 0 → exec (.callr a) s = .next (s.trap 0x07 0))) ∧
    (∀ x rest, s.cur.ras = x :: rest → exec .ret s = .next (s.setCur { s.cur with ras := rest, pc := x })) ∧
    (s.cur.ras = [] → s.cur.rasSpl = 0 → exec .ret s = .next (s.trap 0x08 0)) ∧
    (s.cur.ras = [] → 0 < s.cur.rasSpl → last.toNat % 8 = 0 → s.cur.invalid = none →
      ∀ t loc ord, s.resolve s.threadAgent last.toNat 8 .read = (t, .ok loc ord) →
      exec .ret s = .next (t.setCur { t.cur with rasSpl := t.cur.rasSpl - 1, pc := bytesWord (t.loadBytes t.curInstId loc 8) }))

/-- Where TVEC is not 0, a trap of the acting thread sets EPC to the address of the instruction, CAUSE to the kind with
async 0 and src 15, TVAL to the value named, and the pc to TVEC; every register and every other field of the thread that
R37 names keeps its value, every other thread keeps its registers and pc, and memory, the instances, the queues and the
operations of the device are unchanged. The unit the instruction took at issue is given back, nothing else of the sheet
changes but the thread, and the open issue group of streams ends: its streams join the held set where one of them is in
bank B or the held set is not empty, and become live otherwise; no other stream changes. (R85, R301, R84, R98) -/
def Obligations.TrapEntry : Prop :=
  ∀ (s : State) (kind : BitVec 8) (tval : Word), s.cur.tvec ≠ 0 → s.curCtx < 4 →
    (s.trap kind tval).cur.epc = s.cur.pc ∧ (s.trap kind tval).cur.cause = 0x7800000000000000 ||| kind.setWidth 64 ∧
    (s.trap kind tval).cur.tval = tval ∧ (s.trap kind tval).cur.pc = s.cur.tvec ∧
    (∀ r, (s.trap kind tval).reg r = s.reg r) ∧
    (s.trap kind tval).cur.tvec = s.cur.tvec ∧ (s.trap kind tval).cur.ras = s.cur.ras ∧
    (s.trap kind tval).cur.rasSpl = s.cur.rasSpl ∧ (s.trap kind tval).cur.rasBase = s.cur.rasBase ∧
    (s.trap kind tval).cur.rasLim = s.cur.rasLim ∧ (s.trap kind tval).cur.descs = s.cur.descs ∧
    (s.trap kind tval).cur.events = s.cur.events ∧ (s.trap kind tval).cur.binds = s.cur.binds ∧
    (∀ sheet ctx, ctx < 4 → ¬(sheet = s.curSheet ∧ ctx = s.curCtx) → (s.trap kind tval).thread sheet ctx = s.thread sheet ctx) ∧
    (∀ a, (s.trap kind tval).mem.get a = s.mem.get a) ∧
    (s.trap kind tval).insts = s.insts ∧ (s.trap kind tval).ops = s.ops ∧ (s.trap kind tval).nodes = s.nodes ∧
    (s.trap kind tval).tiles = s.tiles ∧ (s.trap kind tval).drover = s.drover ∧
    (∀ sheet, ((s.trap kind tval).sheet sheet).queues = (s.sheet sheet).queues) ∧
    (∀ n, n ≠ s.curSheet → (s.trap kind tval).sheet n = s.sheet n) ∧
    (s.trap kind tval).sheet s.curSheet = { s.sheet s.curSheet with
      threads := ((s.trap kind tval).sheet s.curSheet).threads,
      units := (s.sheet s.curSheet).units.set s.curCtx ((s.sheet s.curSheet).units.get s.curCtx + 1),
      taken := (s.sheet s.curSheet).taken.set s.curCtx ((s.sheet s.curSheet).taken.get s.curCtx - 1) } ∧
    (s.trap kind tval).cur.group = [] ∧
    (∀ k, k ∉ s.cur.group → aget? (s.trap kind tval).streams k = aget? s.streams k) ∧
    (let hold := s.cur.held ≠ [] ∨ ∃ j ∈ s.cur.group, ∃ x, aget? s.streams j = some x ∧ x.bank = 1
     (s.cur.group = [] ∨ ¬hold → (s.trap kind tval).cur.held = s.cur.held) ∧
     (s.cur.group ≠ [] → hold → (s.trap kind tval).cur.held = s.cur.held ++ s.cur.group) ∧
     (∀ k st, k ∈ s.cur.group → aget? s.streams k = some st →
       (hold → aget? (s.trap kind tval).streams k = some { st with state := .held }) ∧
       (¬hold → aget? (s.trap kind tval).streams k = some { st with state := .live })))

/-- Where TVEC is 0 the thread enters no handler: the instance of the acting thread is gone, its slice is gone, and one
completion record with status 2, the trap's kind and the code given waits for the VF of the slice. (R303, R343) -/
def Obligations.TrapWithoutHandlerEndsLaunch : Prop :=
  ∀ (s : State) (id : Nat) (i : Inst) (x : Slice) (kind : BitVec 8) (tval : Word) (code : BitVec 16), s.cur.tvec = 0 →
    s.curInst = some (id, i) → aget? s.insts id = some i → aget? s.slices i.slice = some x → x.inst = some id →
    aget? (s.trapCode kind tval code).insts id = none ∧ aget? (s.trapCode kind tval code).slices i.slice = none ∧
    ∃ c, ((s.trapCode kind tval code).vf x.vf).completions = (s.vf x.vf).completions ++ [c] ∧
      c.status = 2 ∧ c.kind = kind ∧ c.code = code

/-- nop only moves on; trap takes the program trap with TVAL = code; brk takes the breakpoint trap with TVAL 0; a word that
does not decode traps ILLEGAL with the word in TVAL. A fetch outside the code region of a thread that is not entering a
handler and has one (TVEC not 0) takes the ACCESS trap with the address fetched in TVAL and, for the fetch is the
instruction's, in EPC (log entry 133); of a thread that is entering a handler it is a double fault: the launch of the
thread, if it is a thread of one, ends with DOUBLE_FAULT, and the bulkhead is in RESET. eret sets the pc
to EPC and changes nothing else of the thread, for a thread that has no open report to close. What the trap does is
TrapEntry. (R66, R82, R114, R306) -/
def Obligations.SystemInstructions : Prop :=
  ∀ (s : State) (c : BitVec 16) (w : Word),
    exec .nop s = .next (s.setCur { s.cur with pc := s.cur.pc + 4 }) ∧
    exec (.trap c) s = .next (s.trapCode 0x10 (c.setWidth 64) c) ∧
    exec .brk s = .next (s.trap 0x11 0) ∧
    exec (.illegalInstruction w) s = .next (s.trap 0x01 w) ∧
    (let addr := s.fetchAddr s.curSheet s.curCtx
     inCode s.curCtx addr.toNat = false →
      (s.cur.entering = false → s.cur.tvec ≠ 0 → s.curCtx < 4 → ∃ t, exec .instructionFetchFault s = .next t ∧ t.mem = s.mem ∧ t.insts = s.insts ∧
        t.cur = { (s.trap 0x0A addr).cur with epc := addr } ∧ t.cur.pc = s.cur.tvec ∧ t.cur.tval = addr ∧ t.cur.regs = s.cur.regs ∧
        t.cur.cause = 0x7800000000000000 ||| 0x0A) ∧
      (s.cur.entering = true → s.curInst = none → (s.bulkhead (bhOf s.curSheet)).state = .active → s.opsFrom (bhOf s.curSheet) = [] →
        s.instsOn (bhOf s.curSheet) = [] → (s.bulkhead (bhOf s.curSheet)).holders = [] →
        ∃ t, exec .instructionFetchFault s = .next t ∧ (t.bulkhead (bhOf s.curSheet)).state = .reset) ∧
      (∀ id i x, s.cur.entering = true → s.curInst = some (id, i) → aget? s.insts id = some i → aget? s.slices i.slice = some x →
        x.inst = some id → (s.bulkhead (bhOf s.curSheet)).state = .active → s.instsOn (bhOf s.curSheet) = [id] →
        s.opsFrom (bhOf s.curSheet) = [] → s.drover.recordWrites = [] → (∀ n, s.tdiRuns n = false) →
        ∃ t c, exec .instructionFetchFault s = .next t ∧ (t.bulkhead (bhOf s.curSheet)).state = .reset ∧
          aget? t.insts id = none ∧ aget? t.slices i.slice = none ∧
          (t.vf x.vf).completions = (s.vf x.vf).completions ++ [c] ∧ c.status = 2 ∧ c.kind = 0x0C)) ∧
    (s.curInst = none → exec .eret s = .next (s.setCur { s.cur with pc := s.cur.epc })) ∧
    (∀ id i, s.curInst = some (id, i) → i.openReport = none → exec .eret s = .next (s.setCur { s.cur with pc := s.cur.epc }))

/-- When the base thread of an instance executes eret with a report open and none queued, the pc becomes EPC, the report is
closed, the instance is no longer frozen and starts to thaw on every sheet of its chase; with further reports queued the
instance stays frozen and only the open report is closed. (R305, R114) -/
def Obligations.EretClosesReport : Prop :=
  ∀ (s : State) (id : Nat) (i : Inst) (r : Report), s.curInst = some (id, i) → aget? s.insts id = some i →
    i.openReport = some r → i.base = s.curSheet →
    ∃ t, exec .eret s = .next t ∧ t.cur = { s.cur with pc := s.cur.epc } ∧
      (i.reports = [] → ∃ j, aget? t.insts id = some j ∧ j.openReport = none ∧ j.frozen = false ∧ j.thawing = i.sheets) ∧
      (i.reports ≠ [] → ∃ j, aget? t.insts id = some j ∧ j.openReport = none ∧ j.frozen = i.frozen ∧ j.reports = i.reports)

/-- What amo stores is the function of R91 at the width: the sum that wraps, the signed minimum and maximum, the bitwise and and
or, and gb itself. Where the address ga + sext(off16) is aligned to the width and the access may be made at location loc
(State.resolve), ld zero-extends the bytes there into gd; st writes the low bytes of gd there; amo writes what its function makes of the
old value and gb and puts the old value in gd; cas writes gb only where the old value equals the low bytes of gd (else it
writes no byte, and holds its line as the write would), and puts the old value in gd. Each answers a next state with the
pc past both words. The accesses that must publish at a cut (an SO page, or .rel.sys, of an instance) are stated apart
(PublishingAccessWaits). (R91) -/
def Obligations.MemoryPairs : Prop :=
  (∀ (n : Nat) (x y : BitVec n), 0 < n →
    amoNew .add n x.toNat y.toNat = (x + y).toNat ∧
    amoNew .min n x.toNat y.toNat = (if y.toInt < x.toInt then y else x).toNat ∧
    amoNew .max n x.toNat y.toNat = (if x.toInt < y.toInt then y else x).toNat ∧
    amoNew .and n x.toNat y.toNat = (x &&& y).toNat ∧ amoNew .or n x.toNat y.toNat = (x ||| y).toNat ∧
    amoNew .xchg n x.toNat y.toNat = y.toNat) ∧
  ∀ (s t : State) (d a b : Reg) (off : BitVec 16) (wd : Width) (ord : MemOrd) (sc : Scope) (fn : AmoFn) (loc : Nat) (po : BitVec 2),
    (s.reg a + off.signExtend 64).toNat % widthBytes wd = 0 → s.cur.invalid = none →
    (s.resolve s.threadAgent (s.reg a + off.signExtend 64).toNat (widthBytes wd) .read = (t, .ok loc po) →
      exec (.ld d a off wd ord sc) s =
        .next (t.setCur ((t.cur.setReg d (bytesWord (t.loadBytes t.curInstId loc (widthBytes wd)))).advance 8))) ∧
    (s.resolve s.threadAgent (s.reg a + off.signExtend 64).toNat (widthBytes wd) .write = (t, .ok loc po) → t.publishes loc po ord sc = false →
      exec (.st d a off wd ord sc) s =
        .next ((t.storeBytes t.threadAgent loc (wordBytes (widthBytes wd) (t.reg d))).setCur (t.cur.advance 8))) ∧
    (s.resolve s.threadAgent (s.reg a + off.signExtend 64).toNat (widthBytes wd) .atomic = (t, .ok loc po) → t.publishes loc po ord sc = false →
      exec (.amo d a b off wd ord sc fn) s =
        .next ((t.storeBytes t.threadAgent loc (natBytes (widthBytes wd)
          (amoNew fn (8 * widthBytes wd) (leNat (t.loadBytes t.curInstId loc (widthBytes wd)))
            ((t.reg b).toNat % 2 ^ (8 * widthBytes wd))))).setCur
          ((t.cur.setReg d (bytesWord (t.loadBytes t.curInstId loc (widthBytes wd)))).advance 8)) ∧
      (leNat (t.loadBytes t.curInstId loc (widthBytes wd)) = (t.reg d).toNat % 2 ^ (8 * widthBytes wd) →
        exec (.cas d a b off wd ord sc) s =
          .next ((t.storeBytes t.threadAgent loc (wordBytes (widthBytes wd) (t.reg b))).setCur
            ((t.cur.setReg d (bytesWord (t.loadBytes t.curInstId loc (widthBytes wd)))).advance 8))) ∧
      (leNat (t.loadBytes t.curInstId loc (widthBytes wd)) ≠ (t.reg d).toNat % 2 ^ (8 * widthBytes wd) →
        exec (.cas d a b off wd ord sc) s =
          .next ((t.storeBytes t.threadAgent loc []).setCur
            ((t.cur.setReg d (bytesWord (t.loadBytes t.curInstId loc (widthBytes wd)))).advance 8))))

/-- A pair whose address is not aligned to its width traps ALIGN with TVAL = the address; one whose page is declared invalid
traps XLATE; one the thread may not make traps ACCESS, each with TVAL = the address. No byte of memory and no register
of the thread changes. (R91, R92, R85) -/
def Obligations.PairTraps : Prop :=
  ∀ (s : State) (d a b : Reg) (off : BitVec 16) (wd : Width) (ord : MemOrd) (sc : Scope) (fn : AmoFn) (i : Instr) (k : AccessKind),
    (i = .ld d a off wd ord sc ∧ k = .read) ∨ (i = .st d a off wd ord sc ∧ k = .write) ∨
      (i = .amo d a b off wd ord sc fn ∧ k = .atomic) ∨ (i = .cas d a b off wd ord sc ∧ k = .atomic) →
    let addr := s.reg a + off.signExtend 64
    (addr.toNat % widthBytes wd ≠ 0 → exec i s = .next (s.trap 0x0B addr)) ∧
    (addr.toNat % widthBytes wd = 0 → s.cur.invalid = some addr → exec i s = .next (s.trap 0x09 addr)) ∧
    (addr.toNat % widthBytes wd = 0 → s.cur.invalid ≠ some addr → ∀ t,
      (s.resolve s.threadAgent addr.toNat (widthBytes wd) k = (t, .xlate) → exec i s = .next (t.trap 0x09 addr)) ∧
      (s.resolve s.threadAgent addr.toNat (widthBytes wd) k = (t, .access) → exec i s = .next (t.trap 0x0A addr))) ∧
    (∀ (t : State) kind r, t = s ∨ t = (s.resolve s.threadAgent addr.toNat (widthBytes wd) k).1 → t.cur.tvec ≠ 0 → t.curCtx < 4 →
      (t.trap kind addr).reg r = s.reg r ∧ (t.trap kind addr).cur.tval = addr ∧ ∀ x, (t.trap kind addr).mem.get x = s.mem.get x)

/-- A fence at a scope below SYS only moves on (the model's one order of steps already keeps what it orders: log entry 3),
and so does fence.sys of a thread of no instance. fence.sys of a thread of an instance changes no byte of memory: the
thread waits for the commit of a cut, and at that commit (publishThread) it moves on. A st, amo or cas to an SO page or
with .rel.sys, of a thread of an instance, likewise changes no byte of memory and no register now but waits for the
commit; of a thread of no instance the store is made at once. (R94, R227) -/
def Obligations.PublishingAccessWaits : Prop :=
  (∀ (s : State) (sc : Scope),
    (sc ≠ .sys → exec (.fence sc) s = .next (s.setCur { s.cur with pc := s.cur.pc + 4 })) ∧
    (s.curInst = none → exec (.fence sc) s = .next (s.setCur { s.cur with pc := s.cur.pc + 4 })) ∧
    (s.curInst ≠ none → ∃ u, exec (.fence .sys) s = .next u ∧ u.cur = { s.cur with wait := some (.publish (.fence .sys) []) } ∧ u.mem = s.mem)) ∧
  (∀ (s : State) (i : Inst) (sheet : Nat), i.ctx < 4 → (s.thread sheet i.ctx).wait = some (.publish (.fence .sys) []) →
    (s.publishThread i sheet).thread sheet i.ctx = { s.thread sheet i.ctx with wait := none, pc := (s.thread sheet i.ctx).pc + 4 } ∧
    (s.publishThread i sheet).mem = s.mem) ∧
  (∀ (s t : State) (d a b : Reg) (off : BitVec 16) (wd : Width) (ord : MemOrd) (sc : Scope) (fn : AmoFn) (i : Instr) (k : AccessKind)
    (loc : Nat) (po : BitVec 2),
    (i = .st d a off wd ord sc ∧ k = .write) ∨ (i = .amo d a b off wd ord sc fn ∧ k = .atomic) ∨ (i = .cas d a b off wd ord sc ∧ k = .atomic) →
    (s.reg a + off.signExtend 64).toNat % widthBytes wd = 0 → s.cur.invalid = none →
    s.resolve s.threadAgent (s.reg a + off.signExtend 64).toNat (widthBytes wd) k = (t, .ok loc po) → t.publishes loc po ord sc = true →
    (t.curInst ≠ none → ∃ u, exec i s = .next u ∧ u.cur = { t.cur with wait := some (.publish i []) } ∧ u.mem = s.mem) ∧
    (t.curInst = none → i = .st d a off wd ord sc → ∃ u, exec i s = .next u ∧ u.cur = t.cur.advance 8 ∧
      u.mem = s.mem.write loc (wordBytes (widthBytes wd) (t.reg d))))

/-- From a state with canonical memory: a write by an instance to DM, FM or DS changes no byte of memory (it is held), the
instance's own loads of the bytes written give them, its loads of other bytes and the loads of every other instance give
what they gave; a write to TS or SS, or by no instance, changes exactly those bytes of memory. (R225, R229, R93) -/
def Obligations.StoreThenLoad : Prop :=
  ∀ (s : State) (g : Agent) (loc : Nat) (bs : List Byte), s.mem.wf = true →
    ((aget? s.insts g.inst = none ∨ isSheetScratch loc = true) →
      (∀ x, (s.storeBytes g loc bs).mem.get x = if loc ≤ x ∧ x < loc + bs.length then bs.getD (x - loc) 0 else s.mem.get x) ∧
      (s.storeBytes g loc bs).insts = s.insts) ∧
    (∀ i, aget? s.insts g.inst = some i → isSheetScratch loc = false →
      (s.storeBytes g loc bs).mem = s.mem ∧
      (bs ≠ [] → (s.storeBytes g loc bs).loadBytes g.inst loc bs.length = bs) ∧
      (∀ x, ¬(loc ≤ x ∧ x < loc + bs.length) → (s.storeBytes g loc bs).loadBytes g.inst x 1 = s.loadBytes g.inst x 1) ∧
      (∀ other x n, other ≠ g.inst → (s.storeBytes g loc bs).loadBytes other x n = s.loadBytes other x n))

/-- A ga that is not a multiple of 8 traps ALIGN with TVAL = ga. Where the 32-byte record at ga can be read, giving the bytes
bs and leaving the state t, dset traps ILLEGAL with TVAL = ga when a count of the pattern is 0 or bit 91 is set, else traps
ALIGN with TVAL = ga when the base or a stride is not a multiple of 4, and otherwise completes: it puts the pattern into
slot N of the thread and moves on. A record of n doublewords is read as n ld.d from its address on: each doubleword that
may be read adds its bytes to those got, and the first that is misaligned traps ALIGN, that lies on a page declared invalid
XLATE, and that may not be read ACCESS, each with the address of that doubleword in TVAL; after the last the instruction
goes on with the bytes. (R95, R96, R92) -/
def Obligations.DescriptorSet : Prop :=
  (∀ (s t : State) (n : BitVec 5) (a : Reg) (bs : List Byte),
    ((s.reg a).toNat % 8 ≠ 0 → exec (.dset n a) s = .next (s.trap 0x0B (s.reg a))) ∧
    ((s.reg a).toNat % 8 = 0 → (∀ go, s.readRecord (.dset n a) (s.reg a) 4 [] go = go t bs) →
      let ga := s.reg a
      let c0 := (descOf bs).c0
      let c1 := (descOf bs).c1
      let c2 := (descOf bs).c2
      (c0 = 0 ∨ c1 = 0 ∨ c2 = 0 ∨ (leNat bs).testBit 91 = true → exec (.dset n a) s = .next (t.trap 0x01 ga)) ∧
      (¬(c0 = 0 ∨ c1 = 0 ∨ c2 = 0 ∨ (leNat bs).testBit 91 = true) →
        ((descOf bs).base.toNat % 4 ≠ 0 ∨ (descOf bs).s0.toNat % 4 ≠ 0 ∨ (descOf bs).s1.toNat % 4 ≠ 0 ∨ (descOf bs).s2.toNat % 4 ≠ 0 →
          exec (.dset n a) s = .next (t.trap 0x0B ga)) ∧
        ((descOf bs).base.toNat % 4 = 0 → (descOf bs).s0.toNat % 4 = 0 → (descOf bs).s1.toNat % 4 = 0 → (descOf bs).s2.toNat % 4 = 0 →
          exec (.dset n a) s = .next (t.setCur { t.cur with descs := aset t.cur.descs n.toNat (descOf bs), pc := t.cur.pc + 4 }))))) ∧
  (∀ (s t : State) (i : Instr) (addr : Word) (n loc : Nat) (po : BitVec 2) (got : List Byte) (go : State → List Byte → State),
    s.readRecord i addr 0 got go = go s got ∧
    (addr.toNat % 8 ≠ 0 → s.readRecord i addr (n + 1) got go = s.trap 0x0B addr) ∧
    (addr.toNat % 8 = 0 → s.cur.invalid = some addr → s.readRecord i addr (n + 1) got go = s.trap 0x09 addr) ∧
    (addr.toNat % 8 = 0 → s.cur.invalid ≠ some addr →
      (s.resolve s.threadAgent addr.toNat 8 .read = (t, .ok loc po) →
        s.readRecord i addr (n + 1) got go = t.readRecord i (addr + 8) n (got ++ t.loadBytes t.curInstId loc 8) go) ∧
      (s.resolve s.threadAgent addr.toNat 8 .read = (t, .xlate) → s.readRecord i addr (n + 1) got go = t.trap 0x09 addr) ∧
      (s.resolve s.threadAgent addr.toNat 8 .read = (t, .access) → s.readRecord i addr (n + 1) got go = t.trap 0x0A addr)))

/-- strin and strout that name an empty descriptor slot trap ILLEGAL with the slot number in TVAL; at a port that an open
stream of the same thread and direction occupies the instruction waits; otherwise it completes: a new stream with the
pattern of the slot, its cursor at the start, joins the open issue group, and the thread moves on. stbar moves on when no
live stream of the thread remains, and otherwise waits for exactly the streams that are live now. (R96, R97, R98, R102) -/
def Obligations.StreamStart : Prop :=
  (∀ (s : State) (k n x : BitVec 5) (dir : Bool) (i : Instr),
    (i = .strin k n x ∧ dir = true) ∨ (i = .strout k n x ∧ dir = false) →
    (aget? s.cur.descs n.toNat = none → exec i s = .next (s.trap 0x01 (n.setWidth 64))) ∧
    (∀ d, aget? s.cur.descs n.toNat = some d → s.portTaken s.curSheet s.curCtx k.toNat dir = true →
      exec i s = .next (s.setCur { s.cur with wait := some (.port dir k n x) })) ∧
    (∀ d, aget? s.cur.descs n.toNat = some d → s.portTaken s.curSheet s.curCtx k.toNat dir = false →
      exec i s = .next (({ s with
          nextId := s.nextId + 1,
          streams := s.streams ++ [(s.nextId, {
            inst := s.curInstId, sheet := s.curSheet, ctx := s.curCtx, inbound := dir, port := k.toNat, bank := x.toNat,
            desc := d, cursor := 0, ahead := [], state := .group, stall := none, invalid := false })] } : State).setCur
        { s.cur with group := s.cur.group ++ [s.nextId], pc := s.cur.pc + 4 }))) ∧
  (∀ (s : State),
    ((∀ p ∈ s.streams, ¬(p.2.sheet = s.curSheet ∧ p.2.ctx = s.curCtx ∧ p.2.state = .live)) →
      exec .stbar s = .next (s.setCur { s.cur with pc := s.cur.pc + 4 })) ∧
    ((∃ p ∈ s.streams, p.2.sheet = s.curSheet ∧ p.2.ctx = s.curCtx ∧ p.2.state = .live) →
      ∃ l, exec .stbar s = .next (s.setCur { s.cur with wait := some (.stbar l) }) ∧
        ∀ k, k ∈ l ↔ ∃ st, (k, st) ∈ s.streams ∧ st.sheet = s.curSheet ∧ st.ctx = s.curCtx ∧ st.state = .live))

/-- bsel completes from every state: it resolves the held set by bit 0 of ga, the held streams of the bank it names become
live, those of the other bank are cancelled (what they read ahead and what they wait for is dropped), every other stream
stays as it is, the held set is empty afterwards and the thread moves on; nothing but the streams, the thread and the tags
of translations awaited changes. (R100) -/
def Obligations.BankSelect : Prop :=
  ∀ (s : State) (a : Reg), ∃ t, exec (.bsel a) s = .next t ∧
    t.cur = { s.cur with held := [], pc := s.cur.pc + 4 } ∧
    (∀ k, k ∉ s.cur.held → aget? t.streams k = aget? s.streams k) ∧
    (∀ k st, k ∈ s.cur.held → aget? s.streams k = some st →
      (st.bank = ((s.reg a).toNat % 2) → aget? t.streams k = some { st with state := .live }) ∧
      (st.bank = 1 - ((s.reg a).toNat % 2) → aget? t.streams k = some { st with state := .cancelled, stall := none, ahead := [] })) ∧
    t.sheets = (s.setCur t.cur).sheets ∧
    (∀ p ∈ t.drover.tags, p ∈ s.drover.tags) ∧
    { t with streams := s.streams, sheets := s.sheets, drover := { t.drover with tags := s.drover.tags } } = s

/-- scancel X completes from every state: it cancels every stream of the thread in bank X that is still open (what it read
ahead and what it waits for is dropped), takes it out of the held set, and moves on; every other stream stays as it is,
and nothing but the streams, the thread and the tags of translations awaited changes. (R101) -/
def Obligations.StreamCancel : Prop :=
  ∀ (s : State) (x : BitVec 5), ∃ t, exec (.scancel x) s = .next t ∧
    t.cur = { s.cur with held := t.cur.held, pc := s.cur.pc + 4 } ∧ t.cur.held.Sublist s.cur.held ∧
    (∀ k st, aget? s.streams k = some st → st.sheet = s.curSheet → st.ctx = s.curCtx → st.bank = x.toNat → st.state.open = true →
      aget? t.streams k = some { st with state := .cancelled, stall := none, ahead := [] } ∧ k ∉ t.cur.held) ∧
    (∀ k, (∀ st, (k, st) ∈ s.streams → ¬(st.sheet = s.curSheet ∧ st.ctx = s.curCtx ∧ st.bank = x.toNat ∧ st.state.open = true)) →
      aget? t.streams k = aget? s.streams k ∧ (k ∈ t.cur.held ↔ k ∈ s.cur.held)) ∧
    t.sheets = (s.setCur t.cur).sheets ∧
    (∀ p ∈ t.drover.tags, p ∈ s.drover.tags) ∧
    { t with streams := s.streams, sheets := s.sheets, drover := { t.drover with tags := s.drover.tags } } = s

/-- A misaligned ga traps ALIGN with TVAL = ga. Where the F flits at ga can be read, giving bs and leaving the state t: a class
of 3 to 15 or a reply of 0 traps ILLEGAL and a misaligned reply traps ALIGN, with TVAL 0 and nothing sent; otherwise, where
the completion object can be written, it gets the PENDING word of the operation; where the scoreboard has room amsg then
completes: the own-sheet scratch ranges the operation names join the scoreboard, the operation is forked with those flits,
not yet started, and the thread moves on; without room the thread waits. A completion object that may not be written, on a
page declared invalid or not the thread's, traps XLATE or ACCESS with its address in TVAL. (R77, R79, R80, R103, R175) -/
def Obligations.MessageSend : Prop :=
  ∀ (s t : State) (a : Reg) (f : BitVec 11) (bs : List Byte),
    ((s.reg a).toNat % 8 ≠ 0 → exec (.amsg a f) s = .next (s.trap 0x0B (s.reg a))) ∧
    ((s.reg a).toNat % 8 = 0 → (∀ go, s.readRecord (.amsg a f) (s.reg a) f.toNat [] go = go t bs) →
      let flits := wordsOf bs f.toNat
      let h := flits.getD 0 0
      let reply : Word := BitVec.ofNat 64 (h.toNat % 2 ^ 48)
      (3 ≤ h.toNat / 2 ^ 60 ∨ reply = 0 → exec (.amsg a f) s = .next (t.trap 0x01 0)) ∧
      (h.toNat / 2 ^ 60 < 3 → reply ≠ 0 → reply.toNat % 8 ≠ 0 → exec (.amsg a f) s = .next (t.trap 0x0B 0)) ∧
      (h.toNat / 2 ^ 60 < 3 → reply ≠ 0 → reply.toNat % 8 = 0 → t.cur.invalid = some reply →
        exec (.amsg a f) s = .next (t.trap 0x09 reply)) ∧
      (h.toNat / 2 ^ 60 < 3 → reply ≠ 0 → reply.toNat % 8 = 0 → t.cur.invalid ≠ some reply → ∀ u loc po,
        (t.resolve t.threadAgent reply.toNat 8 .write = (u, .access) → exec (.amsg a f) s = .next (u.trap 0x0A reply)) ∧
        (t.resolve t.threadAgent reply.toNat 8 .write = (u, .ok loc po) →
          let v := u.storeBytes u.threadAgent loc (wordBytes 8 (completionWord 0 (h.toNat / 2 ^ 60) (h.toNat / 2 ^ 52 % 256) 0))
          (v.boardRoom flits = true → ∃ w op, exec (.amsg a f) s = .next w ∧
            w.ops = v.ops ++ [(v.nextId, op)] ∧ op.flits = flits ∧ op.started = false ∧ op.status = none ∧ op.progress = 0 ∧
            op.inst = v.curInstId ∧ op.sheet = v.curSheet ∧ op.ctx = v.curCtx ∧
            (w.sheet v.curSheet).board = (v.sheet v.curSheet).board ++ (scoreRanges v.curSheet flits).map (fun p =>
              { op := some v.nextId, node := none, ctx := v.curCtx, first := p.1, last := p.2 }) ∧
            w.cur = { v.cur with wait := none, sent := aset v.cur.sent (h.toNat / 2 ^ 60) v.nextId, pc := v.cur.pc + 4 } ∧
            w.mem = v.mem ∧ w.insts = v.insts) ∧
          (v.boardRoom flits = false → exec (.amsg a f) s = .next (v.setCur { v.cur with wait := some (.amsg f.toNat flits) })))))

/-- A misaligned address traps ALIGN with TVAL 0, for R104 names no value. Where the object at ga can be read, apoll completes and writes the
word to gd whatever its status; await completes, writing it to gd, when its status is not PENDING (0), and waits otherwise.
(R80, R104) -/
def Obligations.CompletionObject : Prop :=
  ∀ (s t : State) (d a : Reg) (loc : Nat) (po : BitVec 2),
    ((s.reg a).toNat % 8 ≠ 0 → exec (.await d a) s = .next (s.trap 0x0B 0) ∧ exec (.apoll d a) s = .next (s.trap 0x0B 0)) ∧
    ((s.reg a).toNat % 8 = 0 → s.cur.invalid ≠ some (s.reg a) → s.resolve s.threadAgent (s.reg a).toNat 8 .read = (t, .ok loc po) →
      let w := bytesWord (t.loadBytes t.curInstId loc 8)
      exec (.apoll d a) s = .next (t.writeNext d w) ∧
      (w.toNat / 2 ^ 60 ≠ 0 → exec (.await d a) s = .next ((t.setCur { t.cur with wait := none }).writeNext d w)) ∧
      (w.toNat / 2 ^ 60 = 0 → exec (.await d a) s = .next (t.setCur { t.cur with wait := some (.await d a) })))

/-- For a thread of an instance: a misaligned gb traps ALIGN with TVAL = gb, an index ga beyond the chase ACCESS with TVAL = ga.
Where the chase has a sheet of index ga and the record at gb can be read (bytes bs, state t): when nothing waits at the
queue and the sheet's bulkhead is the tenant's and is not being switched, qpush completes in each case that has room: the
entry joins the hardware queue if that has fewer than 32 entries and the galley holds none, else the ring of a galley with
room, at its next slot; the thread moves on, and every register is as before. When neither has room, a push waits already,
the sheet's bulkhead is another tenant's or being switched, the ring's bank is parked, or the ring's slot stands in a line
another instance holds or in one a full proof buffer cannot take, the entry waits and so does the thread. A ring slot that
cannot be reached ends the launch of the instance that set the ring, with no byte of memory changed; that end, and delivery
as the pushing instance wrote it, are the model's choice (log entry 40). (R105, R253, R107, R225, R226, R289, R337) -/
def Obligations.QueuePush : Prop :=
  ∀ (s t : State) (k : BitVec 5) (a b : Reg) (bs : List Byte) (id : Nat) (i : Inst) (sheet : Nat),
    s.curInst = some (id, i) →
    ((s.reg b).toNat % 8 ≠ 0 → exec (.qpush k a b) s = .next (s.trap 0x0B (s.reg b))) ∧
    ((s.reg b).toNat % 8 = 0 → i.sheets.length ≤ (s.reg a).toNat → exec (.qpush k a b) s = .next (s.trap 0x0A (s.reg a))) ∧
    ((s.reg b).toNat % 8 = 0 → i.sheets[(s.reg a).toNat]? = some sheet →
      (∀ go, s.readRecord (.qpush k a b) (s.reg b) 4 [] go = go t bs) →
      let q := t.queue sheet k.toNat
      let e : QEntry := { bytes := bs, inst := t.curInstId, num := 0, place := none }
      let span (g : Galley) : Nat := g.next - (g.held.head?.map fun r => r.j).getD g.next
      let waits : Prop := ∃ u, exec (.qpush k a b) s = .next u ∧ u.cur = { t.cur with wait := some .qpush } ∧ u.mem = t.mem ∧
        u.queue sheet k.toNat = { q with waiting := q.waiting ++ [{ entry := e, pusher := some (t.curSheet, t.curCtx) }] }
      (q.waiting = [] → (t.bulkhead (bhOf sheet)).tag.toNat = t.tenantAt t.curSheet t.curCtx → (t.bulkhead (bhOf sheet)).state ≠ .switching →
        (q.hw.length < 32 → (∀ g, q.galley = some g → g.held = []) → ∃ u, exec (.qpush k a b) s = .next u ∧
          u.queue sheet k.toNat = { q with hw := q.hw ++ [{ e with num := q.pushes }], pushes := q.pushes + 1 } ∧
          u.cur = { t.cur with pc := t.cur.pc + 4 } ∧ u.mem = t.mem ∧
          ∀ sh n, ¬(sh = sheet ∧ n = k.toNat) → u.queue sh n = t.queue sh n) ∧
        (∀ g, q.galley = some g → ¬(q.hw.length < 32 ∧ g.held = []) → span g < g.size →
          (t.ringParked sheet g = true → waits) ∧
          (t.ringParked sheet g = false →
            (∀ loc, t.ringLoc sheet g g.next .write = some loc →
              let full := isSheetScratch loc = false ∧ t.proofFull (g.agent sheet t.curInstId) (loc / 64) = true
              (heldByOther t.insts t.curInstId (loc / 64) = false → ¬full → ∃ u, exec (.qpush k a b) s = .next u ∧
                u.queue sheet k.toNat = { q with
                  galley := some { g with next := g.next + 1, held := g.held ++ [{ j := g.next, inst := t.curInstId, num := q.pushes }] },
                  pushes := q.pushes + 1 } ∧
                u.cur = { t.cur with pc := t.cur.pc + 4 } ∧
                u.mem = (t.storeBytes (g.agent sheet t.curInstId) loc (padBytes 32 bs)).mem) ∧
              (heldByOther t.insts t.curInstId (loc / 64) = true ∨ full → waits)) ∧
            (t.ringLoc sheet g g.next .write = none → ∃ u, exec (.qpush k a b) s = .next u ∧ u.mem = t.mem ∧
              ∀ j x, aget? t.insts g.owner = some j → aget? t.slices j.slice = some x → x.inst = some g.owner → aget? u.insts g.owner = none)))) ∧
      (q.waiting ≠ [] ∨ (t.bulkhead (bhOf sheet)).tag.toNat ≠ t.tenantAt t.curSheet t.curCtx ∨ (t.bulkhead (bhOf sheet)).state = .switching ∨
          (32 ≤ q.hw.length ∧ q.galley = none) ∨
          (∃ g, q.galley = some g ∧ ¬(q.hw.length < 32 ∧ g.held = []) ∧ g.size ≤ span g) → waits))

/-- qpop of a queue whose hardware queue holds entries completes: it takes the head, its 32 bytes stand in the pop buffer of the
thread, gd gets the first eight (a write to g0 is discarded), the rest of the hardware queue and the galley stay, every
other queue stays, and the thread moves on; with an empty hardware queue it waits (an entry in the galley comes by a
refill). qcnt completes from every state and gives the entries of hardware queue and galley together. A refill moves the
oldest galley entry, with the bytes its slot holds, behind the hardware queue when that has fewer than 32 entries, changes
no byte of memory, and does nothing while the galley is empty; a slot that cannot be reached ends the launch of the
instance that set the ring, and the bytes delivered are those the pushing instance sees: both the model's choice (log entry
40). qctl completes with ga 32-aligned, gb from 1 to 2^20, the galley in use empty and a ring at a place R107 allows (own
SS below the code regions among them): the queue gets an empty galley of gb entries at ga and the thread moves on; gb = 0
removes the galley. A misaligned ga, a gb above 2^20, a galley in use that holds entries, and a ring at another place (own
SS that reaches the code regions or the private area among them) trap ILLEGAL with the value R107 names and nothing
changed; a ring on FM pages traps ACCESS with TVAL 0. (R106, R83, R253, R271, R107, R337) -/
def Obligations.QueuePopAndCount : Prop :=
  (∀ (s : State) (d : Reg) (k : BitVec 5), let q := s.queue s.curSheet k.toNat
    (∀ e rest, q.hw = e :: rest → s.curCtx < 4 → ∃ t, exec (.qpop d k) s = .next t ∧
      t.cur = { (s.cur.setReg d (bytesWord (e.bytes.take 8))) with pc := s.cur.pc + 4, wait := none, popless := false, barren := false } ∧
      t.mem = s.mem.write (ssLoc s.curSheet (popBuffer s.curCtx)) (padBytes 32 e.bytes) ∧
      t.queue s.curSheet k.toNat = { q with
        hw := rest, pops := q.pops + 1, popped := q.popped ++ [{ seq := q.pops, inst := s.curInstId, entry := e }] } ∧
      (∀ sh n, ¬(sh = s.curSheet ∧ n = k.toNat) → t.queue sh n = s.queue sh n)) ∧
    (q.hw = [] → exec (.qpop d k) s = .next (s.setCur { s.cur with wait := some (.qpop d k.toNat) })) ∧
    exec (.qcnt d k) s = .next (s.writeNext d (BitVec.ofNat 64 (q.hw.length + (q.galley.map fun g => g.held.length).getD 0)))) ∧
  (∀ (s : State) (sheet n : Nat), let q := s.queue sheet n
    (∀ g e rest, q.galley = some g → g.held = e :: rest → q.hw.length < 32 → s.stalledInst g.owner = false →
      s.parkedFor sheet g.tenant = false → s.ringParked sheet g = false →
      (∀ loc, s.ringLoc sheet g e.j .read = some loc → heldByOther s.insts e.inst (loc / 64) = false →
        ∃ t, exec (.galleyRefill sheet n) s = .next t ∧ t.mem = s.mem ∧ t.queue sheet n = { q with
          hw := q.hw ++ [{ bytes := s.loadBytes e.inst loc 32, inst := e.inst, num := e.num, place := some (g.set, e.j) }],
          galley := some { g with held := rest } }) ∧
      (s.ringLoc sheet g e.j .read = none →
        ∃ t, exec (.galleyRefill sheet n) s = .next t ∧ t.mem = s.mem ∧
          ∀ j x, aget? s.insts g.owner = some j → aget? s.slices j.slice = some x → x.inst = some g.owner → aget? t.insts g.owner = none)) ∧
    ((∀ g, q.galley = some g → g.held = []) → exec (.galleyRefill sheet n) s = .next s)) ∧
  (∀ (s : State) (k : BitVec 5) (a b : Reg), let ga := s.reg a; let n := (s.reg b).toNat; let q := s.queue s.curSheet k.toNat
    let ring : Galley := { base := ga, tenant := s.tenantAt s.curSheet s.curCtx, size := n, set := q.settings, next := 0, held := [], owner := s.curInstId }
    let set : State := (s.setQueue s.curSheet k.toNat { q with galley := some ring, settings := q.settings + 1 }).advance
    (ga.toNat % 32 ≠ 0 → exec (.qctl k a b) s = .next (s.trap 0x01 ga)) ∧
    (ga.toNat % 32 = 0 → 1048576 < n → exec (.qctl k a b) s = .next (s.trap 0x01 (s.reg b))) ∧
    (ga.toNat % 32 = 0 → n ≤ 1048576 →
      (∀ g, q.galley = some g → g.held ≠ [] → exec (.qctl k a b) s = .next (s.trap 0x01 ga)) ∧
      ((∀ g, q.galley = some g → g.held = []) →
        (n = 0 → exec (.qctl k a b) s = .next ((s.setQueue s.curSheet k.toNat { q with galley := none }).advance)) ∧
        (0 < n →
          (s.ringPlace (s.tenantAt s.curSheet s.curCtx) ga (32 * n) = .good → exec (.qctl k a b) s = .next set) ∧
          (s.ringPlace (s.tenantAt s.curSheet s.curCtx) ga (32 * n) = .illegal → exec (.qctl k a b) s = .next (s.trap 0x01 ga)) ∧
          (s.ringPlace (s.tenantAt s.curSheet s.curCtx) ga (32 * n) = .fm → exec (.qctl k a b) s = .next (s.trap 0x0A 0)) ∧
          (0xFF00000001000000 ≤ ga.toNat → ga.toNat + 32 * n ≤ 0xFF00000001300000 → exec (.qctl k a b) s = .next set) ∧
          (0xFF00000001000000 ≤ ga.toNat → ga.toNat < 0xFF00000001400000 → 0xFF00000001300000 < ga.toNat + 32 * n →
            exec (.qctl k a b) s = .next (s.trap 0x01 ga))))))

/-- qbind completes where no other thread of the sheet has bound the queue: outside an invocation it binds or (offset 0) unbinds
the queue at once, inside one it is kept until the invocation ends; where another thread has bound the queue it traps
ILLEGAL. handlerInvocation completes for a thread in wfi that may move, has a unit and is the one its sheet chooses, with a
bound queue that holds an entry: it starts the handler of the lowest such queue and pops nothing. yield completes: inside
an invocation it returns to waiting in the same wfi with the bindings kept applied in their order; outside it moves on and
ends the turn. wfi inside an invocation traps ILLEGAL; with a flag set and no entry in a bound queue it moves on, and with
no flag set it waits. (R108, R114, R254) -/
def Obligations.HandlersAndWaiting : Prop :=
  ∀ (s : State) (k : BitVec 5) (o : BitVec 16),
    let h : Option Word := if o = 0 then none else some (s.cur.pc + 4 * o.signExtend 64)
    ((∃ c, c < 4 ∧ c ≠ s.curCtx ∧ aget? (s.thread s.curSheet c).binds k.toNat ≠ none) → exec (.qbind k o) s = .next (s.trap 0x01 0)) ∧
    ((∀ c, c < 4 → c ≠ s.curCtx → aget? (s.thread s.curSheet c).binds k.toNat = none) →
      (s.cur.invocation = none → exec (.qbind k o) s = .next (s.setCur { s.cur with
        binds := (match h with
          | some a => aset s.cur.binds k.toNat a
          | none => adel s.cur.binds k.toNat), pc := s.cur.pc + 4 })) ∧
      (s.cur.invocation ≠ none → exec (.qbind k o) s =
        .next (s.setCur { s.cur with laterBinds := s.cur.laterBinds ++ [(k.toNat, h)], pc := s.cur.pc + 4 }))) ∧
    (∀ sheet ctx q a, q < 32 → (s.thread sheet ctx).wait = some .wfi → s.threadMay sheet ctx = true → 0 < (s.sheet sheet).units.get ctx →
      s.chooseThread sheet = some ctx → aget? (s.thread sheet ctx).binds q = some a → 0 < (s.queue sheet q).count →
      (∀ j, j < q → aget? (s.thread sheet ctx).binds j = none ∨ (s.queue sheet j).count = 0) →
      exec (.handlerInvocation sheet ctx) s = .next (s.setThread sheet ctx
        { s.thread sheet ctx with wait := none, invocation := some (s.thread sheet ctx).pc, pc := a, popless := true })) ∧
    (s.cur.invocation = none → exec .yield s = .next ((s.setCur { s.cur with pc := s.cur.pc + 4 }).endTurn s.curSheet s.curCtx)) ∧
    (∀ pc, s.cur.invocation = some pc → ∃ t, exec .yield s = .next t ∧ t.mem = s.mem ∧ t.cur = { s.cur with
      binds := s.cur.laterBinds.foldl (fun l p => match p.2 with
        | some a => aset l p.1 a
        | none => adel l p.1) s.cur.binds,
      laterBinds := [], invocation := none, pc := pc, wait := some .wfi, popless := false, barren := s.cur.popless }) ∧
    (s.cur.invocation ≠ none → exec .wfi s = .next (s.trap 0x01 0)) ∧
    (s.cur.invocation = none → s.cur.events ≠ 0 → (∀ q, q < 32 → aget? s.cur.binds q = none ∨ (s.queue s.curSheet q).count = 0) →
      exec .wfi s = .next (s.setCur { s.cur with wait := none, pc := s.cur.pc + 4 })) ∧
    (s.cur.invocation = none → s.cur.events = 0 → exec .wfi s = .next (s.setCur { s.cur with wait := some .wfi }))

/-- A gb that is not a multiple of 8 traps ALIGN with TVAL 0, for R109 names no value. Where the record at gb can be read, xq of a thread of no instance completes at
once with the drover's answer in gd; that of an instance's thread waits for the commit of a cut, with no byte of memory
changed, and at that commit (publishThread) completes with the answer, the record being the bytes read at issue. The drover
answers 1 where the filter entry is invalid, is not the sending tenant's, or its destination's bulkhead neither is active
with the tag of the tenant it names nor parks that tenant; 2 for a length of 0 or above the entry's maximum; 3 where the
rate is exceeded; 4 where the tenant is parked there, or the destination queue has no room for it beyond what waits there
already (room being the free hardware entries while the galley holds none, and the free slots of the galley); and 0 where
it accepted the record, which then stands, padded to 32 bytes, behind the others in the destination queue, or behind the
pushes that wait there (log entry 40). (R109, R292, R293, R227) -/
def Obligations.DroverMessage : Prop :=
  (∀ (s t : State) (d a b : Reg) (bs : List Byte), let len := (s.reg a).toNat / 256 % 16
    ((s.reg b).toNat % 8 ≠ 0 → exec (.xq d a b) s = .next (s.trap 0x0B 0)) ∧
    ((s.reg b).toNat % 8 = 0 → (∀ go, s.readRecord (.xq d a b) (s.reg b) (if len ≤ 8 then (len + 1) / 2 else 0) [] go = go t bs) →
      (t.curInst = none → ∃ u v, t.filterSend (t.tenantAt t.curSheet t.curCtx) ((t.reg a).toNat % 256) ((t.reg a).toNat / 256 % 16)
          (bs.take (4 * ((t.reg a).toNat / 256 % 16))) = (u, v) ∧
        exec (.xq d a b) s = .next (u.writeNext d (BitVec.ofNat 64 v))) ∧
      (t.curInst ≠ none → ∃ u, exec (.xq d a b) s = .next u ∧
        u.cur = { t.cur with wait := some (.publish (.xq d a b) bs) } ∧ u.mem = t.mem))) ∧
  (∀ (s u : State) (i : Inst) (sheet x : Nat) (d a b : Reg) (bs : List Byte),
    let v := (s.setThread sheet i.ctx { s.thread sheet i.ctx with wait := none }).actAs sheet i.ctx
    let len := ((s.thread sheet i.ctx).reg a).toNat / 256 % 16
    i.ctx < 4 → (s.thread sheet i.ctx).wait = some (.publish (.xq d a b) bs) →
    v.filterSend (v.tenantAt sheet i.ctx) (((s.thread sheet i.ctx).reg a).toNat % 256) len (bs.take (4 * len)) = (u, x) →
    (s.publishThread i sheet).thread u.curSheet u.curCtx = (u.writeNext d (BitVec.ofNat 64 x)).cur ∧
    (s.publishThread i sheet).mem = u.mem) ∧
  (∀ (s : State) (tenant e len : Nat) (bytes : List Byte),
    let v := agetD s.drover.filters e 0
    let sheet := (v.extractLsb' 105 8).toNat
    let q := (v.extractLsb' 102 3).toNat
    let dst := (v.extractLsb' 113 7).toNat
    let bh := s.bulkhead (bhOf sheet)
    let here : Prop := bh.state = .active ∧ bh.tag.toNat = dst
    let got := s.queue sheet q
    let room : Nat := match got.galley with
      | none => 32 - got.hw.length
      | some g => (if g.held = [] then 32 - got.hw.length else 0) + (g.size - (g.next - (g.held.head?.map fun r => r.j).getD g.next))
    (v.getLsbD 127 = false ∨ (v.extractLsb' 120 7).toNat ≠ tenant → s.filterSend tenant e len bytes = (s, 1)) ∧
    (v.getLsbD 127 = true → (v.extractLsb' 120 7).toNat = tenant →
      (¬here → bh.parks dst = false → s.filterSend tenant e len bytes = (s, 1)) ∧
      (here ∨ bh.parks dst = true →
        (len = 0 ∨ (v.extractLsb' 98 4).toNat < len → s.filterSend tenant e len bytes = (s, 2)) ∧
        (0 < len → len ≤ (v.extractLsb' 98 4).toNat →
          ((v.extractLsb' 74 8).toNat * 1000000 < agetD s.drover.buckets e 0 + 1000000 → s.filterSend tenant e len bytes = (s, 3)) ∧
          (agetD s.drover.buckets e 0 + 1000000 ≤ (v.extractLsb' 74 8).toNat * 1000000 →
            (¬here ∨ room ≤ got.waiting.length → s.filterSend tenant e len bytes = (s, 4)) ∧
            (here → got.waiting.length < room → s.strayArray dst [⟨sheet, .queues, q⟩] = none →
              (got.waiting = [] → got.hw.length < 32 → (∀ g, got.galley = some g → g.held = []) →
                ∃ u, s.filterSend tenant e len bytes = (u, 0) ∧ u.mem = s.mem ∧ u.queue sheet q = { got with
                  hw := got.hw ++ [{ bytes := padBytes 32 bytes, inst := 0, num := got.pushes, place := none }], pushes := got.pushes + 1 }) ∧
              (got.waiting ≠ [] → ∃ u, s.filterSend tenant e len bytes = (u, 0) ∧ u.mem = s.mem ∧ u.queue sheet q = { got with
                waiting := got.waiting ++ [{ entry := { bytes := padBytes 32 bytes, inst := 0, num := 0, place := none }, pusher := none }] })))))))

/-- fload, fplace and frun on a sheet that is not the chase base (or in no slice) trap ILLEGAL. On the base sheet, with an
8-aligned address that may be read: fload gives -1 in gd where no image stands there, where the image is refused, and where
the place is neither DM nor a DS bank of the tenant, -2 where every handle is in use or the forme area has no room, and
else the lowest free handle 1 to 15, under which it keeps the image; a misaligned address traps ALIGN. fplace completes with
-1 for an unused handle, -2 where the image has no variant for N, -3 where no position could ever hold the chase, and only
on answer 0 becomes the accepted next phase. frun without an accepted phase traps ILLEGAL, with a misaligned ga ALIGN, and
else completes: it stores the phase and its eight parameters, read at ga, and moves on. Images stand in State as data (log
entry 5); the answer for a place that holds no image, or where none may stand, and the ALIGN traps of ga are log entry 44;
that a refused fplace keeps the earlier phase is log entry 125. (R110, R12) -/
def Obligations.FormeControl : Prop :=
  (∀ (s : State) (d a b : Reg), s.basePhase = none →
    exec (.fload d a) s = .next (s.trap 0x01 0) ∧ exec (.fplace d a b) s = .next (s.trap 0x01 0) ∧ exec (.frun a) s = .next (s.trap 0x01 0)) ∧
  (∀ (s t : State) (d a b : Reg) (id : Nat) (i : Inst) (x : Slice) (loc : Nat) (po : BitVec 2), s.basePhase = some (id, i, x) →
    ((s.reg a).toNat % 8 ≠ 0 → exec (.fload d a) s = .next (s.trap 0x0B (s.reg a))) ∧
    ((s.reg a).toNat % 8 = 0 → s.cur.invalid ≠ some (s.reg a) → s.resolve s.threadAgent (s.reg a).toNat 8 .read = (t, .ok loc po) →
      (aget? t.images loc = none → exec (.fload d a) s = .next (t.writeNext d (-1))) ∧
      (∀ m y, aget? t.images loc = some m → aget? t.slices i.slice = some y →
        (m.ok = false ∨ t.isImagePlace y.tenant loc = false → exec (.fload d a) s = .next (t.writeNext d (-1))) ∧
        (m.ok = true → t.isImagePlace y.tenant loc = true →
          (y.freeHandle = none → exec (.fload d a) s = .next (t.writeNext d (-2))) ∧
          (∀ h, y.freeHandle = some h → 1 ≤ h ∧ h ≤ 15 ∧ aget? y.handles h = none ∧ (∀ j, 1 ≤ j → j < h → aget? y.handles j ≠ none) ∧
            (Config.formeArea < y.imageBytes + m.bytes → exec (.fload d a) s = .next (t.writeNext d (-2))) ∧
            (y.imageBytes + m.bytes ≤ Config.formeArea → exec (.fload d a) s =
              .next ((t.setSlice i.slice { y with handles := aset y.handles h m }).writeNext d (BitVec.ofNat 64 h))))))) ∧
    (aget? x.handles (s.reg a).toNat = none → exec (.fplace d a b) s = .next (s.writeNext d (-1))) ∧
    (∀ m, aget? x.handles (s.reg a).toNat = some m →
      (m.variant (s.reg b).toNat = none → exec (.fplace d a b) s = .next (s.writeNext d (-2))) ∧
      (∀ v, m.variant (s.reg b).toNat = some v →
        (s.couldFit x.tenant m v = true → exec (.fplace d a b) s =
          .next ((s.setInst id { i with accepted := some ((s.reg a).toNat, (s.reg b).toNat) }).writeNext d 0)) ∧
        (s.couldFit x.tenant m v = false → exec (.fplace d a b) s = .next (s.writeNext d (-3))))) ∧
    (i.accepted = none → exec (.frun a) s = .next (s.trap 0x01 0)) ∧
    (∀ h n, i.accepted = some (h, n) →
      ((s.reg a).toNat % 8 ≠ 0 → exec (.frun a) s = .next (s.trap 0x0B (s.reg a))) ∧
      (∀ u bs j, (s.reg a).toNat % 8 = 0 → (∀ go, s.readRecord (.frun a) (s.reg a) 8 [] go = go u bs) →
        aget? u.insts id = some j → exec (.frun a) s = .next ((u.setInst id { j with nextPhase := some (h, n,
          (List.range 8).map fun k => bytesWord ((bs.drop (8 * k)).take 8)) }).advance))))

/-- fhalt completes from every state: it halts the thread, its held streams are cancelled, its bindings and its invocation are
gone, it waits for nothing, its registers keep their values, and no byte of memory changes. bell completes from every state:
it moves on and asks for a cut; of an instance with no cut in progress and no rollback the cut begins at once, and of one
with a cut in progress nothing further is asked. (R111, R308, R309) -/
def Obligations.ThreadEnd : Prop :=
  ∀ (s : State), s.curCtx < 4 →
    (∃ t, exec .fhalt s = .next t ∧ t.cur.run = .halted ∧ t.cur.held = [] ∧ t.cur.binds = [] ∧ t.cur.laterBinds = [] ∧
      t.cur.invocation = none ∧ t.cur.wait = none ∧ t.cur.regs = s.cur.regs ∧ t.cur.pc = s.cur.pc ∧ t.mem = s.mem ∧
      (∀ k st, k ∈ s.cur.held → aget? s.streams k = some st →
        aget? t.streams k = some { st with state := .cancelled, stall := none, ahead := [] }) ∧
      (∀ k, k ∉ s.cur.held → aget? t.streams k = aget? s.streams k)) ∧
    (∃ t, exec .bell s = .next t ∧ t.cur = { s.cur with pc := s.cur.pc + 4 } ∧ t.mem = s.mem ∧
      (∀ i, aget? s.insts s.curInstId = some i → i.cutting = none → i.restoring = false →
        ∃ j, aget? t.insts s.curInstId = some j ∧ j.cutting ≠ none ∧ j.cutWanted = false) ∧
      (∀ i, aget? s.insts s.curInstId = some i → i.cutting ≠ none → t = s.setCur { s.cur with pc := s.cur.pc + 4 }) ∧
      (aget? s.insts s.curInstId = none → t = s.setCur { s.cur with pc := s.cur.pc + 4 }))

/-- A ga that is not a multiple of 32 traps ALIGN; a place that is neither own SS outside code and private areas, a DS bank
of the tenant nor DM traps ACCESS, each with TVAL = ga: own TS, the sheet windows, a bank of another tenant and a page of FM
are among those, and an address that no page maps is left to the writes, which fault as st.d does. Where every doubleword of the log can be written, on no SO page,
flay completes: it stores the entries oldest first, 32 bytes each with the fields where R111 puts them, and gives in gd the
number of entries stored and, from bit 32, the number overwritten before; a thread of no instance has no log, and gets 0.
The doublewords are each resolved as a store in turn and then written in that order; where one lies on an SO page the thread
of an instance waits for the commit of a cut instead, with nothing written: that all are resolved before any is written, and
that the record waits whole, are the model's choice (log entry 47). (R28, R111, R227) -/
def Obligations.LayoutLog : Prop :=
  (∀ (s : State) (d a : Reg),
    ((s.reg a).toNat % 32 ≠ 0 → exec (.flay d a) s = .next (s.trap 0x0B (s.reg a))) ∧
    ((s.reg a).toNat % 32 = 0 → s.flayPlace (s.reg a) = false → exec (.flay d a) s = .next (s.trap 0x0A (s.reg a))) ∧
    (s.curInst = none → (s.reg a).toNat % 32 = 0 → s.flayPlace (s.reg a) = true → exec (.flay d a) s = .next (s.writeNext d 0)) ∧
    (∀ id i t, s.curInst = some (id, i) → (s.reg a).toNat % 32 = 0 → s.flayPlace (s.reg a) = true →
      (∀ go, s.writeRecord (.flay d a) false (s.reg a) (pieces8 (i.log.flatMap LogEntry.bytes)) [] false go = go t) →
      exec (.flay d a) s = .next (t.writeNext d (BitVec.ofNat 32 i.overwritten ++ BitVec.ofNat 32 i.log.length))) ∧
    (∀ id i (t : State), s.curInst = some (id, i) → (s.reg a).toNat % 32 = 0 → s.flayPlace (s.reg a) = true →
      (∀ go, s.writeRecord (.flay d a) false (s.reg a) (pieces8 (i.log.flatMap LogEntry.bytes)) [] false go =
        (t.setCur { t.cur with wait := some (.publish (.flay d a) []) }).requestCut id) →
      exec (.flay d a) s = .next ((t.setCur { t.cur with wait := some (.publish (.flay d a) []) }).requestCut id))) ∧
  (∀ (s : State) (addr : Word), let a := addr.toNat; let tenant := s.tenantAt s.curSheet s.curCtx
    let mine (bank : Nat) : Prop := (s.bulkhead bank).tag.toNat = tenant ∧ (s.bulkhead bank).state = .active
    (0xFF00000001000000 ≤ a → a < 0xFF00000001300000 → s.flayPlace addr = true) ∧
    (0xFF00000001300000 ≤ a → a < 0xFF00000001400000 → s.flayPlace addr = false) ∧
    (0xFF00000000000000 ≤ a → a < 0xFF00000000200000 → s.flayPlace addr = false) ∧
    (0xFF00000200000000 ≤ a → a < 0xFF00000400000000 → s.flayPlace addr = false) ∧
    (0xFF00000010000000 ≤ a → a < 0xFF00000010800000 → (s.flayPlace addr = true ↔ mine (bhOf s.curSheet))) ∧
    (0xFF00000100000000 ≤ a → a < 0xFF00000120000000 → (s.flayPlace addr = true ↔ mine ((a - 0xFF00000100000000) / 0x800000))) ∧
    (a < 2 ^ 48 →
      (∀ leaf p, (s.translate tenant a).2 = .page leaf p → s.flayPlace addr = !(leaf.getLsbD 61)) ∧
      ((∀ leaf p, (s.translate tenant a).2 ≠ .page leaf p) → s.flayPlace addr = true))) ∧
  (∀ (s t : State) (i : Instr) (c so : Bool) (addr : Word) (w : List Byte) (r : List (List Byte)) (got : List (Nat × List Byte))
    (loc : Nat) (po : BitVec 2) (go : State → State),
    (addr.toNat % 8 = 0 → s.cur.invalid = none → s.resolve s.threadAgent addr.toNat 8 .write = (t, .ok loc po) →
      s.writeRecord i c addr (w :: r) got so go = t.writeRecord i c (addr + 8) r (got ++ [(loc, w)]) (so || decide (po = 0)) go) ∧
    s.writeRecord i c addr [] got false go = go (got.foldl (fun s p => s.storeBytes s.threadAgent p.1 p.2) s) ∧
    (∀ id x, s.curInst = some (id, x) →
      s.writeRecord i false addr [] got true go = (s.setCur { s.cur with wait := some (.publish i []) }).requestCut id)) ∧
  (∀ (e : LogEntry), let v := leNat e.bytes
    let code (n : NodeId) : Nat := match n.cls with
      | .element => 0
      | .ag => 1
      | .cv => 2
      | .pa => 3
      | .fe => 4
    e.bytes.length = 32 ∧ v % 2 ^ 32 = e.version.toNat ∧ v / 2 ^ 32 % 2 ^ 8 = e.kind.toNat ∧ v / 2 ^ 40 % 2 ^ 3 = e.member.toNat ∧
    v / 2 ^ 43 % 2 ^ 5 = 0 ∧ v / 2 ^ 48 % 2 ^ 16 = e.actor.toNat ∧
    v / 2 ^ 64 % 2 ^ 16 = e.before.sheet % 256 * 256 + e.before.tile % 16 * 16 + e.before.elem % 16 ∧
    v / 2 ^ 80 % 2 ^ 16 = e.after.sheet % 256 * 256 + e.after.tile % 16 * 16 + e.after.elem % 16 ∧
    v / 2 ^ 96 % 2 ^ 4 = code e.before ∧ v / 2 ^ 100 % 2 ^ 4 = code e.after ∧ v / 2 ^ 104 % 2 ^ 24 = 0 ∧
    v / 2 ^ 128 % 2 ^ 64 = e.tokens.toNat ∧ v / 2 ^ 192 = e.time.toNat)

/-- bar of the last thread that takes part releases every other one (their bar retires) and moves on; of an earlier one it
waits; of a thread of no instance it moves on. evsig sets the masked flags of the same context's thread on the chase
sheet named, and traps ACCESS beyond the chase. evwait with mask 0 traps ILLEGAL; with a masked flag set it gives those
flags in gd, clears them and moves on; else it waits. (R112, R29) -/
def Obligations.BarriersAndFlags : Prop :=
  ∀ (s : State) (d a b : Reg), let m := (s.reg a).extractLsb' 0 16; let bar := (s.reg a).extractLsb' 0 3
    (s.curInst = none → exec (.bar a) s = .next (s.setCur { s.cur with pc := s.cur.pc + 4 })) ∧
    (∀ id i, s.curInst = some (id, i) → s.cur.run = .running → s.curCtx < 4 →
      ((∃ sh ∈ i.sheets, sh ≠ s.curSheet ∧ (s.thread sh i.ctx).run = .running ∧ (s.thread sh i.ctx).wait ≠ some (.bar bar)) →
        exec (.bar a) s = .next (s.setCur { s.cur with wait := some (.bar bar) })) ∧
      ((∀ sh ∈ i.sheets, sh ≠ s.curSheet → (s.thread sh i.ctx).run = .running → (s.thread sh i.ctx).wait = some (.bar bar)) →
        i.sheets.Nodup → ∃ t, exec (.bar a) s = .next t ∧ t.cur = { s.cur with wait := none, pc := s.cur.pc + 4 } ∧ t.mem = s.mem ∧
          ∀ sh ∈ i.sheets, sh ≠ s.curSheet → (s.thread sh i.ctx).run = .running →
            t.thread sh i.ctx = { s.thread sh i.ctx with wait := none, pc := (s.thread sh i.ctx).pc + 4 })) ∧
    (∀ id i, s.curInst = some (id, i) → s.curCtx < 4 →
      (i.sheets.length ≤ (s.reg a).toNat → exec (.evsig a b) s = .next (s.trap 0x0A (s.reg a))) ∧
      (∀ sh, i.sheets[(s.reg a).toNat]? = some sh → ∃ t, exec (.evsig a b) s = .next t ∧ t.cur.pc = s.cur.pc + 4 ∧
        (t.thread sh s.curCtx).events = (s.thread sh s.curCtx).events ||| (s.reg b).extractLsb' 0 16 ∧
        t.cur.regs = s.cur.regs ∧ t.mem = s.mem)) ∧
    (m = 0 → exec (.evwait d a) s = .next (s.trap 0x01 0)) ∧
    (m ≠ 0 → s.cur.events &&& m = 0 → exec (.evwait d a) s = .next (s.setCur { s.cur with wait := some (.evwait d m) })) ∧
    (s.cur.events &&& m ≠ 0 → exec (.evwait d a) s = .next
      ((s.setCur { s.cur with events := s.cur.events &&& ~~~m, wait := none }).writeNext d
        ((s.cur.events &&& m).setWidth 64)))

/-- csrr completes for every number that R37 lists, and gives the value of that register (the trap registers, the return-address
bounds and counts, context, rank, sheet, what the placement gives a thread of an instance, time, cycle, the budgets and the
deadline of its slice, and the layout version) and moves on; a number that R37 does not list traps ILLEGAL, with the
instruction word in TVAL (log entry 18). csrw of TVEC and EPC completes with a multiple of 4, a code offset below 0x3_C000
becoming an address of the thread's code region; csrw of RASBASE and RASLIM completes with a multiple of 8 in own SS below
the code regions, while the spill area is empty and the base does not exceed the limit; every other value traps ILLEGAL with
the value in TVAL, and every other number with the instruction word. That TVEC 0 stays 0 is the model's choice (log entry
15). (R37, R90, R113, R304) -/
def Obligations.ControlRegisters : Prop :=
  ∀ (s : State) (d a : Reg) (c : BitVec 16),
    (∀ v, s.csr c = some v → exec (.csrr d c) s = .next (({ s with free := s.free + 1 } : State).writeNext d v)) ∧
    (s.csr c = none → exec (.csrr d c) s = .next (s.trap 0x01 (BitVec.ofNat 64 (leNat (encodeBytes (.csrr d c)))))) ∧
    s.csr 0x00 = some s.cur.tvec ∧ s.csr 0x01 = some s.cur.epc ∧ s.csr 0x02 = some s.cur.cause ∧ s.csr 0x03 = some s.cur.tval ∧
    s.csr 0x10 = some s.cur.rasBase ∧ s.csr 0x11 = some s.cur.rasLim ∧ s.csr 0x12 = some (BitVec.ofNat 64 s.cur.ras.length) ∧
    s.csr 0x13 = some (BitVec.ofNat 64 s.cur.rasSpl) ∧ s.csr 0x20 = some (BitVec.ofNat 64 s.curCtx) ∧
    s.csr 0x21 = some (((s.sheet s.curSheet).rank.get s.curCtx).setWidth 64) ∧
    s.csr 0x22 = some (BitVec.ofNat 64 s.curSheet) ∧ s.csr 0x30 = some (BitVec.ofNat 64 s.time) ∧
    (∀ id i, s.curInst = some (id, i) →
      s.csr 0x23 = some (BitVec.ofNat 64 i.base) ∧ s.csr 0x24 = some (BitVec.ofNat 64 i.n) ∧ s.csr 0x25 = some (BitVec.ofNat 64 i.tenant) ∧
      s.csr 0x31 = some (BitVec.ofNat 64 i.cycle) ∧ s.csr 0x40 = some (i.forme.layver.setWidth 64) ∧
      (∀ x, aget? s.slices i.slice = some x → s.csr 0x34 = some x.deadline ∧
        (x.workFree = false → s.csr 0x32 = some (BitVec.ofNat 64
          ((s.sheet s.curSheet).workBase.get s.curCtx - (s.sheet s.curSheet).taken.get s.curCtx))) ∧
        (x.energyFree = false → s.csr 0x33 = some (BitVec.ofNat 64 x.energy)))) ∧
    (c.toNat ∉ [0x00, 0x01, 0x02, 0x03, 0x10, 0x11, 0x12, 0x13, 0x20, 0x21, 0x22, 0x23, 0x24, 0x25, 0x30, 0x31, 0x32, 0x33, 0x34, 0x40] →
      s.csr c = none) ∧
    (c.toNat ∈ [0x00, 0x01, 0x02, 0x03, 0x10, 0x11, 0x12, 0x13, 0x20, 0x21, 0x22, 0x23, 0x24, 0x25, 0x30, 0x31, 0x32, 0x33, 0x34, 0x40] →
      ∃ v, s.csr c = some v) ∧
    ((s.reg a).toNat % 4 ≠ 0 → exec (.csrw a 0) s = .next (s.trap 0x01 (s.reg a)) ∧ exec (.csrw a 1) s = .next (s.trap 0x01 (s.reg a))) ∧
    ((s.reg a).toNat % 4 = 0 →
      (0 < (s.reg a).toNat → (s.reg a).toNat < 0x3C000 →
        exec (.csrw a 0) s = .next (s.setCur { s.cur with
          tvec := 0xFF00000001300000 + 0x3C000 * BitVec.ofNat 64 s.curCtx + s.reg a, pc := s.cur.pc + 4 })) ∧
      (s.reg a = 0 → exec (.csrw a 0) s = .next (s.setCur { s.cur with tvec := 0, pc := s.cur.pc + 4 })) ∧
      (0x3C000 ≤ (s.reg a).toNat → exec (.csrw a 0) s = .next (s.setCur { s.cur with tvec := s.reg a, pc := s.cur.pc + 4 }) ∧
        exec (.csrw a 1) s = .next (s.setCur { s.cur with epc := s.reg a, pc := s.cur.pc + 4 })) ∧
      ((s.reg a).toNat < 0x3C000 → exec (.csrw a 1) s = .next (s.setCur { s.cur with
          epc := 0xFF00000001300000 + 0x3C000 * BitVec.ofNat 64 s.curCtx + s.reg a, pc := s.cur.pc + 4 }))) ∧
    (s.cur.rasSpl = 0 → (s.reg a).toNat % 8 = 0 → 0xFF00000001000000 ≤ (s.reg a).toNat → (s.reg a).toNat < 0xFF00000001300000 →
      ((s.reg a).toNat ≤ s.cur.rasLim.toNat → exec (.csrw a 0x10) s = .next (s.setCur { s.cur with rasBase := s.reg a, pc := s.cur.pc + 4 })) ∧
      (s.cur.rasLim.toNat < (s.reg a).toNat → exec (.csrw a 0x10) s = .next (s.trap 0x01 (s.reg a))) ∧
      (s.cur.rasBase.toNat ≤ (s.reg a).toNat → exec (.csrw a 0x11) s = .next (s.setCur { s.cur with rasLim := s.reg a, pc := s.cur.pc + 4 })) ∧
      ((s.reg a).toNat < s.cur.rasBase.toNat → exec (.csrw a 0x11) s = .next (s.trap 0x01 (s.reg a)))) ∧
    (s.cur.rasSpl ≠ 0 ∨ (s.reg a).toNat % 8 ≠ 0 ∨ (s.reg a).toNat < 0xFF00000001000000 ∨ 0xFF00000001300000 ≤ (s.reg a).toNat →
      exec (.csrw a 0x10) s = .next (s.trap 0x01 (s.reg a)) ∧ exec (.csrw a 0x11) s = .next (s.trap 0x01 (s.reg a))) ∧
    (c.toNat ∉ [0, 1, 0x10, 0x11] → exec (.csrw a c) s = .next (s.trap 0x01 (csrwWord a c)))

/-- The event by which a waiting instruction tries its condition does nothing to a thread that waits for nothing or may not
move. Where the thread may move it completes: a waiting evwait with a masked flag set retires (gd gets the flags, they are
cleared, the thread waits no more and its pc moves by 4), one without stays as it is; a waiting stbar whose streams are none
of them live retires likewise; a waiting await retires with the word once its status is not PENDING, a qpop once the hardware
queue holds an entry, a strin or strout once its port is free, and a bar once every other thread that takes part waits at it,
when all of them retire; till then each goes on waiting. An access that a held line, a full proof buffer or a range holds up
is made anew: it retires as it would have, or waits on. The event by which a queue takes its oldest waiting push completes
where the sheet's bulkhead is the pusher's tenant's and not being switched and the pusher's instance is not stopped: with
room in the hardware queue and no galley the entry joins it, with a galley in use that has room it goes to the ring's next
slot, and the pusher's qpush retires; with nothing waiting it does nothing. (R84, R102, R104, R105, R106, R112, R225, R226,
R253) -/
def Obligations.WaitingRetires : Prop :=
  ∀ (s : State) (sheet ctx : Nat),
    ((s.thread sheet ctx).wait = none ∨ s.threadMay sheet ctx = false → exec (.waitingInstructionRetire sheet ctx) s = .next s) ∧
    (∀ d m, (s.thread sheet ctx).wait = some (.evwait d m) → s.threadMay sheet ctx = true → (s.thread sheet ctx).entering = false →
      ((s.thread sheet ctx).events &&& m ≠ 0 → ∃ t, exec (.waitingInstructionRetire sheet ctx) s = .next t ∧ t.mem = s.mem ∧
        t.thread sheet ctx = { ((s.thread sheet ctx).setReg d (((s.thread sheet ctx).events &&& m).setWidth 64)) with
          events := (s.thread sheet ctx).events &&& ~~~m, wait := none, invalid := none, pc := (s.thread sheet ctx).pc + 4 }) ∧
      ((s.thread sheet ctx).events &&& m = 0 → ∃ t, exec (.waitingInstructionRetire sheet ctx) s = .next t ∧
        t.thread sheet ctx = s.thread sheet ctx ∧ t.mem = s.mem)) ∧
    (∀ l, (s.thread sheet ctx).wait = some (.stbar l) → s.threadMay sheet ctx = true → (s.thread sheet ctx).entering = false →
      (∀ k st, k ∈ l → aget? s.streams k = some st → st.state ≠ .live) → ∃ t, exec (.waitingInstructionRetire sheet ctx) s = .next t ∧
        t.thread sheet ctx = { s.thread sheet ctx with wait := none, invalid := none, pc := (s.thread sheet ctx).pc + 4 } ∧ t.mem = s.mem) ∧
    (∀ q p rest sh c, (s.queue sheet q).waiting = p :: rest → p.pusher = some (sh, c) →
      (s.bulkhead (bhOf sheet)).tag.toNat = s.tenantAt sh c → (s.bulkhead (bhOf sheet)).state ≠ .switching →
      s.stalledInst p.entry.inst = false → (s.thread sh c).wait = some .qpush →
      let v := s.setQueue sheet q { s.queue sheet q with waiting := rest }
      ((s.queue sheet q).hw.length < 32 → (s.queue sheet q).galley = none → ∃ t, exec (.queuePushAccept sheet q) s = .next t ∧
        (t.queue sheet q) = { s.queue sheet q with
          hw := (s.queue sheet q).hw ++ [{ p.entry with num := (s.queue sheet q).pushes, place := none }], waiting := rest,
          pushes := (s.queue sheet q).pushes + 1 } ∧
        t.thread sh c = { s.thread sh c with wait := none, pc := (s.thread sh c).pc + 4 } ∧ t.mem = s.mem) ∧
      (∀ g loc, (s.queue sheet q).galley = some g → ¬((s.queue sheet q).hw.length < 32 ∧ g.held = []) →
        g.next - (g.held.head?.map fun r => r.j).getD g.next < g.size → v.ringParked sheet g = false →
        v.ringLoc sheet g g.next .write = some loc → heldByOther s.insts p.entry.inst (loc / 64) = false →
        (isSheetScratch loc = true ∨ v.proofFull (g.agent sheet p.entry.inst) (loc / 64) = false) →
        ∃ t, exec (.queuePushAccept sheet q) s = .next t ∧
          t.queue sheet q = { s.queue sheet q with
            galley := some { g with next := g.next + 1, held := g.held ++ [{ j := g.next, inst := p.entry.inst, num := (s.queue sheet q).pushes }] },
            waiting := rest, pushes := (s.queue sheet q).pushes + 1 } ∧
          t.thread sh c = { s.thread sh c with wait := none, pc := (s.thread sh c).pc + 4 } ∧
          t.mem = (v.storeBytes (g.agent sheet p.entry.inst) loc (padBytes 32 p.entry.bytes)).mem)) ∧
    (s.threadMay sheet ctx = true → (s.thread sheet ctx).entering = false →
      let v : State := { s with curSheet := sheet, curCtx := ctx }
      let u : State := v.setCur { v.cur with wait := none }
      (∀ d a t loc po, v.cur.wait = some (.await d a) → (v.reg a).toNat % 8 = 0 → v.cur.invalid ≠ some (v.reg a) →
        u.resolve u.threadAgent (v.reg a).toNat 8 .read = (t, .ok loc po) →
        let w := bytesWord (t.loadBytes t.curInstId loc 8)
        (w.toNat / 2 ^ 60 ≠ 0 → t.cur.entering = false → ∃ x, exec (.waitingInstructionRetire sheet ctx) s = .next x ∧ x.mem = t.mem ∧
          x.cur = { (t.cur.setReg d w) with wait := none, invalid := none, pc := t.cur.pc + 4 }) ∧
        (w.toNat / 2 ^ 60 = 0 → exec (.waitingInstructionRetire sheet ctx) s = .next (t.setCur { t.cur with wait := some (.await d a) }))) ∧
      (∀ d k, v.cur.wait = some (.qpop d k) →
        ((v.queue sheet k).hw = [] → exec (.waitingInstructionRetire sheet ctx) s = .next (v.setCur { v.cur with wait := some (.qpop d k) })) ∧
        (∀ e rest, (v.queue sheet k).hw = e :: rest → ∃ x, exec (.waitingInstructionRetire sheet ctx) s = .next x ∧
          x.queue sheet k = { v.queue sheet k with
            hw := rest, pops := (v.queue sheet k).pops + 1,
            popped := (v.queue sheet k).popped ++ [{ seq := (v.queue sheet k).pops, inst := v.curInstId, entry := e }] } ∧
          x.cur = { (v.cur.setReg d (bytesWord (e.bytes.take 8))) with
            wait := none, invalid := none, pc := v.cur.pc + 4, popless := false, barren := false } ∧
          x.mem = s.mem.write (ssLoc sheet (popBuffer ctx)) (padBytes 32 e.bytes))) ∧
      (∀ inbound k n b d, v.cur.wait = some (.port inbound k n b) → aget? v.cur.descs n.toNat = some d →
        (v.portTaken sheet ctx k.toNat inbound = true →
          exec (.waitingInstructionRetire sheet ctx) s = .next (u.setCur { u.cur with wait := some (.port inbound k n b) })) ∧
        (v.portTaken sheet ctx k.toNat inbound = false → ∃ x, exec (.waitingInstructionRetire sheet ctx) s = .next x ∧ x.mem = s.mem ∧
          x.streams = s.streams ++ [(s.nextId, {
            inst := v.curInstId, sheet := sheet, ctx := ctx, inbound := inbound, port := k.toNat, bank := b.toNat,
            desc := d, cursor := 0, ahead := [], state := .group, stall := none, invalid := false })] ∧
          x.cur = { v.cur with wait := none, invalid := none, group := v.cur.group ++ [s.nextId], pc := v.cur.pc + 4 })) ∧
      (∀ b id i, v.cur.wait = some (.bar b) → s.instAt sheet ctx = some (id, i) →
        ((∃ sh ∈ i.sheets, (s.thread sh i.ctx).run = .running ∧ (s.thread sh i.ctx).wait ≠ some (.bar b)) →
          exec (.waitingInstructionRetire sheet ctx) s = .next v) ∧
        ((∀ sh ∈ i.sheets, (s.thread sh i.ctx).run = .running → (s.thread sh i.ctx).wait = some (.bar b)) → i.sheets.Nodup →
          ∃ x, exec (.waitingInstructionRetire sheet ctx) s = .next x ∧ x.mem = s.mem ∧
            ∀ sh ∈ i.sheets, (s.thread sh i.ctx).run = .running →
              x.thread sh i.ctx = { s.thread sh i.ctx with wait := none, pc := (s.thread sh i.ctx).pc + 4 })) ∧
      (∀ i why x, v.cur.wait = some (.access i why) → (why = .range ∨ why = .proofFull ∨ why = .heldLine) →
        ((∃ d a off wd ord sc, i = .ld d a off wd ord sc ∨ i = .st d a off wd ord sc) ∨
          (∃ d a b off wd ord sc fn, i = .amo d a b off wd ord sc fn) ∨ (∃ d a b off wd ord sc, i = .cas d a b off wd ord sc) ∨
          (∃ n a, i = .dset n a) ∨ (∃ a f, i = .amsg a f) ∨ (∃ k a b, i = .qpush k a b)) →
        exec i u = .next x →
        (x.cur.wait = none → x.cur.entering = false → ∃ y, exec (.waitingInstructionRetire sheet ctx) s = .next y ∧
          y.cur = { x.cur with invalid := none } ∧ y.mem = x.mem) ∧
        (x.cur.wait ≠ none → exec (.waitingInstructionRetire sheet ctx) s = .next x))) ∧
    (∀ q, (s.queue sheet q).waiting = [] → exec (.queuePushAccept sheet q) s = .next s)

/-- A result to a keep register stands there with its value and tag and nothing else of any node changes; a result to an
output within its declared rate joins, as one token with the firing's tag, the result's format tag and value and the
nslot, what waits at that output of the actor's first member (for an actor that stands alone, with nothing held back and no
carry), and counts toward the rate; beyond the rate the op word comes to ILLEGAL_OP. After an op word without the end bit the
firing stands at the next slot; after one with it (of a firing of no instance, or of an actor with nothing held back and no
carry) the node has no firing. An op word's operands are read once, when it begins; one that is held keeps what it has read
(log entry 136). (R15, R16, R17, R117) -/
def Obligations.OpWordResults : Prop :=
  ∀ (s : State) (n : NodeId) (f : Firing) (d : Dst) (slot : BitVec 4) (v : Val) (uses : List Src) (size : Nat),
    (s.node n).running = some f → f.ctx < 4 →
    (s.readOnce n f uses = if f.latched = [] then s.operands n f uses else some f.latched) ∧
    (4 ≤ d.toNat → s.writeDst n f d slot v = .done (s.setKeep n f.ctx (d.toNat - 4) v) ∧
      ((s.setKeep n f.ctx (d.toNat - 4) v).nodeCtx n f.ctx).keeps.get (d.toNat - 4) = v ∧
      (∀ k, k < 4 → k ≠ d.toNat - 4 →
        ((s.setKeep n f.ctx (d.toNat - 4) v).nodeCtx n f.ctx).keeps.get k = (s.nodeCtx n f.ctx).keeps.get k) ∧
      ∀ m, m ≠ n → (s.setKeep n f.ctx (d.toNat - 4) v).node m = s.node m) ∧
    (d.toNat < 4 → s.rateUsed n d.toNat = true → s.writeDst n f d slot v = .illegal 3) ∧
    (∀ id i a, d.toNat < 4 → s.rateUsed n d.toNat = false → s.instAt n.sheet f.ctx = some (id, i) → s.actor? id f.actor = some a →
      a.members.length ≤ 1 → a.outs = [] → a.carry = none → ∃ u t, s.writeDst n f d slot v = .done u ∧
        (u.nodeCtx (a.members.headD a.home) f.ctx).inject.get d.toNat =
          (s.nodeCtx (a.members.headD a.home) f.ctx).inject.get d.toNat ++ [(f.actor, n, .token t s.cycle)] ∧
        t.fmt = v.tag ∧ t.value = v.value ∧ t.colour = f.tag.colour ∧ t.iter = f.tag.iter ∧ t.slot = slot ∧ t.ctx.toNat = f.ctx ∧
        (u.node n).running = some { f with emitted := f.emitted.set d.toNat (f.emitted.get d.toNat + 1) } ∧
        u.mem = s.mem ∧ u.sheets = s.sheets) ∧
    (∃ g, ((s.opDone n uses size false).node n).running = some g ∧ g.pc = f.pc + size ∧ g.tag = f.tag ∧ g.operands = f.operands ∧
      g.emitted = f.emitted ∧ g.progress = 0) ∧
    ((∀ id i a, s.instAt n.sheet f.ctx = some (id, i) → s.actor? id f.actor = some a → a.outs = [] ∧ a.carry = none) →
      ((s.opDone n uses size true).node n).running = none)

/-- On INT32 operands each op word's value is the exact integer function modulo 2^32 (clamped under .sat), shifts by the
unsigned amount with 0 or the sign beyond 31, and all ones or zero for a comparison; where that value can be delivered
to dst (OpWordResults) the exec of the op word is the state with it delivered and the firing at the next op word. (R121,
R123, R124, R125, R117) -/
def Obligations.ElementIntegers : Prop :=
  ∀ (s u : State) (f : Firing) (a b c : Src) (d : Dst) (n : BitVec 4) (e : Bool) (x y z : Token),
    (s.node s.curNode).running = some f →
    (∀ i v, s.readOnce s.curNode f [a, b] = some [x, y] → x.fmt = 0 → y.fmt = 0 → s.writeDst s.curNode f d n ⟨0, v⟩ = .done u →
      (i, v) ∈ [
        (Instr.elemAdd a b d n false e, x.value + y.value), (.elemSub a b d n false e, x.value - y.value),
        (.elemMul a b d n false e, x.value * y.value),
        (.elemAdd a b d n true e, BitVec.ofInt 32 (max (-(2 ^ 31)) (min (2 ^ 31 - 1) (x.value.toInt + y.value.toInt)))),
        (.elemSub a b d n true e, BitVec.ofInt 32 (max (-(2 ^ 31)) (min (2 ^ 31 - 1) (x.value.toInt - y.value.toInt)))),
        (.elemMul a b d n true e, BitVec.ofInt 32 (max (-(2 ^ 31)) (min (2 ^ 31 - 1) (x.value.toInt * y.value.toInt)))),
        (.elemMin a b d n e, if x.value.toInt ≤ y.value.toInt then x.value else y.value),
        (.elemMax a b d n e, if x.value.toInt ≤ y.value.toInt then y.value else x.value),
        (.elemShl a b d n false e, x.value <<< y.value.toNat), (.elemShr a b d n e, x.value >>> y.value.toNat),
        (.elemSra a b d n e, x.value.sshiftRight y.value.toNat),
        (.elemAnd a b d n e, x.value &&& y.value), (.elemOr a b d n e, x.value ||| y.value), (.elemXor a b d n e, x.value ^^^ y.value),
        (.cmp a b d n 0 e, if x.value = y.value then 0xFFFFFFFF else 0), (.cmp a b d n 1 e, if x.value = y.value then 0 else 0xFFFFFFFF),
        (.cmp a b d n 2 e, if x.value.toInt < y.value.toInt then 0xFFFFFFFF else 0),
        (.cmp a b d n 3 e, if x.value.toInt ≤ y.value.toInt then 0xFFFFFFFF else 0),
        (.cmp a b d n 4 e, if y.value.toInt < x.value.toInt then 0xFFFFFFFF else 0),
        (.cmp a b d n 5 e, if y.value.toInt ≤ x.value.toInt then 0xFFFFFFFF else 0)] →
      exec i s = .next (u.opDone s.curNode [a, b] 1 e)) ∧
    (∀ i v, s.readOnce s.curNode f [a] = some [x] → x.fmt = 0 → s.writeDst s.curNode f d n ⟨0, v⟩ = .done u →
      (i, v) ∈ [
        (Instr.abs a d n e, if x.value.toInt < 0 then -x.value else x.value), (.neg a d n e, -x.value), (.not a d n e, ~~~x.value),
        (.mov a d n e, x.value), (.lane a d n 0 e, x.value), (.bcast a d n e, x.value)] →
      exec i s = .next (u.opDone s.curNode [a] 1 e)) ∧
    (∀ i v, s.readOnce s.curNode f [a, b, c] = some [x, y, z] → x.fmt = 0 → y.fmt = 0 → z.fmt = 0 →
      s.writeDst s.curNode f d n ⟨0, v⟩ = .done u →
      (i, v) ∈ [(Instr.fma a b c d n false e, x.value * y.value + z.value), (.sel a b c d n e, if x.value = 0 then z.value else y.value)] →
      exec i s = .next (u.opDone s.curNode [a, b, c] 1 e))

/-- For operands of one tag whose format the op word accepts, the result is the lanewise function of the format with that
tag (the integer tag of the lane width for cmp), delivered to dst; and, or, xor take any two tags and keep the first,
const delivers its immediate with the tag of mod and takes two slots, sel keeps the tag of b. Operands whose tags
differ, shifts of floating point, special functions of integers, arithmetic on E4M3 and E5M2 and a lane at or beyond the
lane count report FMT with the failing token, and the firing stops. (R121, R122, R124, R125, R126, R127, R128, R118) -/
def Obligations.ElementFormats : Prop :=
  ∀ (s u : State) (f : Firing) (a b c : Src) (d : Dst) (n : BitVec 4) (e : Bool) (x y z : Token),
    (s.node s.curNode).running = some f →
    (∀ i (w : Option W32) v, s.readOnce s.curNode f [a, b] = some [x, y] → y.fmt = x.fmt → w = some v →
      s.writeDst s.curNode f d n ⟨x.fmt, v⟩ = .done u →
      (∃ sat, (i, w) ∈ [
        (Instr.elemAdd a b d n sat e, arith2 x.fmt sat (· + ·) FpNum.add x.value y.value),
        (.elemSub a b d n sat e, arith2 x.fmt sat (· - ·) FpNum.sub x.value y.value),
        (.elemMul a b d n sat e, arith2 x.fmt sat (· * ·) FpNum.mul x.value y.value),
        (.elemMin a b d n e, arith2 x.fmt false min minNum x.value y.value),
        (.elemMax a b d n e, arith2 x.fmt false max maxNum x.value y.value),
        (.elemShl a b d n sat e, shlLanes x.fmt sat x.value y.value), (.elemShr a b d n e, shrLanes x.fmt x.value y.value),
        (.elemSra a b d n e, sraLanes x.fmt x.value y.value)]) →
      exec i s = .next (u.opDone s.curNode [a, b] 1 e)) ∧
    (∀ i (w : Option W32) v, s.readOnce s.curNode f [a] = some [x] → w = some v → s.writeDst s.curNode f d n ⟨x.fmt, v⟩ = .done u →
      (∃ l, (i, w) ∈ [
        (Instr.abs a d n e, absLanes x.fmt x.value), (.neg a d n e, negLanes x.fmt x.value), (.mov a d n e, some x.value),
        (.not a d n e, some (~~~x.value)), (.bcast a d n e, some (bcastLanes x.fmt x.value)),
        (.lane a d n l e, laneMove x.fmt l.toNat x.value),
        (.exp2 a d n e, special x.fmt FpNum.exp2 x.value), (.log2 a d n e, special x.fmt FpNum.log2 x.value),
        (.rcp a d n e, special x.fmt FpNum.rcp x.value), (.rsq a d n e, special x.fmt FpNum.rsq x.value),
        (.sqrt a d n e, special x.fmt FpNum.sqrt x.value)]) →
      exec i s = .next (u.opDone s.curNode [a] 1 e)) ∧
    (∀ sat v, s.readOnce s.curNode f [a, b, c] = some [x, y, z] → y.fmt = x.fmt → z.fmt = x.fmt →
      fmaLanes x.fmt sat x.value y.value z.value = some v → s.writeDst s.curNode f d n ⟨x.fmt, v⟩ = .done u →
      exec (.fma a b c d n sat e) s = .next (u.opDone s.curNode [a, b, c] 1 e)) ∧
    (∀ cc v, s.readOnce s.curNode f [a, b] = some [x, y] → y.fmt = x.fmt → cmpLanes x.fmt (BitVec.toNat cc) x.value y.value = some v →
      s.writeDst s.curNode f d n ⟨cmpTag x.fmt, v⟩ = .done u → exec (.cmp a b d n cc e) s = .next (u.opDone s.curNode [a, b] 1 e)) ∧
    (s.readOnce s.curNode f [a, b, c] = some [x, y, z] → isIntTag x.fmt = true → laneCount x.fmt = laneCount y.fmt → z.fmt = y.fmt →
      s.writeDst s.curNode f d n ⟨y.fmt, selLanes y.fmt x.value y.value z.value⟩ = .done u →
      exec (.sel a b c d n e) s = .next (u.opDone s.curNode [a, b, c] 1 e)) ∧
    (∀ i v, s.readOnce s.curNode f [a, b] = some [x, y] → s.writeDst s.curNode f d n ⟨x.fmt, v⟩ = .done u →
      (i, v) ∈ [(Instr.elemAnd a b d n e, x.value &&& y.value), (.elemOr a b d n e, x.value ||| y.value),
        (.elemXor a b d n e, x.value ^^^ y.value)] → exec i s = .next (u.opDone s.curNode [a, b] 1 e)) ∧
    (∀ tag imm, s.writeDst s.curNode f d n ⟨tag, imm⟩ = .done u → exec (.const d n tag e imm) s = .next (u.opDone s.curNode [] 2 e)) ∧
    (∀ sat, s.readOnce s.curNode f [a, b] = some [x, y] →
      (fpOf x.fmt ≠ none → x.fmt.toNat = 4 ∨ x.fmt.toNat = 5 → exec (.elemAdd a b d n sat e) s = .next (s.opFault s.curNode f 0x03 0 x.bits)) ∧
      (fpOf x.fmt ≠ none → exec (.elemShl a b d n sat e) s = .next (s.opFault s.curNode f 0x03 0 x.bits)) ∧
      (x.fmt.toNat < 4 ∨ 6 ≤ x.fmt.toNat → y.fmt ≠ x.fmt → exec (.elemAdd a b d n sat e) s = .next (s.opFault s.curNode f 0x03 0 y.bits))) ∧
    (∀ l, s.readOnce s.curNode f [a] = some [x] →
      (isIntTag x.fmt = true → exec (.exp2 a d n e) s = .next (s.opFault s.curNode f 0x03 0 x.bits)) ∧
      (laneCount x.fmt ≤ BitVec.toNat l → exec (.lane a d n l e) s = .next (s.opFault s.curNode f 0x03 0 x.bits)))

/-- With an INT32 b, pack delivers a under colour b[7:0] and iteration 2·iter + b[8], unpack under the colour of b that bit
0 of the iteration chooses and the iteration within 128 of that colour's lo, setslot emits a for the slot b[3:0]; each
completes where that result can be delivered. Where dst is an output within its rate these complete: the first itin of a
firing takes the next iteration of its colour and emits a with it, a later one emits a with the same; the first itnext
retires a's live iteration, takes its successor if that is new, and emits a with it, a later one (of a live iteration, or
of one the firing itself has retired: log entry 135) emits a with the successor and changes no window; the first itout
retires a's live iteration and emits a, a later one emits a and changes no window. An itnext or itout of an iteration that
is neither live nor retired by the firing itself stops the firing with ILLEGAL_OP and code 5. A window that is changed reads
as its new value. (R129, R131, R133, R25) -/
def Obligations.ColoursAndIterations : Prop :=
  ∀ (s u : State) (f : Firing) (a b : Src) (d : Dst) (n : BitVec 4) (e : Bool) (x y : Token),
    (s.node s.curNode).running = some f →
    let k := s.curNode
    let colour := f.tag.colour
    let w := s.window k.sheet f.ctx colour
    (s.readOnce k f [a, b] = some [x, y] → y.fmt = 0 →
      (s.writeColoured k f d n x.val (y.value.extractLsb' 0 8) (BitVec.ofNat 8 (2 * x.iter.toNat + y.value.toNat / 256 % 2)) = .done u →
        exec (.pack a b d n e) s = .next (u.opDone k [a, b] 1 e)) ∧
      (∀ col, col = (if x.iter.getLsbD 0 then y.value.extractLsb' 8 8 else y.value.extractLsb' 0 8) →
        s.writeColoured k f d n x.val col (unpackIter x.iter (s.window k.sheet f.ctx col).lo) = .done u →
        exec (.unpack a b d n e) s = .next (u.opDone k [a, b] 1 e)) ∧
      (s.writeOut k d (s.resultToken k f (y.value.extractLsb' 0 4) x.val) = .done u →
        exec (.setslot a b d e) s = .next (u.opDone k [a, b] 1 e))) ∧
    (s.readOnce k f [a] = some [x] → d.toNat < 4 → s.rateUsed k d.toNat = false →
      let leaves (v : State) (t : Token) : State := (v.emitNow k d t).opDone k [a] 1 e
      let taken := (s.updWindow k k.sheet f.ctx colour Window.takeNext).updRunning k fun g => { g with itin := some w.hi }
      let next := (s.updWindow k k.sheet f.ctx colour fun v =>
        if x.iter + 1 = v.hi then (v.retire x.iter).takeNext else v.retire x.iter).updRunning k fun g => { g with itnext := some x.iter }
      let out := (s.updWindow k k.sheet f.ctx colour fun v => v.retire x.iter).updRunning k fun g => { g with itout := some x.iter }
      let again := w.isLive x.iter = true ∨ f.itnext = some x.iter ∨ f.itout = some x.iter
      (f.itin = none → exec (.itin a d n e) s = .next (leaves taken { taken.resultToken k f n x.val with iter := w.hi })) ∧
      (∀ t, f.itin = some t → exec (.itin a d n e) s = .next (leaves s { s.resultToken k f n x.val with iter := t })) ∧
      (f.itnext = none → w.isLive x.iter = true → exec (.itnext a d n e) s =
        .next (leaves next { next.resultToken k f n x.val with iter := x.iter + 1 })) ∧
      (f.itnext ≠ none → again → exec (.itnext a d n e) s = .next (leaves s { s.resultToken k f n x.val with iter := x.iter + 1 })) ∧
      (f.itout = none → w.isLive x.iter = true → exec (.itout a d n e) s =
        .next (leaves out { out.recolour k f (out.resultToken k f n x.val) x.colour with iter := x.iter })) ∧
      (f.itout ≠ none → again → exec (.itout a d n e) s =
        .next (leaves s { s.recolour k f (s.resultToken k f n x.val) x.colour with iter := x.iter }))) ∧
    (s.readOnce k f [a] = some [x] → w.isLive x.iter = false → f.itnext ≠ some x.iter → f.itout ≠ some x.iter →
      exec (.itnext a d n e) s = .next (s.opIllegal k f 5) ∧ exec (.itout a d n e) s = .next (s.opIllegal k f 5)) ∧
    (∀ q sh ctx col g, ctx < 4 → (s.updWindow q sh ctx col g).window sh ctx col = g (s.window sh ctx col))

/-- ctxalloc of a width 1 to 32 and ctxfree, with an INT32 operand whose reserved bits are zero and dst an output within its
rate, complete: they ask for the width of the colour and go on; a reserved bit, or for ctxalloc a width of 0 or above 32, is
ILLEGAL_OP. colourWidthChange has no effect while the asking firing runs, the colour has a live iteration, a firing runs on
a replica that goes, or the output's inject buffer is full; else it completes: the change takes effect, and its result token,
with the width granted (1 for ctxfree, at most the width asked or the one there was) and its own colour's width from then on,
leaves for the output named as a token of the asking firing, at the first member's inject buffer where the actor has a carry
(the model's choice: log entry 9). The count of a request, and that a tcall's request is kept by node, actor and tag, are log
entry 52. tcall with dst an output within its rate completes where the firing has been promised a colour or one
is free (the promised one, else the lowest): the colour's frame holds the caller's colour, iteration and link, its width is
1, its window is empty on every sheet of the chase, and a leaves with the colour and iteration 0; without a free colour the
firing stays at the op word and its request joins those waiting. tret of a colour without a frame is ILLEGAL_OP with code 5;
otherwise it completes: the colour is freed (to the oldest request waiting, else to the pool) and the token leaves with the
frame's colour and iteration, at the link's slot where that names one. loUpdateArrival completes: the change of lo that is
coming replaces the tile's copy. (R130, R22, R132, R252, R249) -/
def Obligations.WidthsAndCalls : Prop :=
  ∀ (s : State) (f : Firing) (a b : Src) (d : Dst) (n : BitVec 4) (e : Bool) (x y : Token) (k : NodeId),
    k = s.curNode → (s.node k).running = some f →
    (s.readOnce k f [a] = some [x] → x.fmt = 0 →
      (x.value.extractLsb' 14 18 ≠ 0 → exec (.ctxalloc a d n e) s = .next (s.opIllegal k f 0) ∧ exec (.ctxfree a d n e) s = .next (s.opIllegal k f 0)) ∧
      ((x.value.extractLsb' 8 6).toNat = 0 ∨ 32 < (x.value.extractLsb' 8 6).toNat → exec (.ctxalloc a d n e) s = .next (s.opIllegal k f 0)) ∧
      (x.value.extractLsb' 14 18 = 0 → d.toNat < 4 → s.rateUsed k d.toNat = false →
        exec (.ctxfree a d n e) s = .next ((s.askWidth k f d n (x.value.extractLsb' 0 8) none).opDone k [a] 1 e) ∧
        (1 ≤ (x.value.extractLsb' 8 6).toNat → (x.value.extractLsb' 8 6).toNat ≤ 32 → exec (.ctxalloc a d n e) s =
          .next ((s.askWidth k f d n (x.value.extractLsb' 0 8) (some (x.value.extractLsb' 8 6).toNat)).opDone k [a] 1 e)))) ∧
    (∀ id i col w m, aget? s.insts id = some i → i.forme.widthChanges.find? (fun c => decide (c.target = col)) = some w →
      aget? i.forme.actors w.actor = some m →
      let room : Prop := s.buffered i.ctx w.actor m (m.members.headD m.home) w.out < 4
      (m.active.contains w.seq = true ∨ ¬room ∨ s.colourIdle i col = false ∨ s.replicasRun i w = true →
        exec (.colourWidthChange id col) s = .next s) ∧
      (m.active.contains w.seq = false → room → i.restoring = false → s.replicasRun i w = false → s.colourIdle i col = true → ∃ r g tok q j,
        (s.setInst id (i.updForme q fun f => { f with widthChanges := f.widthChanges.erase w })).applyWidth id i q w = (r, g) ∧
        q = s.inCut i (m.members.headD m.home) ∧
        exec (.colourWidthChange id col) s = .next (if m.carry.isSome
          then r.inject (m.members.headD m.home) i.ctx w.out w.actor (m.members.headD m.home) (.token tok s.cycle)
          else r.sendToken id i.ctx w.actor w.seq (m.members.headD m.home) w.out tok) ∧
        aget? r.insts id = some j ∧ tok.width = j.forme.widthField w.colour ∧
        tok.value = BitVec.ofNat 32 g ∧ tok.fmt = 0 ∧ tok.colour = w.colour ∧ tok.iter = w.iter ∧ tok.slot = w.slot ∧
        (w.width = none → g = 1) ∧ (∀ q, w.width = some q → g ≤ max (max q 1) (i.forme.width w.target.toNat)))) ∧
    (∀ id i, s.readOnce k f [a, b] = some [x, y] → s.instAt k.sheet f.ctx = some (id, i) → d.toNat < 4 → s.rateUsed k d.toNat = false →
      (∀ col, i.granted k f.actor f.tag = some col ∨ (i.granted k f.actor f.tag = none ∧ i.lowestColour = some col) →
        ∃ (v : State) (tok : Token) (j : Inst), exec (.tcall a b d n e) s = .next ((v.emitNow k d tok).opDone k [a, b] 1 e) ∧
          tok.value = x.value ∧ tok.fmt = x.fmt ∧ tok.colour = BitVec.ofNat 8 col ∧ tok.iter = 0 ∧ tok.slot = n ∧
          aget? v.insts id = some j ∧ aget? j.forme.frames col = some { colour := x.colour, iter := x.iter, link := y.value } ∧
          aget? j.forme.widths col = none ∧ j.granted k f.actor f.tag = none ∧
          (i.ctx < 4 → ∀ sh ∈ i.sheets, v.window sh i.ctx (BitVec.ofNat 8 col) = Window.reset) ∧ v.mem = s.mem) ∧
      (i.granted k f.actor f.tag = none → i.lowestColour = none → ∃ j, exec (.tcall a b d n e) s = .next (s.setInst id j) ∧
        (k, f.actor, f.tag) ∈ j.tcalls ∧ { j with tcalls := i.tcalls } = i) ∧
      (aget? i.forme.frames x.colour.toNat = none → exec (.tret a b d n e) s = .next (s.opIllegal k f 5)) ∧
      (∀ fr, aget? i.forme.frames x.colour.toNat = some fr → ∃ tok, exec (.tret a b d n e) s =
          .next (((s.setInst id (i.freeColour (s.inCut i k) x.colour.toNat)).emitNow k d tok).opDone k [a, b] 1 e) ∧
        tok.value = x.value ∧ tok.fmt = x.fmt ∧ tok.colour = fr.colour ∧ tok.iter = fr.iter ∧
        tok.slot = (if fr.link.getLsbD 4 then fr.link.extractLsb' 0 4 else n)) ∧
      (∀ q c, aget? (i.freeColour q c).forme.frames c = none ∧
        (i.tcalls = [] → (i.freeColour q c).grants = i.grants) ∧
        (∀ m act tg r, i.tcalls = (m, act, tg) :: r → (i.freeColour q c).grants = i.grants ++ [(m, act, tg, c)] ∧ (i.freeColour q c).tcalls = r))) ∧
    (∀ sheet tile ctx (col : BitVec 8) lo rest, (s.tile sheet tile).loComing = ((ctx, col.toNat), lo) :: rest →
      ∃ t, exec (.loUpdateArrival sheet tile ctx col) s = .next t ∧ aget? (t.tile sheet tile).lo (ctx, col.toNat) = some lo ∧
        (t.tile sheet tile).loComing = rest ∧ t.nodes = s.nodes ∧ t.mem = s.mem)

/-- steer is ILLEGAL_OP from out3 on; else it completes, emitting a on outK where the value of b is not zero and on out(K+1)
where it is, if that can be delivered. gate completes: it delivers a to dst where the value of b is not zero and otherwise
drops it. sink completes and drops a. fan completes where no output with a nonzero rate has used that rate up, and emits a on
each; else it is ILLEGAL_OP. merge and omerge complete with dst an output within its rate: they emit the one token the
firing consumed with its own colour and iteration, and omerge moves its cycle on by one. (R134, R135, R120) -/
def Obligations.Routing : Prop :=
  ∀ (s u : State) (f : Firing) (a b : Src) (d : Dst) (n : BitVec 4) (e : Bool) (x y : Token) (k : NodeId),
    k = s.curNode → (s.node k).running = some f →
    (s.readOnce k f [a, b] = some [x, y] →
      (3 ≤ d.toNat → exec (.steer a b d n e) s = .next (s.opIllegal k f 0)) ∧
      (d.toNat < 3 → y.value ≠ 0 → s.writeOut k d (s.resultToken k f n x.val) = .done u → exec (.steer a b d n e) s = .next (u.opDone k [a, b] 1 e)) ∧
      (d.toNat < 3 → y.value = 0 → s.writeOut k (d + 1) (s.resultToken k f n x.val) = .done u → exec (.steer a b d n e) s = .next (u.opDone k [a, b] 1 e)) ∧
      (y.value ≠ 0 → s.writeDst k f d n x.val = .done u → exec (.gate a b d n e) s = .next (u.opDone k [a, b] 1 e)) ∧
      (y.value = 0 → exec (.gate a b d n e) s = .next (s.opDone k [a, b] 1 e)) ∧
      (∀ t, f.either = some t → d.toNat < 4 → s.rateUsed k d.toNat = false → ∃ tok,
        tok.value = t.value ∧ tok.fmt = t.fmt ∧ tok.colour = t.colour ∧ tok.iter = t.iter ∧ tok.slot = n ∧
        exec (.merge a b d n e) s = .next ((s.emitNow k d tok).opDone k [a, b] 1 e) ∧
        exec (.omerge a b d n e) s = .next (((s.emitNow k d tok).turnOmerge k f).opDone k [a, b] 1 e))) ∧
    (s.readOnce k f [a] = some [x] →
      exec (.sink a e) s = .next (s.opDone k [a] 1 e) ∧
      ((∀ o ∈ s.outputs k f, s.rateUsed k o = false) → exec (.fan a n e) s = .next
        (((s.outputs k f).foldl (fun s o => (s.emit k o (s.resultToken k f n x.val)).getD s) s).opDone k [a] 1 e)) ∧
      ((∃ o ∈ s.outputs k f, s.rateUsed k o = true) → exec (.fan a n e) s = .next (s.opIllegal k f 3)))

/-- acc with b a keep register and dst the same completes where the combine of the actor's header applies to the state's tag and a
carries that tag, and puts b ⊕ a into the register; scan completes likewise, with dst an output within its rate, and emits the
new value as well. The combines are the wrapping sum, minimum and maximum on INT32, the sum, minimum and maximum on FP32, and
and, or, xor on both; a state tag without the combine, or operands of two tags, report FMT (naming b or a: log entry 36),
and a front merge ILLEGAL_OP. delay with an INT32 b completes where b describes a ring in the tile's TS that has room (and no
range of the scoreboard holds the entry): it appends the value and tag of a to the ring of the actor that b describes, by
whatever register it was filled (log entry 49), and changes no other ring and no other byte; a full ring, a ring past the TS,
and a b that filled a ring which still holds entries and now describes another, are ILLEGAL_OP. rowms
completes, updating the running maximum and sum registers over the lanes of a; rowfin completes, delivering the reciprocal of
the sum, NaN for a NaN maximum. rowscl on a ring that is empty completes at once; else it emits the oldest entry scaled,
takes it off the ring and stays at the op word while the ring has more, completing with the last; an entry of a tag that is
no floating point reports FMT. What waits for an inject buffer or for a range stays at its op word, and keeps what it has
read (log entry 136). (R136, R137, R138, R139, R140, R219) -/
def Obligations.DeclaredState : Prop :=
  ∀ (s u : State) (f : Firing) (a b c : Src) (d : Dst) (n : BitVec 4) (e : Bool) (x y z : Token) (k : NodeId),
    k = s.curNode → (s.node k).running = some f →
    (∀ v, s.readOnce k f [a, b] = some [x, y] → 4 ≤ b.toNat → actorComb (s.headerOf k f) ≠ 7 → x.fmt = y.fmt →
      combine (actorComb (s.headerOf k f)) y.fmt y.value x.value = some v →
      exec (.acc a b b n e) s = .next ((s.setKeep k f.ctx (b.toNat - 4) ⟨y.fmt, v⟩).opDone k [a, b] 1 e) ∧
      (d.toNat < 4 → s.rateUsed k d.toNat = false → exec (.scan a b d n e) s = .next
        (((s.setKeep k f.ctx (b.toNat - 4) ⟨y.fmt, v⟩).emitNow k d (s.resultToken k f n ⟨y.fmt, v⟩)).opDone k [a, b] 1 e))) ∧
    (s.readOnce k f [a, b] = some [x, y] → 4 ≤ b.toNat →
      (actorComb (s.headerOf k f) = 7 → exec (.acc a b b n e) s = .next (s.opIllegal k f 0) ∧ exec (.scan a b d n e) s = .next (s.opIllegal k f 0)) ∧
      (actorComb (s.headerOf k f) ≠ 7 → combine (actorComb (s.headerOf k f)) y.fmt y.value x.value = none →
        exec (.acc a b b n e) s = .next (s.opFault k f 0x03 0 y.bits) ∧ exec (.scan a b d n e) s = .next (s.opFault k f 0x03 0 y.bits)) ∧
      (actorComb (s.headerOf k f) ≠ 7 → combine (actorComb (s.headerOf k f)) y.fmt y.value x.value ≠ none → x.fmt ≠ y.fmt →
        exec (.acc a b b n e) s = .next (s.opFault k f 0x03 0 x.bits) ∧ exec (.scan a b d n e) s = .next (s.opFault k f 0x03 0 x.bits))) ∧
    (∀ p q : W32, combine 0 0 p q = some (p + q) ∧ combine 2 0 p q = some (if p.toInt ≤ q.toInt then p else q) ∧
      combine 3 0 p q = some (if p.toInt ≤ q.toInt then q else p) ∧ combine 1 1 p q = arith2 1 false (· + ·) FpNum.add p q ∧
      combine 2 1 p q = arith2 1 false min minNum p q ∧ combine 3 1 p q = arith2 1 false max maxNum p q ∧
      (∀ tag : BitVec 3, tag.toNat < 2 → combine 4 tag p q = some (p &&& q) ∧ combine 5 tag p q = some (p ||| q) ∧
        combine 6 tag p q = some (p ^^^ q)) ∧
      combine 0 1 p q = none ∧ combine 1 0 p q = none ∧ combine 7 0 p q = none ∧
      (∀ comb (tag : BitVec 3), 2 ≤ tag.toNat → combine comb tag p q = none)) ∧
    (s.readOnce k f [a, b] = some [x, y] → y.fmt = 0 →
      let c := s.nodeCtx k f.ctx
      let r := c.ring f.actor y.value
      let loc := ringEntry k y.value (r.head + r.count)
      let grown : Ring := { r with codes := (if b.toNat ∈ r.codes then r.codes else b.toNat :: r.codes), count := r.count + 1 }
      let v := s.setNodeCtx k f.ctx (c.setRing grown)
      let bars : Prop := ∃ q ∈ c.rings, q.actor = f.actor ∧ b.toNat ∈ q.codes ∧ q.count ≠ 0 ∧ q.desc ≠ y.value
      r.actor = f.actor ∧ r.desc = y.value ∧
      ((∀ q ∈ c.rings, q.actor = f.actor → q.desc = y.value → q.count = 0) → r.codes = [] ∧ r.head = 0 ∧ r.count = 0) ∧
      (ringOk y.value = false ∨ bars ∨ ringCap y.value ≤ r.count → exec (.delay a b e) s = .next (s.opIllegal k f 0)) ∧
      (ringOk y.value = true → ¬bars → r.count < ringCap y.value →
        (s.ringHeld k loc = true → exec (.delay a b e) s = .next (s.latch k f [x, y])) ∧
        (s.ringHeld k loc = false →
          exec (.delay a b e) s = .next (({ v with mem := s.mem.write loc (wordBytes 8 (0#29 ++ x.fmt ++ x.value)) } : State).opDone k [a, b] 1 e) ∧
          (v.nodeCtx k f.ctx).ring f.actor y.value = grown ∧
          ∀ act desc, ¬(act = f.actor ∧ desc = y.value) → (v.nodeCtx k f.ctx).ring act desc = c.ring act desc))) ∧
    (∀ fm, s.readOnce k f [a, b, c] = some [x, y, z] → 4 ≤ b.toNat → 4 ≤ c.toNat → fpCompute x.fmt = some fm → y.fmt = 1 → z.fmt = 1 →
      exec (.rowms a b c b n e) s = .next (((s.setKeep k f.ctx (b.toNat - 4) ⟨1, (rowms fm (lanesOf x.fmt x.value) y.value z.value).1⟩).setKeep
        k f.ctx (c.toNat - 4) ⟨1, (rowms fm (lanesOf x.fmt x.value) y.value z.value).2⟩).opDone k [a, b, c] 1 e)) ∧
    (s.readOnce k f [a, b] = some [x, y] → x.fmt = 1 → y.fmt = 1 → s.writeDst k f d n ⟨1, rowfin x.value y.value⟩ = .done u →
      exec (.rowfin a b d n e) s = .next (u.opDone k [a, b] 1 e)) ∧
    (s.readOnce k f [a, b, c] = some [x, y, z] → y.fmt = 1 → z.fmt = 1 → d.toNat < 4 →
      let r := (s.nodeCtx k f.ctx).ring f.actor x.value
      let loc := ringEntry k x.value r.head
      let w := bytesWord (s.mem.read loc 8)
      let rest : Ring := { r with head := (r.head + 1) % ringCap x.value, count := r.count - 1 }
      let v := s.setNodeCtx k f.ctx ((s.nodeCtx k f.ctx).setRing rest)
      (r.count = 0 → exec (.rowscl a b c d n e) s = .next (s.opDone k [a, b, c] 1 e)) ∧
      (0 < r.count → s.injectFull k f d.toNat = true ∨ s.ringHeld k loc = true →
        exec (.rowscl a b c d n e) s = .next (s.latch k f [x, y, z])) ∧
      (0 < r.count → s.injectFull k f d.toNat = false → s.ringHeld k loc = false →
        (rowscl ⟨w.extractLsb' 32 3, w.extractLsb' 0 32⟩ y.value z.value = none →
          exec (.rowscl a b c d n e) s = .next (s.opFault k f 0x03 0 w)) ∧
        (∀ q, rowscl ⟨w.extractLsb' 32 3, w.extractLsb' 0 32⟩ y.value z.value = some q →
          (1 < r.count → (v.nodeCtx k f.ctx).ring f.actor x.value = rest) ∧
          let t := v.emitFree k f d.toNat (v.resultToken k f n ⟨w.extractLsb' 32 3, q⟩)
          (r.count = 1 → exec (.rowscl a b c d n e) s = .next (t.opDone k [a, b, c] 1 e)) ∧
          (1 < r.count → exec (.rowscl a b c d n e) s = .next (t.latch k f [x, y, z])))))

/-- With INT32 address tokens, an aligned address below 2 MB of own TS (ldt, stt) or below 2^48 (ldx, stx, amox: 65536·b +
a) whose access may be made at loc, each of the five completes and goes on to the next op word: a load delivers the
little-endian word there with the tag of mod, a store writes the 32-bit value there, amox writes what its function makes of
old value and operand (amoNew, whose values MemoryPairs states) and delivers the old value as INT32 (where the value can be
delivered). An address token of another tag
reports FMT, a misaligned address ALIGN, one beyond its range ACCESS, an access to a page that is not the firing's ACCESS and
one to a page declared invalid XLATE, with the address in TVAL. (R141, R39, R118) -/
def Obligations.AddressGenerator : Prop :=
  ∀ (s t u : State) (f : Firing) (a b c : Src) (d : Dst) (n : BitVec 4) (e : Bool) (x y z : Token) (k : NodeId) (loc : Nat) (po : BitVec 2)
    (g : BitVec 3) (fn : AmoFn), k = s.curNode → (s.node k).running = some f →
    let ts := 0xFF00000000000000 + x.value.toNat
    let tv : Word := x.value.setWidth 64
    let va := 65536 * y.value.toNat + x.value.toNat
    let vv : Word := BitVec.ofNat 64 va
    let got (v : State) : W32 := BitVec.ofNat 32 (leNat (v.loadBytes (v.agAgent k f).inst loc 4))
    let ldt := exec (.ldt a d n g e) s
    let stt := exec (.stt a b e) s
    let ldx := exec (.ldx a b d n g e) s
    let stx := exec (.stx a b c e) s
    let amox := exec (.amox a b c d n fn e) s
    (s.readOnce k f [a] = some [x] →
      (x.fmt ≠ 0 → ldt = .next (s.opFault k f 0x03 0 x.bits)) ∧
      (x.fmt = 0 → x.value.toNat % 4 ≠ 0 → ldt = .next (s.opFault k f 0x0B 0 tv)) ∧
      (x.fmt = 0 → x.value.toNat % 4 = 0 → 0x200000 ≤ x.value.toNat → ldt = .next (s.opFault k f 0x0A 0 tv)) ∧
      (x.fmt = 0 → x.value.toNat % 4 = 0 → x.value.toNat < 0x200000 → f.invalid = false →
        (s.resolve (s.agAgent k f) ts 4 .read = (t, .access) → ldt = .next (s.opFault k f 0x0A 0 tv)) ∧
        (s.resolve (s.agAgent k f) ts 4 .read = (t, .ok loc po) → t.writeDst k f d n ⟨g, got t⟩ = .done u → ldt = .next (u.opDone k [a] 1 e)))) ∧
    (s.readOnce k f [a, b] = some [x, y] →
      (x.fmt ≠ 0 → stt = .next (s.opFault k f 0x03 0 x.bits)) ∧
      (x.fmt = 0 → x.value.toNat % 4 ≠ 0 → stt = .next (s.opFault k f 0x0B 0 tv)) ∧
      (x.fmt = 0 → x.value.toNat % 4 = 0 → 0x200000 ≤ x.value.toNat → stt = .next (s.opFault k f 0x0A 0 tv)) ∧
      (x.fmt = 0 → x.value.toNat % 4 = 0 → x.value.toNat < 0x200000 → f.invalid = false →
        (s.resolve (s.agAgent k f) ts 4 .write = (t, .access) → stt = .next (s.opFault k f 0x0A 0 tv)) ∧
        (s.resolve (s.agAgent k f) ts 4 .write = (t, .ok loc po) →
          stt = .next ((t.storeBytes (t.agAgent k f) loc (natBytes 4 y.value.toNat)).opDone k [a, b] 1 e))) ∧
      (x.fmt ≠ 0 → ldx = .next (s.opFault k f 0x03 0 x.bits)) ∧
      (x.fmt = 0 → y.fmt ≠ 0 → ldx = .next (s.opFault k f 0x03 0 y.bits)) ∧
      (x.fmt = 0 → y.fmt = 0 →
        (va % 4 ≠ 0 → ldx = .next (s.opFault k f 0x0B 0 vv)) ∧
        (va % 4 = 0 → 2 ^ 48 ≤ va → ldx = .next (s.opFault k f 0x0A 0 vv)) ∧
        (va % 4 = 0 → va < 2 ^ 48 →
          (f.invalid = true → ldx = .next (s.opFault k f 0x09 0 vv)) ∧
          (f.invalid = false → s.resolve (s.agAgent k f) va 4 .read = (t, .xlate) → ldx = .next (s.opFault k f 0x09 0 vv)) ∧
          (f.invalid = false → s.resolve (s.agAgent k f) va 4 .read = (t, .access) → ldx = .next (s.opFault k f 0x0A 0 vv)) ∧
          (f.invalid = false → s.resolve (s.agAgent k f) va 4 .read = (t, .ok loc po) → t.writeDst k f d n ⟨g, got t⟩ = .done u →
            ldx = .next (u.opDone k [a, b] 1 e))))) ∧
    (s.readOnce k f [a, b, c] = some [x, y, z] →
      (x.fmt ≠ 0 → stx = .next (s.opFault k f 0x03 0 x.bits) ∧ amox = .next (s.opFault k f 0x03 0 x.bits)) ∧
      (x.fmt = 0 → y.fmt ≠ 0 → stx = .next (s.opFault k f 0x03 0 y.bits) ∧ amox = .next (s.opFault k f 0x03 0 y.bits)) ∧
      (x.fmt = 0 → y.fmt = 0 → z.fmt ≠ 0 → amox = .next (s.opFault k f 0x03 0 z.bits)) ∧
      (x.fmt = 0 → y.fmt = 0 →
        (va % 4 ≠ 0 → stx = .next (s.opFault k f 0x0B 0 vv) ∧ (z.fmt = 0 → amox = .next (s.opFault k f 0x0B 0 vv))) ∧
        (va % 4 = 0 → 2 ^ 48 ≤ va → stx = .next (s.opFault k f 0x0A 0 vv) ∧ (z.fmt = 0 → amox = .next (s.opFault k f 0x0A 0 vv))) ∧
        (va % 4 = 0 → va < 2 ^ 48 →
          (f.invalid = true → stx = .next (s.opFault k f 0x09 0 vv) ∧ (z.fmt = 0 → amox = .next (s.opFault k f 0x09 0 vv))) ∧
          (f.invalid = false → s.resolve (s.agAgent k f) va 4 .write = (t, .access) → stx = .next (s.opFault k f 0x0A 0 vv)) ∧
          (f.invalid = false → s.resolve (s.agAgent k f) va 4 .write = (t, .xlate) → stx = .next (s.opFault k f 0x09 0 vv)) ∧
          (f.invalid = false → z.fmt = 0 → s.resolve (s.agAgent k f) va 4 .atomic = (t, .access) → amox = .next (s.opFault k f 0x0A 0 vv)) ∧
          (f.invalid = false → z.fmt = 0 → s.resolve (s.agAgent k f) va 4 .atomic = (t, .xlate) → amox = .next (s.opFault k f 0x09 0 vv)) ∧
          (f.invalid = false → s.resolve (s.agAgent k f) va 4 .write = (t, .ok loc po) →
            stx = .next ((t.storeBytes (t.agAgent k f) loc (natBytes 4 z.value.toNat)).opDone k [a, b, c] 1 e)) ∧
          (f.invalid = false → z.fmt = 0 → s.resolve (s.agAgent k f) va 4 .atomic = (t, .ok loc po) →
            (t.storeBytes (t.agAgent k f) loc (natBytes 4 (amoNew fn 32 (got t).toNat z.value.toNat))).writeDst k f d n ⟨0, got t⟩ = .done u →
            amox = .next (u.opDone k [a, b, c] 1 e)))))

/-- tmove with an INT32 operand that is 32-aligned and below 2 MB, and dst a keep register or an output within its rate, runs
in steps: the first reads the 32-byte descriptor at that TS offset and, where it is correct and the scoreboard has room, takes
the ranges it names and stays; each later one moves the next eight bytes from source to destination, where both may be
accessed, and stays; the one that finds them all moved completes: its ranges are given back, the byte count is delivered as
INT32, and the firing goes on. bndry completes below SYS scope, after the wait for a commit, and for a firing of no instance:
it delivers a with its own colour and iteration; at SYS scope the firing of an instance first waits for the commit of a cut.
A firing that stays at its op word keeps what it has read (log entry 136). (R142, R145, R41, R227) -/
def Obligations.MovesAndBoundaries : Prop :=
  ∀ (s t u : State) (f : Firing) (a b c : Src) (d : Dst) (n : BitVec 4) (e : Bool) (x y z : Token) (k : NodeId) (loc : Nat) (po : BitVec 2),
    k = s.curNode → (s.node k).running = some f →
    (s.readOnce k f [a] = some [x] → x.fmt = 0 → x.value.toNat % 32 = 0 → x.value.toNat < 0x200000 →
      (4 ≤ d.toNat ∨ s.rateUsed k d.toNat = false) →
      (f.progress = 0 → f.invalid = false → s.resolve (s.agAgent k f) (0xFF00000000000000 + x.value.toNat) 32 .read = (t, .ok loc po) →
        t.moveFault (t.agAgent k f) (moveOf (t.mem.read loc 32)) = none →
        (t.sheet k.sheet).board.length + (moveRanges k.sheet (moveOf (t.mem.read loc 32))).length ≤ 32 →
        ∃ v g, exec (.tmove a d n e) s = .next v ∧ (v.node k).running = some g ∧ g.progress = 1 ∧ v.mem = s.mem ∧
          (v.sheet k.sheet).board.length = (t.sheet k.sheet).board.length + (moveRanges k.sheet (moveOf (t.mem.read loc 32))).length) ∧
      (∀ m p, f.progress = p + 1 → m = moveOf (f.lanes.flatMap fun w => natBytes 4 w.toNat) →
        (m.len ≤ 8 * p → (s.freeNodeRanges k).writeDst k f d n ⟨0, BitVec.ofNat 32 m.len⟩ = .done u →
          exec (.tmove a d n e) s = .next (u.opDone k [a] 1 e)) ∧
        (∀ dest po', 8 * p < m.len → f.invalid = false → s.resolve (s.agAgent k f) (m.src + 8 * p) 8 .read = (t, .ok loc po) →
          t.resolve (t.agAgent k f) (m.dst + 8 * p) 8 .write = (u, .ok dest po') → exec (.tmove a d n e) s =
          .next (((u.storeBytes (u.agAgent k f) dest (u.loadBytes (u.agAgent k f).inst loc 8)).setRunning k
            (some { f with progress := p + 2 })).latch k f [x])))) ∧
    (∀ sc, s.readOnce k f [a] = some [x] → (sc ≠ .sys ∨ f.progress ≠ 0 ∨ s.instAt k.sheet f.ctx = none) →
      (4 ≤ d.toNat → exec (.bndry a d n sc e) s = .next ((s.setKeep k f.ctx (d.toNat - 4) x.val).opDone k [a] 1 e)) ∧
      (d.toNat < 4 → s.rateUsed k d.toNat = false → ∃ tok, exec (.bndry a d n sc e) s = .next ((s.emitNow k d tok).opDone k [a] 1 e) ∧
        tok.value = x.value ∧ tok.fmt = x.fmt ∧ tok.colour = x.colour ∧ tok.iter = x.iter ∧ tok.slot = n)) ∧
    (∀ id i, s.readOnce k f [a] = some [x] → f.progress = 0 → s.instAt k.sheet f.ctx = some (id, i) →
      exec (.bndry a d n .sys e) s = .next (((s.setRunning k (some { f with wait := .publish })).requestCut id).latch k f [x]))

/-- A converter op word whose dst is a keep register is ILLEGAL_OP. With dst an output, a firing with data from in0 and no open
group completes so: cvt converts the lanes, keeps those that do not fill a token of the target, and emits the full ones where
the inject buffers take them all; cvtq (not on out3) of a floating-point token holds its lanes widened to FP32, of another tag
it reports FMT; cvts without a scale in use keeps the lanes waiting. A firing with a token from in1 completes so: cvt emits
the lanes held as one token, missing lanes zero, and nothing where there are none; cvtq emits the group quantized with its
scale on the next output where the buffers take them; cvts without a group takes the scale of an INT32 token for the next 32
lanes, and reports FMT on another tag. (R146, R147, R148, R149, R120) -/
def Obligations.Converters : Prop :=
  ∀ (s : State) (f : Firing) (a : Src) (d : Dst) (n : BitVec 4) (e : Bool) (x : Token) (k : NodeId),
    k = s.curNode → (s.node k).running = some f →
    s.readOnce k f [a] = some [x] → f.progress = 0 →
    (4 ≤ d.toNat → ∀ sat g, exec (.cvt a d n sat g e) s = .next (s.opIllegal k f 0) ∧ exec (.cvts a d n sat g e) s = .next (s.opIllegal k f 0) ∧
      exec (.cvtq a d n g e) s = .next (s.opIllegal k f 0)) ∧
    (d.toNat < 4 → f.fromIn1 = false → (s.nodeCtx k f.ctx).group = .none → ∀ sat g,
      let ls := (lanesOf x.fmt x.value).map fun l => BitVec.ofNat 32 (convertLane x.fmt g sat l)
      let put (grp : Group) := s.setNodeCtx k f.ctx { s.nodeCtx k f.ctx with group := grp }
      (laneCount x.fmt < laneCount g → exec (.cvt a d n sat g e) s = .next ((put (.lanes x.colour x.iter g ls)).opDone k [a] 1 e)) ∧
      (laneCount x.fmt = laneCount g → s.injectFull k f d.toNat = false → exec (.cvt a d n sat g e) s = .next
        (((put .none).emitFree k f d.toNat (s.laneToken k f n x.colour x.iter ⟨g, ofLanes (laneBits g) (ls.map BitVec.toNat)⟩)).opDone k [a] 1 e)) ∧
      (∀ v, let r := fullTokens g ls 8
        (put (if r.2.isEmpty then .none else .lanes x.colour x.iter g r.2)).drain k f
          (r.1.map fun q => (d.toNat, s.laneToken k f n x.colour x.iter q)) = (v, []) → exec (.cvt a d n sat g e) s = .next (v.opDone k [a] 1 e)) ∧
      (∀ fm, d.toNat ≠ 3 → fpCompute x.fmt = some fm → exec (.cvtq a d n g e) s = .next
        ((put (.quant x.colour x.iter ((lanesOf x.fmt x.value).map fun l => rne32 (fm.decode l)))).opDone k [a] 1 e)) ∧
      (d.toNat ≠ 3 → fpCompute x.fmt = none → exec (.cvtq a d n g e) s = .next (s.opFault k f 0x03 0 x.bits)) ∧
      exec (.cvts a d n sat g e) s = .next ((put (.scaled none 0 ((lanesOf x.fmt x.value).map fun l =>
        (x.colour, x.iter, x.fmt, BitVec.ofNat 32 l)) 0 0 0 [])).opDone k [a] 1 e)) ∧
    (d.toNat < 4 → f.fromIn1 = true → ∀ sat g, let empty := s.setNodeCtx k f.ctx { s.nodeCtx k f.ctx with group := .none }
      ((s.nodeCtx k f.ctx).group = .none → exec (.cvt a d n sat g e) s = .next (empty.opDone k [a] 1 e)) ∧
      (∀ col it h ls, (s.nodeCtx k f.ctx).group = .lanes col it h ls → ls ≠ [] → s.injectFull k f d.toNat = false →
        exec (.cvt a d n sat g e) s = .next ((empty.emitFree k f d.toNat
          (s.laneToken k f n col it ⟨h, ofLanes (laneBits h) (ls.map BitVec.toNat)⟩)).opDone k [a] 1 e)) ∧
      (∀ col it ls v, d.toNat ≠ 3 → (s.nodeCtx k f.ctx).group = .quant col it ls →
        empty.drain k f (s.quantTokens k f d n (BitVec.toNat g) col it ls) = (v, []) → exec (.cvtq a d n g e) s = .next (v.opDone k [a] 1 e)) ∧
      (∀ t, (s.nodeCtx k f.ctx).group = .none → f.either = some t →
        (t.fmt = 0 → exec (.cvts a d n sat g e) s = .next
          ((s.setNodeCtx k f.ctx { s.nodeCtx k f.ctx with group := .scaled (some (t.value.extractLsb' 0 16)) 32 [] 0 0 0 [] }).opDone k [a] 1 e)) ∧
        (t.fmt ≠ 0 → exec (.cvts a d n sat g e) s = .next (s.opFault k f 0x03 0 t.bits))))

/-- wsload of an INT32 control token with zero reserved bits completes for an aligned image within own TS whose bytes may be
read: it puts those bytes into the store named, owned by the context, and makes the context's record; a misaligned image
faults ALIGN. acczero completes for a save slot within own TS and a bank no other context owns: it zeroes the bank with the
kind of bit 17 and keeps the save slot; while another context owns the bank it stays. mm begins where its checks pass (the
control token is good, b is a stream:1 port, the context owns the bank and the store, and the store's image has the precision
asked), draws row tokens of the actor from port b one by one, adds each whole row to the bank, and completes with M after
the last; a store that is not the context's is first loaded anew from the context's record, and without a record, on a
bank of another owner, or at a precision beyond the image's the firing ends ILLEGAL_OP. The row after a row of 128
activations: in an INT48 bank each entry gains the exact sum of products; in an FP32 bank it gains, group by group, 32
activations aligned to the largest exponent E among them, truncated at 2^(E−25), multiplied by the weights read at P planes
and summed exactly, rounded, scaled and rounded, or a NaN where an activation or the scale is not finite. accrd emits the entries row by row, an INT48 entry as INT32 (clamped under .sat), and completes with the last,
giving the bank back where bit 17 says so; of a bank the context does not own it is ILLEGAL_OP. mmInterrupt completes where it
is due: the bank and the record stand in the save slot, the bank has no owner and the firing is suspended. mmResume completes
where it is due and the slot has no error: the bank is the slot's, the firing runs, the store is loaded anew from the record
where it is not the context's, and the record is no longer valid. Neither does anything where it is not due. (R151, R154,
R155, R156, R158, R160, R161, R162, R163) -/
def Obligations.PlaneArray : Prop :=
  ∀ (s u : State) (f : Firing) (a b : Src) (d : Dst) (n : BitVec 4) (e : Bool) (x y : Token) (k : NodeId),
    k = s.curNode → (s.node k).running = some f →
    (s.readOnce k f [a] = some [x] → x.fmt = 0 →
      (∀ img code st, img = x.value.toNat % 2 ^ 21 → code = x.value.toNat / 2 ^ 24 % 4 → st = x.value.toNat / 2 ^ 26 % 2 →
        x.value.toNat < 2 ^ 27 → x.value.toNat / 2 ^ 21 % 8 = 0 →
        (img % 256 ≠ 0 → exec (.wsload a e) s = .next (s.opFault k f 0x0B 0 (BitVec.ofNat 64 img))) ∧
        (img % 256 = 0 → img + planeBytes code ≤ 0x200000 → s.imageAns k f.ctx img code = none → ∃ t : State,
          exec (.wsload a e) s = .next (t.opDone k [a] 1 e) ∧
          (t.node k).store st = some { bytes := s.mem.read (sheetLoc k.sheet img) (planeBytes code), img := img, q := code, owner := f.ctx } ∧
          (t.nodeCtx k f.ctx).records.get st = some (img, code) ∧
          (t.node k).acc0 = (s.node k).acc0 ∧ (t.node k).acc1 = (s.node k).acc1 ∧ t.mem = s.mem)) ∧
      (∀ bk, bk = x.value.toNat / 2 ^ 16 % 2 → x.value.toNat < 2 ^ 18 → x.value.toNat / 2 ^ 15 % 2 = 0 →
        64 * (x.value.toNat % 2 ^ 15) + 32832 ≤ 0x200000 →
        (((s.node k).bank bk).owner = none ∨ ((s.node k).bank bk).owner = some f.ctx → ∃ t : State,
          exec (.acczero a e) s = .next (t.opDone k [a] 1 e) ∧
          (t.node k).bank bk = { int48 := x.value.getLsbD 17, owner := some f.ctx, entries := [] } ∧
          (t.node k).bank (1 - bk) = (s.node k).bank (1 - bk) ∧ t.mem = s.mem ∧
          (f.ctx < 4 → (t.nodeCtx k f.ctx).saveSlot = 64 * (x.value.toNat % 2 ^ 15))) ∧
        (∀ o, ((s.node k).bank bk).owner = some o → o ≠ f.ctx → exec (.acczero a e) s = .next (s.latch k f [x]))) ∧
      (∀ bk rows row0 sat, rows = x.value.toNat % 64 + 1 → row0 = x.value.toNat / 2 ^ 8 % 64 → bk = x.value.toNat / 2 ^ 16 % 2 →
        x.value.toNat < 2 ^ 18 → x.value.toNat / 2 ^ 14 % 4 = 0 → x.value.toNat / 2 ^ 6 % 4 = 0 → row0 + rows ≤ 64 → d.toNat < 4 →
        (((s.node k).bank bk).owner ≠ some f.ctx → exec (.accrd a d n sat e) s = .next (s.opIllegal k f 0)) ∧
        (((s.node k).bank bk).owner = some f.ctx → s.injectFull k f d.toNat = false →
          let entry := ((s.node k).bank bk).entries.getD (128 * row0 + f.progress) 0
          let v : Val := if ((s.node k).bank bk).int48 then
            ⟨0, if sat then BitVec.ofInt 32 (max (-(2 ^ 31)) (min (2 ^ 31 - 1) entry.toInt)) else entry.setWidth 32⟩ else ⟨1, entry.setWidth 32⟩
          let t := s.emitFree k f d.toNat (s.resultToken k f n v)
          (f.progress + 1 < 128 * rows → exec (.accrd a d n sat e) s =
            .next ((t.updRunning k fun g => { g with progress := g.progress + 1 }).latch k f [x])) ∧
          (128 * rows ≤ f.progress + 1 → x.value.getLsbD 17 = false → exec (.accrd a d n sat e) s = .next (t.opDone k [a] 1 e)) ∧
          (128 * rows ≤ f.progress + 1 → x.value.getLsbD 17 = true → exec (.accrd a d n sat e) s = .next
            ((t.setNode k ((t.node k).setBank bk { (s.node k).bank bk with owner := none })).opDone k [a] 1 e))))) ∧
    (s.readOnce k f [a, b] = some [x, y] → x.fmt = 0 → (4 ≤ d.toNat ∨ s.rateUsed k d.toNat = false) →
      let ctl := mmCtl x.value
      (ctl.row0 = x.value.toNat / 2 ^ 18 % 64 ∧ ctl.rows = x.value.toNat / 2 ^ 12 % 64 + 1 ∧ ctl.p = x.value.toNat / 2 ^ 8 % 16 ∧
        ctl.bank = x.value.toNat / 2 % 2 ∧ ctl.store = x.value.toNat % 2 ∧
        (ctl.bad = true ↔ x.value.toNat / 2 ^ 24 ≠ 0 ∨ x.value.toNat / 2 ^ 2 % 64 ≠ 0 ∨ ctl.p = 0 ∨ 64 < ctl.row0 + ctl.rows)) ∧
      (f.progress = 0 → ctl.bad = true ∨ 4 ≤ b.toNat ∨ portMode (s.headerOf k f) b.toNat ≠ .stream 1 ∨
          ((s.node k).bank ctl.bank).owner ≠ some f.ctx ∨ (s.nodeCtx k f.ctx).records.get ctl.store = none →
        exec (.mm a b d n e) s = .next (s.opIllegal k f 0)) ∧
      (∀ record, f.progress = 0 → ctl.bad = false → b.toNat < 4 → portMode (s.headerOf k f) b.toNat = .stream 1 →
        ((s.node k).bank ctl.bank).owner = some f.ctx → (s.nodeCtx k f.ctx).records.get ctl.store = some record →
        (∀ ws, (s.node k).store ctl.store = some ws → ws.owner = f.ctx →
          (planeQ ws.q < ctl.p → exec (.mm a b d n e) s = .next (s.opIllegal k f 0)) ∧
          (ctl.p ≤ planeQ ws.q → exec (.mm a b d n e) s = .next ((s.mmTake k f ctl ws y).latch k f [x, y]))) ∧
        ((∀ ws, (s.node k).store ctl.store = some ws → ws.owner ≠ f.ctx) →
          let ws : WeightStore := { bytes := s.mem.read (sheetLoc k.sheet record.1) (planeBytes record.2), img := record.1, q := record.2, owner := f.ctx }
          let t := s.setNode k ((s.node k).setStore ctl.store (some ws))
          (planeQ record.2 < ctl.p → exec (.mm a b d n e) s = .next (s.opIllegal k f 0)) ∧
          (ctl.p ≤ planeQ record.2 → s.imageAns k f.ctx record.1 record.2 = none →
            exec (.mm a b d n e) s = .next ((t.mmTake k f ctl ws y).latch k f [x, y])))) ∧
      (0 < f.progress → ctl.rows ≤ f.rows → s.writeDst k f d n ⟨0, BitVec.ofNat 32 ctl.rows⟩ = .done u →
        exec (.mm a b d n e) s = .next (u.opDone k [a, b] 1 e)) ∧
      (0 < f.progress → f.rows < ctl.rows → ∀ ws t v, (s.node k).store ctl.store = some ws → s.drawToken k f b.toNat = some (t, v) →
        exec (.mm a b d n e) s = .next ((v.mmTake k f ctl ws t).latch k f [x, y]))) ∧
    (∀ (ctl : MmCtl) (ws : WeightStore) (t : Token), mmTag t.fmt = true → (((s.node k).bank ctl.bank).int48 = true → t.fmt = 6 ∧ unitScales ws = true) →
      let lanes := f.lanes ++ (lanesOf t.fmt t.value).map (drawnLane t.fmt)
      (lanes.length < 128 → s.mmTake k f ctl ws t = s.setRunning k (some { f with progress := 1, lanes := lanes })) ∧
      (lanes.length = 128 → ∃ g, ((s.mmTake k f ctl ws t).node k).running = some g ∧ g.rows = f.rows + 1 ∧ g.lanes = [] ∧
        ((s.mmTake k f ctl ws t).node k).bank ctl.bank = ((s.node k).bank ctl.bank).setRow (ctl.row0 + f.rows)
          (((s.node k).bank ctl.bank).rowAfter ws ctl.p (ctl.row0 + f.rows) lanes))) ∧
    (∀ (bank : Bank) (ws : WeightStore) (P r j : Nat) (lanes : List W32), lanes.length = 128 → j < 128 → P ≤ planeQ ws.q →
      let Q := planeQ ws.q
      let byte (m : Nat) : Byte := ws.bytes.getD m 0
      let w (i : Nat) : Int := ((List.range P).map fun t => let q := Q - P + t
        if (byte (2048 * q + 16 * i + j / 8)).getLsbD (j % 8) then (if q = Q - 1 then -(2 ^ q : Int) else 2 ^ q) else 0).sum
      let scale (g : Nat) : Nat := (byte (2048 * Q + 256 * g + 2 * j)).toNat + 256 * (byte (2048 * Q + 256 * g + 2 * j + 1)).toNat
      let bits (i : Nat) : Nat := ((lanes.getD i 0).extractLsb' 0 16).toNat
      let A (i : Nat) : FpNum := match fpOf ((lanes.getD i 0).extractLsb' 16 3) with
        | some fm => fm.decode (bits i)
        | none => FpNum.ofInt (signedLane (laneBits ((lanes.getD i 0).extractLsb' 16 3)) (bits i))
      let aligned (E : Int) (v : FpNum) : Int := match v with
        | .fin neg m ex =>
          let sh := ex + 25 - E
          let mag : Nat := if 0 ≤ sh then m * 2 ^ sh.toNat else m / 2 ^ (-sh).toNat
          if neg then -(mag : Int) else mag
        | _ => 0
      let old := bank.entries.getD (128 * r + j) 0
      (bank.rowAfter ws P r lanes).length = 128 ∧
      (bank.int48 = true → (bank.rowAfter ws P r lanes).getD j 0 =
        old + BitVec.ofInt 48 ((List.range 128).map fun i => (if 128 ≤ bits i then (bits i : Int) - 256 else bits i) * w i).sum) ∧
      (bank.int48 = false → ∃ t : Nat → W32, (bank.rowAfter ws P r lanes).getD j 0 =
          ((List.range 4).foldl (fun acc g => rne32 ((f32 acc).add (f32 (t g)))) (old.setWidth 32)).setWidth 48 ∧
        ∀ g, g < 4 →
          ((∃ i, i < 32 ∧ ∀ neg m ex, A (32 * g + i) ≠ .fin neg m ex) ∨ scale g / 256 = 255 → t g = 0x7FC00000) ∧
          ((∀ i, i < 32 → ∃ neg m ex, A (32 * g + i) = .fin neg m ex) → scale g / 256 ≠ 255 →
            ((∀ i neg m ex, i < 32 → A (32 * g + i) = .fin neg m ex → m = 0) →
              t g = rne32 ((FpNum.fin false 0 0).mul (s16Value (scale g)))) ∧
            (∀ E : Int, (∃ i neg m ex, i < 32 ∧ A (32 * g + i) = .fin neg m ex ∧ m ≠ 0 ∧ (bitLen m : Int) - 1 + ex = E) →
              (∀ i neg m ex, i < 32 → A (32 * g + i) = .fin neg m ex → m ≠ 0 → (bitLen m : Int) - 1 + ex ≤ E) →
              t g = rne32 ((f32 (rne32 (ofUnits ((List.range 32).map fun i => aligned E (A (32 * g + i)) * w (32 * g + i)).sum (E - 25) false))).mul
                (s16Value (scale g)))))) ∧
      rne32 .nan = 0x7FC00000 ∧ planeQ 0 = 3 ∧ planeQ 1 = 4 ∧ planeQ 2 = 8 ∧ planeQ 3 = 12) ∧
    (∀ m, s.interruptDue m = none → exec (.mmInterrupt m) s = .next s) ∧ (∀ m, s.resumeDue m = none → exec (.mmResume m) s = .next s) ∧
    (∀ m g ctl ws, s.interruptDue m = some (g, ctl) → (s.node m).store ctl.store = some ws → ∃ t, exec (.mmInterrupt m) s = .next t ∧
      (t.node m).running = none ∧ (t.node m).suspended = (s.node m).suspended ++ [g] ∧ ((t.node m).bank ctl.bank).owner = none ∧
      t.mem = s.mem.write (sheetLoc m.sheet (s.nodeCtx m g.ctx).saveSlot) (bankBytes ((s.node m).bank ctl.bank) ++
        recordBytes g ctl (s.mmCtlToken m g) ws.img ws.q)) ∧
    (∀ m g ctl, s.resumeDue m = some (g, ctl) → s.slotFaults m g = [] →
      let slot := sheetLoc m.sheet (s.nodeCtx m g.ctx).saveSlot
      let record := leNat (s.mem.read (slot + 0x8000) 64)
      let img := record / 2 ^ 48 % 2 ^ 21
      let q := record / 2 ^ 40 % 4
      ∃ t, exec (.mmResume m) s = .next t ∧ (t.node m).running = some g ∧
        (t.node m).bank ctl.bank = bankOf (s.mem.read slot 0x8000) g.ctx ∧
        (t.node m).suspended = (s.node m).suspended.erase g ∧
        (s.keepsStore m g ctl = true → (t.node m).store ctl.store = (s.node m).store ctl.store) ∧
        (s.keepsStore m g ctl = false → (t.node m).store ctl.store =
          some { bytes := s.mem.read (sheetLoc m.sheet img) (planeBytes q), img := img, q := q, owner := g.ctx }) ∧
        t.mem = s.mem.set (slot + 0x800D) (s.mem.get (slot + 0x800D) &&& 0xFE))

/-- fcfg with a correct INT32 control token completes: it configures the front and empties it; another one is ILLEGAL_OP. Every
other op word on a front that is not configured is ILLEGAL_OP, but fcnt and fclr. On a configured front whose extension (under
SPILL) no held range of the scoreboard overlaps, with key operands of the keys' tag: fins completes, inserting the tuple by the
domination order and the overflow policy, and where that reports the front full the firing ends with ILLEGAL_OP and code 1;
fprobe completes with what an insertion would do and changes no front; fmrg completes, collecting the words of a tuple and
inserting it with the last. fdrain with a control token of 0 or 1 and K at most 1 emits the tuples in drain order and their
count, one token a step, and completes with the last, emptying the front unless bit 0 says to keep it. fcnt completes with the
number of tuples and the flags; fclr completes, emptying the front and keeping its configuration. A key of another tag reports
FMT. No tuple dominates itself. (R164, R165, R166, R168, R169, R170, R171, R219) -/
def Obligations.Fronts : Prop :=
  ∀ (s u : State) (f : Firing) (a b c : Src) (d : Dst) (n : BitVec 4) (e : Bool) (x : Token) (k : NodeId),
    k = s.curNode → (s.node k).running = some f →
    f.ctx < 4 → let fr := (s.nodeCtx k f.ctx).front
    (s.readOnce k f [a] = some [x] → x.fmt = 0 →
      (frontConfig x.value = none → exec (.fcfg a e) s = .next (s.opIllegal k f 0)) ∧
      (∀ cf, frontConfig x.value = some cf → exec (.fcfg a e) s = .next ((s.setFront k f.ctx
        { config := some cf, tuples := [], ovf := false, nan := false, building := [] }).opDone k [a] 1 e))) ∧
    (fr.config = none → s.readOnce k f [a] = some [x] → exec (.fins a b c e) s = .next (s.opIllegal k f 0) ∧
      exec (.fprobe a b c d n e) s = .next (s.opIllegal k f 0) ∧ exec (.fmrg a e) s = .next (s.opIllegal k f 0) ∧
      exec (.fdrain a d n e) s = .next (s.opIllegal k f 0)) ∧
    (∀ cf ts, fr.config = some cf → s.readOnce k f (if 2 < cf.nk then [a, b, c] else [a, c]) = some ts →
      let uses := if 2 < cf.nk then [a, b, c] else [a, c]
      (∀ q, oddKey cf ts = some q → exec (.fins a b c e) s = .next (s.opFault k f 0x03 0 q.bits) ∧
        exec (.fprobe a b c d n e) s = .next (s.opFault k f 0x03 0 q.bits)) ∧
      (oddKey cf ts = none → s.spillHeld k cf = false → let r := fr.insert cf (tupleOf cf ts)
        (r.2 = false → exec (.fins a b c e) s = .next (((s.setFront k f.ctx r.1).stirExtension k cf).opDone k uses 1 e)) ∧
        (r.2 = true → exec (.fins a b c e) s = .next ((((s.setFront k f.ctx r.1).stirExtension k cf).opIllegal k f 1).latch k f ts)) ∧
        (s.writeDst k f d n ⟨0, probeWord cf fr.tuples (tupleOf cf ts)⟩ = .done u →
          exec (.fprobe a b c d n e) s = .next (u.opDone k uses 1 e)))) ∧
    (∀ cf, fr.config = some cf → s.readOnce k f [a] = some [x] → let keys := if 2 < cf.nk then 2 else 1
      (fr.building.length < keys → x.fmt ≠ cf.keyTag → exec (.fmrg a e) s = .next (s.opFault k f 0x03 0 x.bits)) ∧
      (fr.building.length < keys → x.fmt = cf.keyTag →
        exec (.fmrg a e) s = .next ((s.setFront k f.ctx { fr with building := fr.building ++ [x.val] }).opDone k [a] 1 e)) ∧
      (keys ≤ fr.building.length → s.spillHeld k cf = false → let r := fr.insert cf (builtTuple cf (fr.building ++ [x.val]))
        (r.2 = false → exec (.fmrg a e) s = .next
          (((s.setFront k f.ctx { r.1 with building := [] }).stirExtension k cf).opDone k [a] 1 e)) ∧
        (r.2 = true → exec (.fmrg a e) s = .next
          ((((s.setFront k f.ctx { r.1 with building := [] }).stirExtension k cf).opIllegal k f 1).latch k f [x])))) ∧
    (∀ cf out off v, fr.config = some cf → s.readOnce k f [a] = some [x] → x.fmt = 0 → x.value.toNat < 2 → d.toNat < 2 →
      s.spillHeld k cf = false →
      let l := drainList cf d.toNat fr.tuples
      l[f.progress]? = some (out, off, v) → s.injectFull k f out = false →
      let t := s.emitFree k f out (s.resultToken k f (n + BitVec.ofNat 4 off) v)
      (f.progress + 1 < l.length → exec (.fdrain a d n e) s =
        .next ((t.updRunning k fun g => { g with progress := g.progress + 1 }).latch k f [x])) ∧
      (f.progress + 1 = l.length → x.value = 1 → exec (.fdrain a d n e) s = .next (t.opDone k [a] 1 e)) ∧
      (f.progress + 1 = l.length → x.value = 0 → exec (.fdrain a d n e) s = .next ((t.setFront k f.ctx { fr with tuples := [] }).opDone k [a] 1 e))) ∧
    (s.writeDst k f d n ⟨0, BitVec.ofNat 32 (fr.tuples.length + (if fr.ovf then 65536 else 0) + (if fr.nan then 131072 else 0))⟩ = .done u →
      exec (.fcnt d n e) s = .next (u.opDone k [] 1 e)) ∧
    exec (.fclr e) s = .next ((s.setFront k f.ctx { config := fr.config, tuples := [], ovf := false, nan := false, building := [] }).opDone k [] 1 e) ∧
    (∀ cf p, dominates cf p p = false)

/-- Each of tokenArrival, matchingStoreAdmit and firingStart completes, with the next state its rule gives. An arrival, of the first
token of an edge whose end is configured and takes it, whose edge ports have allowance and are its context's in turn: at a wide port
the token waits for the outbound stream; at a parameter port it becomes the parameter; at a stream port with fewer than four queued tokens, and at a tagged
port that holds no token of its tag, it joins the queue; memory is unchanged, and the edge has lost its first item. Nothing
arrives at an empty edge, or while the instance is being restored. A token for a port that its actor declares off, or for a slot of
no actor, is taken and reported ILLEGAL_OP with codes 2 and 4; one that duplicates a token held with its tag at its port begins a
rollback the first time, and is taken and reported DUPTAG, to be discarded when the report closes, when the same comes again; each
TVAL is the token. An admission of a token bound for the matching store that the tile admits
moves it from its queue into the store. A start, at a node without a firing, of the chosen ready firing of a set that is not to be
uncloned and whose splitters the sheet's units pay: the firing stands at the slot of its tag with the tokens of
its set as operands. At a node that runs a firing nothing starts. (R15, R16, R97, R116, R119, R222, R241, R245, R250, R263, R301, R321) -/
def Obligations.TokenEvents : Prop :=
  (∀ (s : State) (id ed : Nat) (i : Inst) (e : Edge) (t : Token) (rest : List Item), aget? s.insts id = some i → aget? i.edges ed = some e →
    (i.restoring = true ∨ e.items = [] → exec (.tokenArrival id ed) s = .next s) ∧
    (∀ since, i.restoring = false → s.wayStopped e = false → i.unready e.dst = false → e.items = .token t since :: rest →
      (∀ p ∈ e.crossings, s.edgeOpen p = true) → s.edgeTurn i.ctx e.crossings = true →
      (∀ sheet port, e.dst = .wide sheet port → ∃ (u : State) (j : Inst) (e' : Edge), exec (.tokenArrival id ed) s = .next u ∧
        agetD (u.sheet sheet).wide (port, i.ctx) [] = agetD (s.sheet sheet).wide (port, i.ctx) [] ++ [.token t s.cycle] ∧
        aget? u.insts id = some j ∧ aget? j.edges ed = some e' ∧ e'.items = rest ∧ u.mem = s.mem ∧ u.nodes = s.nodes) ∧
      (∀ a x port n hd h ext, e.dst = .actor a port → aget? i.forme.actors a = some x → n = x.members.headD x.home → port < 4 → i.ctx < 4 →
        (s.nodeCtx n i.ctx).holdsEdge ed e = false → (s.nodeCtx n i.ctx).headerFor t.slot.toNat = some (hd, h, ext) →
        (portMode h port = .stream 0 → ∃ (u : State) (q : QToken) (j : Inst) (e' : Edge), exec (.tokenArrival id ed) s = .next u ∧
          ((u.nodeCtx n i.ctx).params.get hd).get port = some q ∧ q.tok = { t with port := BitVec.ofNat 2 port } ∧
          aget? u.insts id = some j ∧ aget? j.edges ed = some e' ∧ e'.items = rest ∧ u.mem = s.mem) ∧
        (portMode h port = .off → s.noHandler i = false → ∃ (u : State) (r : Report) (j : Inst) (e' : Edge),
          exec (.tokenArrival id ed) s = .next u ∧ aget? u.insts id = some j ∧ aget? j.edges ed = some e' ∧ e'.items = rest ∧
          j.frozen = true ∧ r ∈ j.reports ∧ r.kind = 0x02 ∧ r.sub = 2 ∧ r.slot = t.slot ∧
          r.tval = ({ t with port := BitVec.ofNat 2 port } : Token).bits ∧ u.mem = s.mem ∧ u.nodes = s.nodes) ∧
        (((s.nodeCtx n i.ctx).queues.get port).length < 4 →
          ((∃ r, portMode h port = .stream (r + 1)) ∨
            (portMode h port = .tagged ∧ s.holdsTag n i.ctx port { t with port := BitVec.ofNat 2 port } = false)) →
          ∃ (u : State) (q : QToken) (j : Inst) (e' : Edge), exec (.tokenArrival id ed) s = .next u ∧
            (u.nodeCtx n i.ctx).queues.get port = (s.nodeCtx n i.ctx).queues.get port ++ [q] ∧
            q.tok = { t with port := BitVec.ofNat 2 port } ∧ q.arrived = s.cycle ∧
            aget? u.insts id = some j ∧ aget? j.edges ed = some e' ∧ e'.items = rest ∧ u.mem = s.mem) ∧
        (((s.nodeCtx n i.ctx).queues.get port).length < 4 → portMode h port = .tagged →
          let tok : Token := { t with port := BitVec.ofNat 2 port }
          let key := (n, tok.fireTag, port)
          s.holdsTag n i.ctx port tok = true →
          (key ∉ i.dupSeen →
            (i.cutsDone = 0 ∨ 7 ≤ i.rollbacks → exec (.tokenArrival id ed) s =
              .next ((s.setInst id { i with dupSeen := key :: i.dupSeen }).endLaunch id 0x0D 0)) ∧
            (i.cutsDone ≠ 0 → i.rollbacks < 7 → ∃ (u : State) (j : Inst), exec (.tokenArrival id ed) s = .next u ∧
              aget? u.insts id = some j ∧ j.restoring = true ∧ j.rollbacks = i.rollbacks + 1 ∧ key ∈ j.dupSeen ∧ u.mem = s.mem)) ∧
          (key ∈ i.dupSeen → s.noHandler i = false → ∃ (u : State) (r : Report) (j : Inst) (e' : Edge),
            exec (.tokenArrival id ed) s = .next u ∧ aget? u.insts id = some j ∧ aget? j.edges ed = some e' ∧ e'.items = rest ∧
            j.frozen = true ∧ r ∈ j.reports ∧ r.kind = 0x04 ∧ r.tval = tok.bits ∧ r.discard = some tok ∧ u.mem = s.mem))) ∧
      (∀ a x port n, e.dst = .actor a port → aget? i.forme.actors a = some x → n = x.members.headD x.home →
        (s.nodeCtx n i.ctx).holdsEdge ed e = false → (s.nodeCtx n i.ctx).headerFor t.slot.toNat = none → s.noHandler i = false →
        ∃ (u : State) (r : Report) (j : Inst) (e' : Edge),
          exec (.tokenArrival id ed) s = .next u ∧ aget? u.insts id = some j ∧ aget? j.edges ed = some e' ∧ e'.items = rest ∧
          j.frozen = true ∧ r ∈ j.reports ∧ r.kind = 0x02 ∧ r.sub = 4 ∧
          r.tval = ({ t with port := BitVec.ofNat 2 port } : Token).bits ∧ u.mem = s.mem))) ∧
  (∀ (s : State) (n : NodeId) (ctx port place : Nat) (q : QToken) (res : Bool), ctx < 4 → port < 4 →
    ((s.nodeCtx n ctx).queues.get port)[place]? = some q → (s.tile n.sheet n.tile).admits ctx q.tok = some res →
    (s.nodeCtx n ctx).bound port q.tok = true →
    (res = true ∨ ∀ p ∈ ((s.nodeCtx n ctx).queues.get port).take place, (s.nodeCtx n ctx).bound port p.tok = false) →
    s.stopped n.sheet = false → s.restoringAt n.sheet ctx = false → ∃ u, exec (.matchingStoreAdmit n ctx port place) s = .next u ∧
      (u.tile n.sheet n.tile).store = (s.tile n.sheet n.tile).store ++ [{ qt := q, node := n, reserved := res }] ∧
      (u.nodeCtx n ctx).queues.get port = ((s.nodeCtx n ctx).queues.get port).eraseIdx place ∧ u.mem = s.mem) ∧
  (∀ (s : State) (n : NodeId),
    ((s.node n).running ≠ none → exec (.firingStart n) s = .next s) ∧
    (∀ c x a, (s.node n).running = none → s.stopped n.sheet = false → (s.askColours n).choose n = some c → c.start = some x →
      x.whole = false → (s.askColours n).actor? x.inst x.actor = some a →
      a.splits x.set = 0 ∨ a.splits x.set < ((s.askColours n).sheet n.sheet).units.get x.ctx → ∃ u f, exec (.firingStart n) s = .next u ∧
      (u.node n).running = some f ∧ f.ctx = x.ctx ∧ f.actor = x.actor ∧ f.pc = x.set.tag.slot.toNat ∧ f.tag = x.set.tag ∧
      f.operands = x.set.operands ∧ f.seq = a.started ∧ f.progress = 0 ∧ f.wait = .none))

/-- Each of streamPoint and wakeTokenArrival completes, with the next state its rule gives. A live inbound stream whose port has an edge,
has allowance and is its context's in turn, and whose edges have room, injects on every edge of the port one token with the tag of its
descriptor and the word it has read ahead, else the word at its next point where that may be read; a live outbound stream with a
token of its format waiting writes the token's value to its next point, where that may be written, and takes the token off; either
way the cursor moves by one, and after the last point the stream is drained. An inbound stream of an issue group or of the held set reads
the word at the point behind those it has read, and injects nothing. A token of another format is discarded and stops
the stream. A drained, stopped or cancelled stream moves nothing, nor does a live inbound one with an edge that has no room (log entry 21, the
model's choice). A wake token whose verdict is written ends the stall of an AG, a stream or an engine operation, with the verdict Invalid
remembered for the access made anew, and its tag is free again; without a verdict nothing happens. (R95, R97, R98, R99, R143,
R263, R307) -/
def Obligations.StreamEvents : Prop :=
  (∀ (s : State) (k : Nat) (st : Stream) (i : Inst), aget? s.streams k = some st → aget? s.insts st.inst = some i →
    (st.state = .drained ∨ st.state = .stopped ∨ st.state = .cancelled → exec (.streamPoint k) s = .next s) ∧
    (st.state = .live → st.inbound = true → i.edgeRoom (i.edgesFrom (.wide st.sheet st.port)) = false → exec (.streamPoint k) s = .next s) ∧
    (∀ t loc po, st.state = .group ∨ st.state = .held → st.inbound = true → i.holds st.sheet = false → s.stopped st.sheet = false →
      st.stall = none → st.invalid = false → st.cursor + st.ahead.length < st.desc.points →
      s.resolve (s.streamAgent st) (st.desc.point (st.cursor + st.ahead.length)).toNat 4 .read = (t, .ok loc po) →
      exec (.streamPoint k) s =
        .next (t.setStream k { st with ahead := st.ahead ++ [BitVec.ofNat 32 (leNat (t.loadBytes st.inst loc 4))] })) ∧
    (∀ (v : W32), st.state = .live → i.holds st.sheet = false → s.stopped st.sheet = false → st.inbound = true →
      i.edgesFrom (.wide st.sheet st.port) ≠ [] → (s.sheet st.sheet).wideOpen st.port = true →
      i.edgeRoom (i.edgesFrom (.wide st.sheet st.port)) = true → s.portChoice st.sheet st.port = some st.ctx →
      (∃ r, st.ahead = v :: r) ∨ (∃ (t : State) (loc : Nat) (po : BitVec 2), st.ahead = [] ∧ st.stall = none ∧ st.invalid = false ∧
        s.resolve (s.streamAgent st) (st.desc.point st.cursor).toNat 4 .read = (t, .ok loc po) ∧
        v = BitVec.ofNat 32 (leNat (t.loadBytes st.inst loc 4))) →
      ∃ u j, exec (.streamPoint k) s = .next u ∧
        aget? u.streams k = some { st with
          cursor := st.cursor + 1, ahead := st.ahead.drop 1, state := if st.desc.points ≤ st.cursor + 1 then .drained else .live } ∧
        u.mem = s.mem ∧ aget? u.insts st.inst = some j ∧
        ∀ ed e, ed ∈ i.edgesFrom (.wide st.sheet st.port) → aget? i.edges ed = some e → ∃ (tok : Token),
          aget? j.edges ed = some (e.push (.token tok s.cycle)) ∧ tok.value = v ∧ tok.fmt = st.desc.fmt ∧ tok.colour = st.desc.colour ∧
          tok.iter = st.desc.iter ∧ tok.slot = st.desc.slot) ∧
    (∀ t loc po tok since rest, st.state = .live → st.stall = none → st.invalid = false → i.holds st.sheet = false → s.stopped st.sheet = false →
      st.inbound = false → agetD (s.sheet st.sheet).wide (st.port, st.ctx) [] = .token tok since :: rest →
      (tok.fmt = st.desc.fmt → s.resolve (s.streamAgent st) (st.desc.point st.cursor).toNat 4 .write = (t, .ok loc po) →
        ∃ u, exec (.streamPoint k) s = .next u ∧ aget? u.streams k =
          some { st with cursor := st.cursor + 1, state := if st.desc.points ≤ st.cursor + 1 then .drained else .live } ∧
        agetD (u.sheet st.sheet).wide (st.port, st.ctx) [] = rest ∧
        u.mem = (t.storeBytes (t.streamAgent st) loc (natBytes 4 tok.value.toNat)).mem ∧
        ∀ x n, u.loadBytes st.inst x n = (t.storeBytes (t.streamAgent st) loc (natBytes 4 tok.value.toNat)).loadBytes st.inst x n) ∧
      (tok.fmt ≠ st.desc.fmt → exec (.streamPoint k) s = .next (((s.popWide st.sheet st.port st.ctx).setStream k
        { st with state := .stopped, stall := none, invalid := false }).report st.inst
          (streamReport st 0x03 (st.desc.point st.cursor)))))) ∧
  (∀ (s : State) (tag : BitVec 16) (ft : FaultTag), aget? s.drover.tags tag.toNat = some ft →
    (ft.answered = none → exec (.wakeTokenArrival tag) s = .next s) ∧
    (∀ mapped, ft.answered = some mapped →
      (∀ n f, ft.who = .ag n → (s.node n).running = some f → f.wait = .miss tag → ∃ u, exec (.wakeTokenArrival tag) s = .next u ∧
        (u.node n).running = some { f with wait := .none, invalid := !mapped } ∧ (u.node n).retries = (s.node n).retries + 1 ∧
        aget? u.drover.tags tag.toNat = none ∧ u.mem = s.mem) ∧
      (∀ k st, ft.who = .stream k → aget? s.streams k = some st → ∃ u, exec (.wakeTokenArrival tag) s = .next u ∧
        aget? u.streams k = some { st with stall := none, invalid := !mapped } ∧ aget? u.drover.tags tag.toNat = none ∧ u.mem = s.mem) ∧
      (∀ k o, ft.who = .engine k → aget? s.ops k = some o → ∃ u, exec (.wakeTokenArrival tag) s = .next u ∧
        aget? u.ops k = some { o with stall := none, invalid := !mapped } ∧ aget? u.drover.tags tag.toNat = none ∧ u.mem = s.mem)))

/-- Each of ceCopy, ceCopyc, ceFill, cePlane, ceGather, ceScatter and coCompose completes, with the next state its rule gives. An
operation whose message may start is checked first: a failed check decides its status and no byte moves; one that may not start yet waits; one
whose destination only its data say, and that reaches an SO page, or that comes under ORD behind one that waits for a commit, is made to wait for
the commit: that it is judged when it is first to start is log entry 17, and what keeps a message from starting log entry 79. An operation that runs, or that starts and
passes its checks, moves on to the end of the next aligned unit of its destination, or of its element, piece by piece. A piece is what a read gives: of ce.copy the
aligned unit at src, of ce.copyc its elements converted by the rules of cvt, of ce.gather and ce.scatter the unit at the
element that the index word names, of co.compose the element that its walk yields; what is read is written at dst, each
aligned unit whole. ce.fill writes its pattern; ce.plane and co.compose with `plane` read a whole tile and then write its
image. The cursor moves by the bytes written, and after the last the status is DONE. What stops a read of ce.copy ends it
with ACCESS or XLATE. co.compose reads its stick first: one that is not aligned ends it with ALIGN, one that is not legal with
ILLEGAL. A woken operation whose page was declared invalid ends with XLATE. (R79, R80, R147, R152, R173, R176, R177, R178, R179, R207, R228, R326) -/
def Obligations.EngineOperations : Prop :=
  ∀ (s s1 : State) (k : Nat) (o o1 : EngineOp), aget? s.ops k = some o → o.status = none → o.stall = none → s.opHeld o = false →
    let ready : Prop := o.started = false ∧ s.mustAwait o = false ∧ s.mayStart k o = true
    let begun : EngineOp := { o with started := true }
    let runs : Prop := o.invalid = false ∧ ((o.started = true ∧ o.awaitsCommit = false ∧ s1 = s ∧ o1 = o) ∨
      (ready ∧ o.check = none ∧ o1 = begun ∧ s1 = s.setOp k begun))
    let fin (p : EngineOp) (total : Nat) : EngineOp := if total ≤ p.moved then { p with status := some 1 } else p
    -- the stage filled: a run read where it is empty, else kept
    let filled (read : State → EngineOp → Got (List Byte)) (conv : List Byte → List Byte) (x : State) (p : EngineOp) (t : State) (q : EngineOp) : Prop :=
      (p.stage = [] ∧ ∃ bs, read x p = (t, .ok bs) ∧ q = { p with stage := conv bs }) ∨ (p.stage ≠ [] ∧ t = x ∧ q = p)
    -- of an element-by-element copy: the index word is read first where it is not in hand
    let indexed (read : State → EngineOp → Nat → Got (List Byte)) (x : State) (p : EngineOp) (t : State) (q : EngineOp) : Prop :=
      ∃ (j : Nat) (v : State), ((p.index = some j ∧ v = x) ∨ (p.index = none ∧ x.fetchIndex p (o.flit 1) p.progress = (v, .ok j))) ∧
        filled (fun y r => read y r j) id v { p with index := some j } t q
    -- pieces read and written until the unit of the destination or the output is complete
    let moves (i : Instr) (total unit : Nat) (fill : State → EngineOp → State → EngineOp → Prop) (dst : EngineOp → Nat)
        (ends : EngineOp → EngineOp → Prop) : Prop :=
      ∀ (c : Nat) (x : Nat → State) (p : Nat → EngineOp), 0 < c → c ≤ 8 → x 0 = s1 → p 0 = o1 →
        (∀ j < c, (p j).moved < total ∧ ∃ (t u : State) (q : EngineOp), fill (x j) (p j) t q ∧ q.stage ≠ [] ∧
          t.putBytes q (dst q) (q.stage.take (unitRoom (dst q) q.stage.length)) = (u, .ok ()) ∧
          x (j + 1) = u.opProgress o ∧ p (j + 1) = q.wrote (unitRoom (dst q) q.stage.length) unit ∧
          (j + 1 = c ↔ total ≤ (p (j + 1)).moved ∨ ends q (p (j + 1)))) →
        exec i s = .next ((x c).setOp k (fin (p c) total))
    let aligned (dst : Nat) (_ : EngineOp) (p : EngineOp) : Prop := (dst + p.moved) % 8 = 0
    -- a tile read piece by piece, then the next unit of its image written
    let images (i : Instr) (q total : Nat) (read : State → EngineOp → Got (List Byte)) : Prop :=
      ∀ (c : Nat) (x : Nat → State) (p : Nat → EngineOp) (u : State), c ≤ imageBytes q → x 0 = s1 → p 0 = o1 → o1.moved < total →
        (∀ j < c, (p j).stage.length < imageBytes q ∧ ∃ bs, read (x j) (p j) = (x (j + 1), .ok bs) ∧
          p (j + 1) = { p j with stage := (p j).stage ++ bs }) →
        imageBytes q ≤ (p c).stage.length →
        let at_ := o.flit 2 + o1.moved
        let off := o1.moved % imageBytes q
        let m := unitRoom at_ (imageBytes q - off)
        (at_ + m) % 8 = 0 ∨ total ≤ o1.moved + m →
        (x c).putBytes (p c) at_ ((List.range m).map fun j => imageByte (planesOf q) (off + j)
          ((packedSources (planesOf q) (off + j)).map fun b => (p c).stage.getD b 0)) = (u, .ok ()) →
        exec i s = .next ((u.opProgress o).setOp k (fin { (p c).wrote m 1 with
          stage := if off + m = imageBytes q then [] else (p c).stage } total))
    (∀ i st units, (i, msgClass o.header, msgOp o.header) ∈ [(Instr.ceCopy k units, 0, 0), (.ceCopyc k units, 0, 1), (.ceFill k units, 0, 2),
        (.cePlane k units, 0, 3), (.ceGather k units, 0, 4), (.ceScatter k units, 0, 5), (.coCompose k units, 1, 0)] →
      (ready → o.check = some st → exec i s = .next (s.setOp k { begun with status := some st })) ∧
      (o.started = false → s.mustAwait o = false → s.mayStart k o = false → exec i s = .next s) ∧
      (o.started = false → s.mustAwait o = true → exec i s = .next (s.setOp k { o with afterCommit := true })) ∧
      (o.started = true → o.awaitsCommit = true → exec i s = .next s) ∧
      (o.started = true → o.awaitsCommit = false → o.invalid = true → exec i s = .next (s.setOp k { o with status := some 3, invalid := false }))) ∧
    (msgOk o.flits = false → o.check = some 5) ∧
    (runs → msgClass o.header = 0 →
      (msgOp o.header = 0 → let n := o.flit 3 % 2 ^ 32
        let read (x : State) (p : EngineOp) : Got (List Byte) :=
          x.fetchRun p (o.flit 1 + p.moved) (unitRoom (o.flit 1 + p.moved) (n - p.moved))
        moves (.ceCopy k 1) n 1 (filled read id) (fun p => o.flit 2 + p.moved) (aligned (o.flit 2)) ∧
        (∀ t a, o1.moved < n → o1.stage = [] → (read s1 o1 = (t, .error (.access, a, .read)) →
            exec (.ceCopy k 1) s = .next (t.setOp k { o1 with status := some 2 })) ∧
          (read s1 o1 = (t, .error (.xlate, a, .read)) → exec (.ceCopy k 1) s = .next (t.setOp k { o1 with status := some 3 })))) ∧
      (∀ (x y : BitVec 3) sat, msgOp o.header = 1 → x.toNat = o.flit 4 % 8 → y.toNat = o.flit 4 / 256 % 8 →
        sat = decide (o.flit 4 / 65536 % 2 = 1) → let n := o.flit 3 % 2 ^ 32; let ex := elemBytes x.toNat; let ey := elemBytes y.toNat
        moves (.ceCopyc k 1) (n * ey) ey
          (filled (fun z p => z.fetchRun p (o.flit 1 + p.progress * ex) (unitRoom (o.flit 1 + p.progress * ex) (n * ex - p.progress * ex)))
            fun bs => ((elementsOf ex bs).map fun v => natBytes ey (convertLane x y sat v)).flatten)
          (fun p => o.flit 2 + p.moved) (aligned (o.flit 2))) ∧
      (∀ u, msgOp o.header = 2 → let n := o.flit 2 % 2 ^ 32; let bs := natBytes 8 (o.flit 3)
        o1.moved < n → o1.stage = [] → (o.flit 1 + o1.moved) % 8 = 0 →
        s1.putBytes { o1 with stage := bs } (o.flit 1 + o1.moved) bs = (u, .ok ()) →
        exec (.ceFill k 1) s = .next ((u.opProgress o).setOp k (fin (({ o1 with stage := bs } : EngineOp).wrote 8 1) n))) ∧
      (msgOp o.header = 3 → let q := o.flit 3 % 4
        images (.cePlane k 1) q ((o.flit 3 / 256 % 256 + 1) * imageBytes q) fun x p =>
          let a := o.flit 1 + p.moved / imageBytes q * imageBytes q + p.stage.length
          x.fetchRun p a (unitRoom a (imageBytes q - p.stage.length))) ∧
      (let e := o.flit 4 / 2 ^ 32 % 2 ^ 16; let n := o.flit 4 % 2 ^ 32
        let target (p : EngineOp) : Nat := o.flit 3 + (p.index.getD 0) * e + p.moved % e
        0 < e →
        (msgOp o.header = 4 → moves (.ceGather k 1) (n * e) e
          (indexed fun x p j => let a := o.flit 2 + j * e + p.moved % e; x.fetchRun p a (unitRoom a (e - p.moved % e)))
          (fun p => o.flit 3 + p.moved / e * e + p.moved % e) (aligned (o.flit 3))) ∧
        (msgOp o.header = 5 → moves (.ceScatter k 1) (n * e) e
          (indexed fun x p _ => let a := o.flit 2 + p.moved / e * e + p.moved % e; x.fetchRun p a (unitRoom a (e - p.moved % e)))
          target (fun q p => p.index ≠ q.index ∨ target p % 8 = 0)))) ∧
    (runs → msgClass o.header = 1 → msgOp o.header = 0 →
      (∀ t bs, o1.stick = [] → (o.flit 3 % 4 ≠ 0 → exec (.coCompose k 1) s = .next (s1.setOp k { o1 with status := some 4 })) ∧
        (o.flit 3 % 4 = 0 → s1.fetchRun o1 (o.flit 3) 64 = (t, .ok bs) → exec (.coCompose k 1) s =
          .next (t.setOp k (if (stickOf (stickWords bs)).ok (o.flit 4) imageBytes then { o1 with stick := stickWords bs }
            else { o1 with status := some 5 })))) ∧
      (o1.stick ≠ [] → let st := stickOf o1.stick
        (st.plane = none → moves (.coCompose k 1) st.bytes 1 (filled (fun x p => x.walkElement p st (p.moved / st.emit.getD 1)) id)
          (fun p => o.flit 2 + p.moved) (aligned (o.flit 2))) ∧
        (∀ q, st.plane = some q → images (.coCompose k 1) q st.bytes fun x p =>
          x.walkElement p st (p.moved / imageBytes q * imageBytes q + p.stage.length)))) 

/-- engineCompletion completes: once the status of an operation is decided and nothing stalls or holds it, it writes one word at the
reply address: status in bits 63:60, class in 59:56, operation in 55:48 and the count of finished units below; an atomic that
is done writes the old value beside it first. The operation is then gone, with its scoreboard ranges, and under flag EVT
event 0 of the issuing thread is set. An operation of an unassigned op that may start has status ILLEGAL; of an assigned op, without a
status nothing happens. (R77, R79, R80, R174, R175, R180) -/
def Obligations.EngineJoins : Prop :=
  ∀ (s t0 t : State) (k : Nat) (o : EngineOp), aget? s.ops k = some o →
    (o.status = none → (flitCount (o.header.toNat / 2 ^ 60) (o.header.toNat / 2 ^ 52 % 256)).isSome = true →
      exec (.engineCompletion k) s = .next s) ∧
    (∀ st, o.status = some st ∨ (o.status = none ∧ st = 5 ∧ s.mayStart k o = true ∧
        flitCount (o.header.toNat / 2 ^ 60) (o.header.toNat / 2 ^ 52 % 256) = none) → o.stall = none → s.opHeld o = false → o.awaitsCommit = false → o.invalid = false →
      (if msgClass o.header = 2 ∧ msgOp o.header = 2 ∧ st = 1 then s.putBytes o (o.header.toNat % 2 ^ 48 + 8) (natBytes 8 o.moved)
        else (s, .ok ())) = (t0, .ok ()) →
      t0.putBytes o (o.header.toNat % 2 ^ 48) (wordBytes 8 (BitVec.ofNat 64
        (st.toNat * 2 ^ 60 + (o.header.toNat / 2 ^ 60) * 2 ^ 56 + (o.header.toNat / 2 ^ 52 % 256) * 2 ^ 48 + o.progress % 2 ^ 48))) = (t, .ok ()) →
      ∃ u, exec (.engineCompletion k) s = .next u ∧ aget? u.ops k = none ∧ u.mem = t.mem ∧ u.insts = t.insts ∧
        (∀ j, j ≠ k → aget? u.ops j = aget? t.ops j) ∧ (∀ n r, r ∈ (u.sheet n).board → r.op ≠ some k) ∧
        (o.ctx < 4 → (u.thread o.sheet o.ctx).events = (t.thread o.sheet o.ctx).events ||| (if o.header.getLsbD 49 then 1 else 0)))

/-- Each of lePut, leGet, leLamo, leLsig, spanRequestArrival, spanFlitError and spanVcEscape completes, with the next state its rule
gives. A link operation that runs, or that starts and passes its checks, with a way for its package (a route and a binding of the
tenant) sends its request under the tenant's identity and takes the answer: of a put the blocks reached are read from src and sent and
the bytes the remote side took are counted; of a get the request leaves first and the data that come are written at dst; of an
atomic the old value is kept; of a signal the increment is sent once what it releases is done; the answer, or the end of the count, decides the status. Without a way it ends with the status that
its way gives, nothing sent. A request for another package is switched on by the route table. One for this package whose
binding does not name the sender is answered ACCESS and changes no byte; one accepted is performed: a put writes the bytes of every part that
passes, a get answers its data, or none where a part fails, an atomic or a signal writes the aligned word and answers the old value, and an unaligned one is answered ALIGN. Each
request and answer is a packet on its channel, and so is what passes through. A flit that fails is sent again up to 16 times and then ends the transfer
with DATA_LOST, of an answer or a passing packet as well; a packet that waits too long moves to the escape channel. The unit of put and get progress, the
blocks sent on an answer and DATA_LOST for data whose length does not match are log entry 80, XLATE for a remote miss log entry 81, and DATA_LOST for a
package to which no port leads log entry 128. (R180, R207, R213,
R228, R335, R347, R348, R349) -/
def Obligations.LinkOperations : Prop :=
  (∀ (s s1 t : State) (k : Nat) (o o1 : EngineOp) (a : RemoteAnswer), aget? s.ops k = some o → o.status = none → o.stall = none →
    s.opHeld o = false → o.invalid = false → msgClass o.header = 2 →
    (o.started = true ∧ o.awaitsCommit = false ∧ s1 = s ∧ o1 = o) ∨ (o.started = false ∧ s.mustAwait o = false ∧ s.mayStart k o = true ∧
      o.check = none ∧ o1 = { o with started := true } ∧ s1 = s.setOp k o1) →
    (∀ i st, s1.wayTo o1 = .error st →
      (∃ n data old, (i, msgOp o.header) ∈ [(Instr.lePut k n a, 0), (.leGet k data a, 1), (.leLamo k old a, 2), (.leLsig k a, 3)]) →
      exec i s = .next (s1.setOp k { o1 with status := some st })) ∧
    (∀ rtag, s1.wayTo o1 = .ok rtag → let total := o.flit 3 % 2 ^ 32
      (∀ n, msgOp o.header = 0 → o.flit 2 + total ≤ 2 ^ 48 → let m := min n (total - o1.progress)
        s1.sendBlocks k o1 rtag total (blockStarts o1.progress (min (o1.progress + m + (if a = .accepted then 0 else 1)) total)) = (t, none) →
        exec (.lePut k n a) s = .next ((t.opProgress o1).setOp k (o1.answered m total a))) ∧
      (∀ data p, msgOp o.header = 1 → o.flit 2 + total ≤ 2 ^ 48 → let got := decodePayload data data.length
        let b := if got.2 then a else .lost
        let x := if o1.moved = 0 then s1.sendSpan k o1 rtag (.get (BitVec.ofNat 48 (o.flit 2)) total) else s1
        let q : EngineOp := { o1 with moved := 1, stage := o1.stage ++ got.1.take (total - o1.progress - o1.stage.length) }
        x.writeGot q (decide (total ≤ q.progress + q.stage.length) || decide (b ≠ .accepted)) q.stage.length = (t, p, none) →
        exec (.leGet k data a) s = .next ((t.opProgress p).setOp k (p.answered 0 total b))) ∧
      (∀ old loc po, msgOp o.header = 2 → let wide := decide (o.flit 3 / 8 % 2 = 1)
        s1.resolve o1.agent (o.header.toNat % 2 ^ 48 + 8) 8 .write = (t, .ok loc po) → o.flit 1 + (if wide then 8 else 4) ≤ 2 ^ 48 →
        exec (.leLamo k old a) s = .next (((t.sendSpan k o1 rtag (.lamo (BitVec.ofNat 48 (o.flit 1)) wide (BitVec.ofNat 3 (o.flit 3 % 8))
          (BitVec.ofNat 64 (o.flit 2)))).opProgress o1).setOp k { o1.answered (if a = .accepted then 1 else 0) 1 a with
            moved := if wide then old.toNat else old.toNat % 2 ^ 32 })) ∧
      (msgOp o.header = 3 → s1.ordBefore k o1 = false → o.flit 1 + 8 ≤ 2 ^ 48 → exec (.leLsig k a) s =
        .next (((s1.sendSpan k o1 rtag (.lsig (BitVec.ofNat 48 (o.flit 1)) (BitVec.ofNat 32 (o.flit 2)))).opProgress o1).setOp k
          (o1.answered (if a = .accepted then 1 else 0) 1 a))))) ∧
  (∀ (s t : State) (r : SpanRequest),
    (∀ p, r.toPackage ≠ Config.packageNumber → s.routeTo r.toPackage.toNat = some p → s.drover.disabledPorts.contains p = false →
      exec (.spanRequestArrival r) s = .next (s.sendPacket none p
        (match r.op with
          | .put _ _ _ | .get _ _ => 0
          | .lamo _ _ _ _ | .lsig _ _ => 2) (some r.fromPackage.toNat) (.forward p r))) ∧
    (r.toPackage ≠ Config.packageNumber → s.routeTo r.toPackage.toNat = none →
      exec (.spanRequestArrival r) s = .next (s.reply r.fromPackage.toNat 6 0 [])) ∧
    (r.toPackage = Config.packageNumber → s.acceptsFrom r.rtag.toNat r.fromPackage.toNat r.senderTag.toNat = false →
      exec (.spanRequestArrival r) s = .next (s.reply r.fromPackage.toNat 2 0 [])) ∧
    (r.toPackage = Config.packageNumber → s.acceptsFrom r.rtag.toNat r.fromPackage.toNat r.senderTag.toNat = true →
      (∀ addr blocks length l, r.op = .put addr blocks length → let p := decodePayload blocks blocks.length; let bs := p.1.take length
        s.remoteParts r.rtag.toNat .write (pageParts addr.toNat bs.length (bs.length + 1)) = (t, l) → anyHeld l = false →
        exec (.spanRequestArrival r) s = .next (({ t with mem := t.mem.scatter (passingWrites l bs) } : State).reply r.fromPackage.toNat
          (if firstFailing l = none then (if p.2 = true ∧ p.1.length = length then 1 else 6) else remoteStatus (firstFailing l))
            (passingPrefix l) [])) ∧
      (∀ addr length l, r.op = .get addr length →
        s.remoteParts r.rtag.toNat .read (pageParts addr.toNat length (length + 1)) = (t, l) → anyHeld l = false →
        (firstFailing l = none → let bs := (l.flatMap fun p => p.2.1).map t.mem.get
          exec (.spanRequestArrival r) s = .next (t.reply r.fromPackage.toNat 1 bs.length (encodePayload bs (bs.length / 256 + 1)))) ∧
        (firstFailing l ≠ none → exec (.spanRequestArrival r) s = .next (t.reply r.fromPackage.toNat (remoteStatus (firstFailing l)) 0 []))) ∧
      (∀ (addr : BitVec 48) (size : Nat) (f : Nat → Nat), (∃ inc : BitVec 32, r.op = .lsig addr inc ∧ size = 8 ∧
          f = fun old => (old + inc.toNat) % 2 ^ 64) ∨ (∃ wide fn v, r.op = .lamo addr wide fn v ∧ fn.toNat < 6 ∧ size = (if wide then 8 else 4) ∧
            f = fun old => amoNew (amoFnOf fn.toNat) (8 * size) old (v.toNat % 2 ^ (8 * size))) →
        (addr.toNat % size ≠ 0 → exec (.spanRequestArrival r) s = .next (s.reply r.fromPackage.toNat 4 0 [])) ∧
        (∀ loc po, addr.toNat % size = 0 → s.remoteAns r.rtag.toNat addr.toNat size .atomic = (t, .ok loc po) →
          exec (.spanRequestArrival r) s = .next (({ t with mem := t.mem.write loc (natBytes size (f (leNat (t.mem.read loc size)))) } : State).reply
            r.fromPackage.toNat 1 1 (natBytes 8 (leNat (t.mem.read loc size)))))))) ∧
  (∀ (s : State) (op origin : Option Nat) (port vc : Nat) (x : Sent),
    s.sendPacket op port vc origin x = { s with
      nextId := s.nextId + 1,
      package := { s.package with
        sent := s.package.sent ++ [x],
        packets := s.package.packets ++ [{ id := s.nextId, op := op, port := port, vc := vc, origin := origin }] } }) ∧
  (∀ (s : State) (pkg count : Nat) (st : BitVec 4) (blocks : List Byte),
    (∀ p, s.routeTo pkg = some p → s.reply pkg st count blocks = s.sendPacket none p 1 none (.spanReply st count blocks)) ∧
    (s.routeTo pkg = none → s.reply pkg st count blocks = s.send (.spanReply st count blocks))) ∧
  (∀ (s : State) (k : Nat) (o : EngineOp) (rtag : BitVec 7) (p : Nat), s.portOf o = some p →
    (∀ addr blocks length, s.sendSpan k o rtag (.put addr blocks length) =
      s.sendPacket (some k) p 0 none (.span (BitVec.ofNat 12 o.pkg) Config.packageNumber (BitVec.ofNat 7 o.tenant) rtag (.put addr blocks length))) ∧
    (∀ addr inc, s.sendSpan k o rtag (.lsig addr inc) =
      s.sendPacket (some k) p 2 none (.span (BitVec.ofNat 12 o.pkg) Config.packageNumber (BitVec.ofNat 7 o.tenant) rtag (.lsig addr inc)))) ∧
  (∀ (s : State) (port : Nat) (f : SpanFlit) (o : EngineOp), aget? s.ops f.op = some o →
    let n := agetD s.package.retries (port, f.op, f.flit) 0
    ((s.opsBy port).contains f.op = false ∨ o.started = false → exec (.spanFlitError port f) s = .next s) ∧
    ((s.opsBy port).contains f.op = true → o.started = true →
      (n < 16 → exec (.spanFlitError port f) s = .next
        { s with package := { s.package with retries := aset s.package.retries (port, f.op, f.flit) (n + 1) } }) ∧
      (16 ≤ n → ∃ (t : State) (p : EngineOp), exec (.spanFlitError port f) s = .next t ∧ aget? t.ops f.op = some p ∧ p.status = some 6 ∧
        t.mem = s.mem))) ∧
  (∀ (s : State) (port : Nat) (f : SpanFlit) (q : Packet), aget? s.ops f.op = none → q ∈ s.package.packets → q.id = f.op → q.op = none →
    q.port = port → (∀ p ∈ s.package.packets, p.id = f.op → p = q) →
    let n := agetD s.package.retries (port, f.op, f.flit) 0
    (n < 16 → exec (.spanFlitError port f) s = .next
      { s with package := { s.package with retries := aset s.package.retries (port, f.op, f.flit) (n + 1) } }) ∧
    (16 ≤ n → ∃ t, exec (.spanFlitError port f) s = .next t ∧ t.mem = s.mem ∧
      (q.origin = none → ∀ p ∈ t.package.packets, p.id ≠ q.id) ∧
      (∀ pkg, q.origin = some pkg → .spanReply 6 0 [] ∈ t.package.sent))) ∧
  (∀ (s : State) (packet : Nat), exec (.spanVcEscape packet) s = .next { s with package := { s.package with
    packets := s.package.packets.map fun p => if p.id = packet then { p with vc := 3 } else p, escaped := packet :: s.package.escaped } })

/-- Each of kick, launchSlotReread, wakeMapped, wakeInvalid, superGrant, superEnd, tlbinvVa, tlbinvAll, tlbinvDone, lrbaseWrite,
crbaseWrite, erbaseWrite, statusRead and pferrRead completes, with the next state its rule gives. A KICK whose value is not a tail of the ring, or while no ring is
set, only notes itself in STATUS; a good one records the tail, with nothing due that is all, and with one slot due that slot is read. A slot that carries the expected stamp twice and
its CRC is validated and done with; any other is read again, and after the ninth failed read posted as torn. A validated packet that fails check 1 is
refused with reason 1, one whose first phase fails a check with that check's reason, and of one that passes the slice is queued. A verdict reaches a
fault tag of the VF that is outstanding and unanswered, and no other. SUPER adds units to the launch named, or ends it
with BUDGET. TLBINV stays nonzero until the invalidation is done, and then the translations it covers, and no others, are gone; one
written while another runs makes that one whole (log entry 86). A ring
base from which the ring lies on pinned pages resets its ring, its tail with its head, only while the VF has no launch; another is ignored (log entry 25). A read of STATUS or PFERR
answers the register and clears what it reports. (R242, R291, R307, R335, R337, R338, R341, R342) -/
def Obligations.LaunchRegisters : Prop :=
  ∀ (s : State) (vf : Nat) (v : Word) (tag : BitVec 16) (stamp : BitVec 16) (n : BitVec 47), let x := s.vf vf
    let done (t : State) (p : List Byte) : State := (t.validate vf p).setVf vf ((t.validate vf p).vf vf).nextSlot
    (x.lrSize = 0 ∨ x.lrSize.toNat ≤ v.toNat % 2 ^ 16 ∨ 2 ^ 16 ≤ v.toNat → exec (.kick vf v) s = .next (s.setVf vf { x with kickIgnored := true })) ∧
    (x.lrSize ≠ 0 → v.toNat < 2 ^ 16 → v.toNat < x.lrSize.toNat → let s1 := s.setVf vf { x with lrTail := v }
      let s2 : State := { s1 with drover := { s1.drover with lastVf := vf } }
      (s1.allDue = 0 → exec (.kick vf v) s = .next s1) ∧
      (∀ t p, s1.allDue = 1 → s1.nextRing = some vf → s2.ringMisses vf (x.lrBase.toNat + 64 * x.lrHead.toNat) 64 = false →
        s2.droverRead (s2.vfTenant vf) (x.lrBase.toNat + 64 * x.lrHead.toNat) 64 = (t, some p) → packetPasses p x.expect = true →
        exec (.kick vf v) s = .next (done t p))) ∧
    (∀ t p, x.tries ≠ 0 → s.ringMisses vf (x.lrBase.toNat + 64 * x.lrHead.toNat) 64 = false →
      s.droverRead (s.vfTenant vf) (x.lrBase.toNat + 64 * x.lrHead.toNat) 64 = (t, some p) →
      (packetPasses p x.expect = false → x.tries < 8 → (t.setVf vf { t.vf vf with tries := x.tries + 1 }).nextRing = none →
        exec (.launchSlotReread vf) s = .next (t.setVf vf { t.vf vf with tries := x.tries + 1 })) ∧
      (packetPasses p x.expect = false → 8 ≤ x.tries → (t.tornSlot vf).nextRing = none → ∃ (u : State) (e : EventRec),
        exec (.launchSlotReread vf) s = .next u ∧ (u.vf vf).events = x.events ++ [e] ∧ e.kind = 3 ∧ e.tag = x.expect ∧
        (u.vf vf).expect = x.expect + 1 ∧ (u.vf vf).tries = 0) ∧
      (packetPasses p x.expect = true → (done t p).nextRing = none → exec (.launchSlotReread vf) s = .next (done t p))) ∧
    (∀ (t : State) (p : List Byte), (packetOp p = false → t.validate vf p = t.postCompletion vf (refusedRecord p t.time 1)) ∧
      (∀ u r, packetOp p = true → t.checkPhase (t.vfTenant vf) (pf p 256 48) (pf p 320 48) 0 = (u, .error r) →
        t.validate vf p = u.postCompletion vf (refusedRecord p u.time r)) ∧
      (∀ u a, packetOp p = true → t.checkPhase (t.vfTenant vf) (pf p 256 48) (pf p 320 48) 0 = (u, .ok a) → ∃ (y : Slice),
        aget? (t.validate vf p).slices u.nextId = some y ∧ y.state = .queued ∧ y.vf = vf ∧ y.stamp.toNat = pf p 0 16 ∧
        y.image = some a.image ∧ y.n = a.n ∧ y.die = a.die)) ∧
    (x.tries = 0 → exec (.launchSlotReread vf) s = .next s) ∧
    (∀ t, aget? s.drover.tags tag.toNat = some t → t.vf = vf → t.answered = none → ∃ u w, exec (.wakeMapped vf tag) s = .next u ∧
      exec (.wakeInvalid vf tag) s = .next w ∧ aget? u.drover.tags tag.toNat = some { t with answered := some true } ∧
      aget? w.drover.tags tag.toNat = some { t with answered := some false } ∧ u.mem = s.mem ∧ w.mem = s.mem) ∧
    ((∀ t, aget? s.drover.tags tag.toNat = some t → t.vf ≠ vf ∨ t.answered ≠ none) → exec (.wakeMapped vf tag) s = .next s ∧
      exec (.wakeInvalid vf tag) s = .next s) ∧
    (∀ id y, s.running? vf stamp = some (id, y) → exec (.superGrant vf stamp n) s =
      .next (s.setSlice id { y with work := if y.workFree then y.work else y.work + n.toNat, heldForBudget := false })) ∧
    (s.running? vf stamp = none → exec (.superGrant vf stamp n) s = .next s ∧ exec (.superEnd vf stamp n) s = .next s) ∧
    (∀ j z, (s.grantUnits vf stamp n).running? vf stamp = some (j, z) → exec (.superEnd vf stamp n) s =
      .next ((s.grantUnits vf stamp n).endSlice j 2 0 0x06 0)) ∧
    (let w := v &&& 0x0000FFFFFFFF0001 ||| 0x8000000000000000; exec (.tlbinvVa vf v) s = .next (s.setVf vf { x with tlbinv := if x.tlbinv = 0 then w else w ||| 1 })) ∧
    exec (.tlbinvAll vf) s = .next (s.setVf vf { x with tlbinv := 0x8000000000000001 }) ∧
    (x.tlbinv ≠ 0 → ∃ t, exec (.tlbinvDone vf) s = .next t ∧ (t.vf vf).tlbinv = 0 ∧ ∀ c, c ∈ t.drover.cached ↔ c ∈ s.drover.cached ∧
      ¬(c.tenant = s.vfTenant vf ∧ (x.tlbinv.getLsbD 0 = true ∨ c.vpage = x.tlbinv.toNat / 2 ^ 16 % 2 ^ 32))) ∧
    (s.vfBusy vf = true → exec (.lrbaseWrite vf v) s = .next (s.setVf vf { x with ringIgnored := true }) ∧
      exec (.crbaseWrite vf v) s = .next (s.setVf vf { x with ringIgnored := true }) ∧
      exec (.erbaseWrite vf v) s = .next (s.setVf vf { x with ringIgnored := true })) ∧
    (s.vfBusy vf = false → let ok (entry : Nat) (size : Word) := s.ringBaseOk vf v (entry * size.toNat);
      (exec (.lrbaseWrite vf v) s = .next (s.setVf vf
        (if ok 64 x.lrSize then { x with lrBase := v, lrHead := 0, lrTail := 0, expect := 1, tries := 0 } else x))) ∧
      (exec (.crbaseWrite vf v) s = .next (s.setVf vf
        (if ok 64 x.crSize then { x with crBase := v, crTail := 0, crHead := 0, crPhase := true } else x))) ∧
      (exec (.erbaseWrite vf v) s = .next (s.setVf vf
        (if ok 32 x.erSize then { x with erBase := v, erTail := 0, erHead := 0, erPhase := true } else x)))) ∧
    (∃ t w, exec (.statusRead vf) s = .next t ∧ t.package.sent = s.package.sent ++ [.register w] ∧ (t.vf vf).ringIgnored = false ∧
      (t.vf vf).kickIgnored = false ∧ w.getLsbD 1 = x.ringIgnored ∧ w.getLsbD 5 = x.kickIgnored) ∧
    (∃ t, exec .pferrRead s = .next t ∧ t.package.sent = s.package.sent ++ [.register s.package.pferr] ∧ t.package.pferr = 0 ∧ t.mem = s.mem)

/-- Each of tenantRecordWrite, frameTableWrite, filterEntryWrite, windowEntryWrite and registerWrite completes, with the next state its
rule gives (no TDI in RUN measures any of it). A tenant record of tags 1 to 126 that passes the checks of R273 takes effect at once when no phase of the tenant runs
and no VF that changes hands has a launch, else it waits (log entry 87); one that fails is noted in PFERR at the write's offset and changes no record; tags 0 and 127 ignore
writes. A frame the package has (log entry 89) goes to a tenant only from the invalid state, from tag 0 or from itself, any other write is refused; a frame
that becomes valid, or another tag's, reads zero (log entry 89); a filter entry that passes R292 is stored with a full bucket, and no other is; a window entry that is
invalid or passes R282 takes effect at the owner's phase boundary, with bits 6:0 zero (log entry 88), and no other does. The completion heads hold
what is written, a launch running or not (log entry 83); a ring size only a power of two from 16 to 4,096 with which the ring set lies on pinned
pages (log entry 25), and only while the VF has no launch. (R272, R273, R280, R282, R292,
R293, R335, R338) -/
def Obligations.DroverTables : Prop :=
  ∀ (s : State), (∀ t, s.tdiRuns t = false) →
    (∀ tag r, (tag = 0 ∨ 127 ≤ tag → exec (.tenantRecordWrite tag r) s = .next s) ∧
      (0 < tag → tag < 127 → s.recordOk tag r = false → ∃ t, exec (.tenantRecordWrite tag r) s = .next t ∧ t.drover.records = s.drover.records ∧
        t.drover.recordWrites = s.drover.recordWrites ∧ t.package.pferr = BitVec.ofNat 64 (2 ^ 63 + 0x1000 + 64 * tag) ∧ t.mem = s.mem) ∧
      (0 < tag → tag < 127 → s.recordOk tag r = true → (∀ p ∈ s.drover.recordWrites, p.1 ≠ tag) →
        (s.phaseRuns tag = false → s.vfMoves tag r = false →
          ∃ t, exec (.tenantRecordWrite tag r) s = .next t ∧ aget? t.drover.records tag = some r ∧ t.mem = s.mem) ∧
        (s.phaseRuns tag = true ∨ s.vfMoves tag r = true → ∃ t, exec (.tenantRecordWrite tag r) s = .next t ∧
          t.drover.records = s.drover.records ∧ (tag, BitVec.allOnes 512, r) ∈ t.drover.recordWrites ∧ t.mem = s.mem))) ∧
    (∀ f (v : Byte), let old := agetD s.drover.frames f 0
      (s.hasFrame f = false → ∃ t, exec (.frameTableWrite f v) s = .next t ∧ t.drover.frames = s.drover.frames ∧ t.mem = s.mem ∧
        t.package.pferr = BitVec.ofNat 64 (2 ^ 63 + 0x10000 + f)) ∧
      (old.getLsbD 7 = true → v.getLsbD 7 = true → (old.extractLsb' 0 7) ≠ 0 → (old.extractLsb' 0 7) ≠ (v.extractLsb' 0 7) →
        ∃ t, exec (.frameTableWrite f v) s = .next t ∧ t.drover.frames = s.drover.frames ∧ t.mem = s.mem) ∧
      (s.hasFrame f = true → (old.getLsbD 7 = false ∨ v.getLsbD 7 = false ∨ (old.extractLsb' 0 7) = 0 ∨ (old.extractLsb' 0 7) = (v.extractLsb' 0 7)) →
        ∃ t, exec (.frameTableWrite f v) s = .next t ∧ aget? t.drover.frames f = some v ∧
        (v.getLsbD 7 = false → t.mem = s.mem) ∧
        (v.getLsbD 7 = true → (old.getLsbD 7 = false ∨ (old.extractLsb' 0 7) ≠ (v.extractLsb' 0 7)) → s.mem.wf = true →
          let base := if f < 1024 then f * 2 ^ 30 else 2 ^ 40 + (f - 1024) * 2 ^ 30
          ∀ a, base ≤ a → a < base + 2 ^ 30 → t.mem.get a = 0))) ∧
    (∀ e v, (filterOk v = false → ∃ t, exec (.filterEntryWrite e v) s = .next t ∧ t.drover.filters = s.drover.filters ∧ t.mem = s.mem) ∧
      (filterOk v = true → ∃ t, exec (.filterEntryWrite e v) s = .next t ∧ aget? t.drover.filters e = some v ∧
        aget? t.drover.buckets e = none ∧ t.mem = s.mem)) ∧
    (∀ bank e (v : BitVec 16), let b := s.bulkhead bank
      (v.getLsbD 15 = true → s.windowOk bank e (v &&& 0xFF80) = false → ∃ t, exec (.windowEntryWrite bank e v) s = .next t ∧
        t.bulkhead bank = b ∧ t.mem = s.mem) ∧
      (v.getLsbD 15 = false ∨ s.windowOk bank e (v &&& 0xFF80) = true →
        (s.phaseRuns b.tag.toNat = true → ∃ t, exec (.windowEntryWrite bank e v) s = .next t ∧
          t.bulkhead bank = { b with windowWrites := b.windowWrites ++ [(e, v &&& 0xFF80)] } ∧ t.mem = s.mem) ∧
        (s.phaseRuns b.tag.toNat = false → (∀ p ∈ s.drover.recordWrites, p.1 ≠ b.tag.toNat) → e < b.windows.length →
          ∃ t, exec (.windowEntryWrite bank e v) s = .next t ∧ (t.bulkhead bank).windows[e]? = some (v &&& 0xFF80) ∧
          (t.bulkhead bank).windowWrites = [] ∧ t.mem = s.mem))) ∧
    (∀ vf v, let sizes := [0x10#64, 0x20, 0x40, 0x80, 0x100, 0x200, 0x400, 0x800, 0x1000]
      let lies := (s.vf vf).lrBase = 0 ∨ s.ringBaseOk vf (s.vf vf).lrBase (64 * v.toNat) = true
      exec (.registerWrite (vf + 1) 0x038 v) s = .next (s.setVf vf { s.vf vf with crHead := v }) ∧
      exec (.registerWrite (vf + 1) 0x058 v) s = .next (s.setVf vf { s.vf vf with erHead := v }) ∧
      (s.vfBusy vf = false → v ∈ sizes → lies → exec (.registerWrite (vf + 1) 0x008 v) s = .next (s.setVf vf { s.vf vf with lrSize := v })) ∧
      (s.vfBusy vf = false → v ∉ sizes ∨ ¬lies → exec (.registerWrite (vf + 1) 0x008 v) s = .next (s.setVf vf (s.vf vf))) ∧
      (s.vfBusy vf = true → exec (.registerWrite (vf + 1) 0x008 v) s = .next (s.setVf vf { s.vf vf with ringIgnored := true })))

/-- Each of bulkheadAssign, zeroisationDone, pllRelockDone, bulkheadRelease, bulkheadReleaseDone, bulkheadReset, resetLineRelease, timeSliceExpiry,
bulkheadSwitch, parkComplete and restoreComplete completes, with the next state its rule gives (nothing else is asked of the bulkhead and
no TDI in RUN measures it). A FREE bulkhead assigned to a tenant with an active record (which gets its bhmask bit: log entry 90) is zeroised for it and becomes ACTIVE under its
tag when the pass is done; one in use that may be shared gets the tenant at the end of its rotation list. What its state does not allow
waits in order, and of a RETIRED one nothing can be asked. A release leaves it ACTIVE until no phase is left on it, then closes it (both
log entry 90), and it is zeroised and FREE again. A
reset ends what its sheets have issued, holds the line, and zeroises, for nobody where a release came first or with it (log entry 132);
a pass whose read-back fails retires the bulkhead, with its rail off and its clock back at 700 MHz (log entry 129), and asks
for a replacement. A relocked PLL runs at the clock of R3, the rail after it (log entry 92). An expired slice leaves the bulkhead ACTIVE until its
phases end (log entry 90), and is followed by the switch (what its last phase ran over the slice is owed), by the park image, by
zeroisation for the next tenant of the rotation, and by that tenant's image, with a slice shortened by what it owes. Zeroisation leaves
every byte of the scratch zero. (R276, R281, R285, R287, R288, R289, R294, R295, R322) -/
def Obligations.Bulkheads : Prop :=
  ∀ (s : State) (bh : Nat), (∀ t, s.tdiRuns t = false) → let b := s.bulkhead bh
    let clean (t : State) : Prop := ∀ a, inScratch bh a = true → t.mem.get a = 0
    (∀ i a, (i, a) ∈ [(Instr.bulkheadRelease bh, BhAsk.release), (.bulkheadReset bh true, .reset true), (.bulkheadReset bh false, .reset false)] ∨
        (∃ tag, i = .bulkheadAssign bh tag ∧ a = .assign tag) →
      (b.state = .retired → exec i s = .next s) ∧
      (b.state ≠ .retired → b.asks = [] → b.allows a = false → ∃ t, exec i s = .next t ∧ t.bulkhead bh = { b with asks := [a] } ∧
        t.mem = s.mem)) ∧
    (∀ tag, b.asks = [] → 0 < tag → tag < 127 → s.activeTenant tag = true → b.busy = .no →
      (b.state = .free → b.started = true → ∃ t, exec (.bulkheadAssign bh tag) s = .next t ∧ (t.bulkhead bh).busy = .zeroising ∧
        (t.bulkhead bh).nextTag = BitVec.ofNat 7 tag ∧ (t.bulkhead bh).state = .free ∧ clean t ∧
        (bh < 64 → (t.record tag).getLsbD (448 + bh) = true)) ∧
      (b.state = .active → b.holders.contains tag = false → s.mayShare bh tag = true → ∃ t, exec (.bulkheadAssign bh tag) s = .next t ∧
        (t.bulkhead bh).rotation = b.rotation ++ [tag] ∧ (t.bulkhead bh).shared = true ∧ (t.bulkhead bh).tag = b.tag ∧ t.mem = s.mem)) ∧
    (b.busy = .zeroising → b.nextTag ≠ 0 → ∃ t, exec (.zeroisationDone bh false) s = .next t ∧ (t.bulkhead bh).state = .active ∧
      (t.bulkhead bh).tag = b.nextTag ∧ (t.bulkhead bh).busy = .no ∧ t.mem = s.mem) ∧
    (b.busy = .zeroising → b.nextTag = 0 → ∃ t, exec (.zeroisationDone bh false) s = .next t ∧ (t.bulkhead bh).state = .free ∧
      (t.bulkhead bh).tag = 0 ∧ (t.bulkhead bh).rotation = [] ∧ t.mem = s.mem) ∧
    (b.busy = .zeroisingNext → exec (.zeroisationDone bh false) s = .next (s.setBulkhead bh { b with tag := b.nextTag, busy := .restoring })) ∧
    (b.busy = .zeroising ∨ b.busy = .zeroisingNext → b.state ≠ .retired → ∃ t, exec (.zeroisationDone bh true) s = .next t ∧
      (t.bulkhead bh).state = .retired ∧ (t.bulkhead bh).mhz = 700 ∧ (t.bulkhead bh).rail = 0 ∧ t.package.replace = true ∧ bh ∈ t.package.retired ∧ clean t) ∧
    (b.relocking = true → ∃ t, exec (.pllRelockDone bh) s = .next t ∧ (t.bulkhead bh).mhz = s.targetMhz bh ∧
      (t.bulkhead bh).rail = railFor bh (s.targetMhz bh) ∧ (t.bulkhead bh).state = b.state ∧ t.mem = s.mem) ∧
    (b.relocking = false → exec (.pllRelockDone bh) s = .next s) ∧
    (b.state = .active → b.busy = .no → b.asks = [] → ∃ t, exec (.bulkheadRelease bh) s = .next t ∧
      t.bulkhead bh = { b with busy := .releasing } ∧ t.mem = s.mem) ∧
    (b.state = .active → b.busy = .releasing → (s.instsOn bh ≠ [] → exec (.bulkheadReleaseDone bh) s = .next s) ∧
      (s.instsOn bh = [] → ∃ t, exec (.bulkheadReleaseDone bh) s = .next t ∧ (t.bulkhead bh).state = .switching ∧
        (t.bulkhead bh).busy = .zeroising ∧ (t.bulkhead bh).nextTag = 0 ∧ clean t)) ∧
    (∀ r : Bool, b.state = .active ∨ b.state = .switching → b.asks = [] → ∃ t, exec (.bulkheadReset bh r) s = .next t ∧
      (t.bulkhead bh).state = .reset ∧ (t.bulkhead bh).busy = .resetLine ∧ (t.bulkhead bh).nextTag = (if r || b.releasing then 0 else b.tag) ∧
      ∀ k o, aget? t.ops k = some o → (bhSheets bh).contains o.sheet = false) ∧
    (b.state = .reset → b.busy = .resetLine → ∃ t, exec (.resetLineRelease bh) s = .next t ∧ (t.bulkhead bh).state = .reset ∧
      (t.bulkhead bh).busy = .zeroising ∧ (t.bulkhead bh).nextTag = b.nextTag ∧ clean t) ∧
    (b.shared = true → b.state = .active → b.busy = .no →
      (b.sliceEnd ≤ s.time → exec (.timeSliceExpiry bh) s = .next (s.setBulkhead bh { b with busy := .sliceEnded })) ∧
      (s.time < b.sliceEnd → exec (.timeSliceExpiry bh) s = .next s)) ∧
    (b.state = .active → b.busy = .sliceEnded → (s.instsOn bh ≠ [] → exec (.bulkheadSwitch bh) s = .next s) ∧
      (s.instsOn bh = [] → ∃ t, exec (.bulkheadSwitch bh) s = .next t ∧ (t.bulkhead bh).state = .switching ∧
        (t.bulkhead bh).busy = .parking ∧ t.mem = s.mem ∧
        t.overrun b.tag.toNat = min (s.overrun b.tag.toNat + (b.phaseEnded - b.sliceEnd) / 1000) (2 ^ 32 - 1))) ∧
    (b.state = .switching → b.busy = .parking → let p := s.parkImage bh; p.2.tenant = b.tag.toNat ∧ p.2.base = s.parkBase b.tag.toNat bh ∧
      ∃ t, exec (.parkComplete bh) s = .next t ∧ (t.bulkhead bh).state = .switching ∧
      (t.bulkhead bh).busy = .zeroisingNext ∧ (t.bulkhead bh).rotation = b.rotation ∧ p.2 ∈ (t.bulkhead bh).parked ∧
      (t.bulkhead bh).nextTag = BitVec.ofNat 7 (nextHolder b.rotation b.tag.toNat) ∧ clean t ∧
      ∀ a, inScratch bh a = false → t.mem.get a = p.1.mem.get a) ∧
    (b.state = .switching → b.busy = .restoring → let w := s.overrun b.tag.toNat; let len := recField (s.record b.tag.toNat) 160 32
      ∃ t, exec (.restoreComplete bh) s = .next t ∧ (t.bulkhead bh).state = .active ∧ (t.bulkhead bh).busy = .no ∧
      (t.bulkhead bh).sliceEnd = s.time + 1000 * (len - min len w) ∧ t.overrun b.tag.toNat = w - min len w ∧
      (∀ p, b.parked.find? (fun p => decide (p.tenant = b.tag.toNat)) = some p → t.mem = (s.restorePark bh p).mem) ∧
      (b.parked.find? (fun p => decide (p.tenant = b.tag.toNat)) = none → t.mem = s.mem))

/-- Each of hostRead, hostWrite, hostAtomic, vfFlr, hostLinkRetrain, configurationRequest, powerGood, perstDeassert, memoryTrained, bulkheadBringup, cxlFrameResident,
cxlFrameLost, sharedUnitFault and scrubLine completes, with the next state its rule gives. A host access that comes after a waiting write (R333) waits with it. Any other outside a
confidential tenant's IDE stream completes UR, or a write has no effect. Through a window, a read of bytes each of which may be reached
gives memory's bytes, a write stores its bytes and no others, an aligned AtomicOp of 4 or 8 bytes returns the old value and stores the
new, an unaligned one completes CA; what meets a held line waits; a register read gives the register bytes, a register write is made, a register
takes no AtomicOp, and a BAR that is none answers UR (log entry 95). An FLR ends every launch of the VF and leaves its registers at reset.
A link that comes up carries the vectors that waited for one (log entry 84). Power-good with four verified images starts the drover, and the fused
version count is at least each image's version (log entry 93), else the device stays in recovery; trained memory has valid frames, of an
HBM stack zero where they were not valid (log entry 89), and an expander those it was given (log entry 32); a bulkhead starts at 700 MHz
with its zeroisation. Far frames become resident, are lost, and after a lasting loss are
invalid. A lost stack makes its frames invalid (log entry 70) and asks for replacement; a lost host link is down. The scrubber counts a single-bit error, poisons a lost
line of DM and zeroes one of scratch; an error that arises is noted. (R207, R213, R226, R280, R297, R325, R326, R328, R333, R334, R346, R351) -/
def Obligations.HostAndBringup : Prop :=
  (∀ (s : State) (fn bar off size : Nat) (h : HostPath) (bs : List Byte), let w := s.windowOf fn bar
    let waits (t : State) (r : HostRequest) : State := { t with package := { t.package with hostWaits := t.package.hostWaits ++ [r] } }
    (∀ op v c, ∀ p ∈ [(Instr.hostRead fn bar off size h, HostRequest.read fn bar off size h), (.hostWrite fn bar off bs h, .write fn bar off bs h),
      (.hostAtomic fn bar off size op v c h, .atomic fn bar off size op v c h)], (∃ x ∈ s.package.hostWaits, x.before p.2 = true) →
      exec p.1 s = .next (waits s p.2)) ∧
    ((∀ x ∈ s.package.hostWaits, x.isWrite = true → x.path.2.link ≠ h.link) →
    (s.outsideIde fn h.ide = true → exec (.hostRead fn bar off size h) s = .next (s.send (.host .ur)) ∧
      exec (.hostWrite fn bar off bs h) s = .next s ∧
      ∀ op v c, exec (.hostAtomic fn bar off size op v c h) s = .next (s.send (.host .ur))) ∧
    (s.outsideIde fn h.ide = false →
      (isRegisterBar fn bar = true → (∃ t, exec (.hostRead fn bar off size h) s = .next t ∧ t.package.sent = s.package.sent ++
          [.host (.data ((List.range size).map fun k => s.registerByte fn bar (off + k)))] ∧ t.mem = s.mem) ∧
        exec (.hostWrite fn bar off bs h) s = .next (s.writeRegisters fn bar off bs) ∧
        ∀ op v c, exec (.hostAtomic fn bar off size op v c h) s = .next (s.send (.host .ur))) ∧
      (isRegisterBar fn bar = false →
        (w = .none → 0 < size → exec (.hostRead fn bar off size h) s = .next (s.send (.host .ur))) ∧
        (∀ d, (∀ k < size, s.hostByte w (off + k) false = (s, .ok (d + k) false)) →
          exec (.hostRead fn bar off size h) s = .next (s.send (.host (.data (s.mem.read d size))))) ∧
        (∀ t l, s.hostBytes w off size false = (t, l) → l.contains .line = true →
          exec (.hostRead fn bar off size h) s = .next (waits t (.read fn bar off size h))) ∧
        (∀ d, s.mem.wf = true → (∀ k < bs.length, s.hostByte w (off + k) true = (s, .ok (d + k) false)) →
          ∃ t, exec (.hostWrite fn bar off bs h) s = .next t ∧ t.mem.read d bs.length = bs ∧
          (∀ a, a < d ∨ d + bs.length ≤ a → t.mem.get a = s.mem.get a)) ∧
        (∀ op v c d, s.mem.wf = true → size = 4 ∨ size = 8 →
          (off % size ≠ 0 → exec (.hostAtomic fn bar off size op v c h) s = .next (s.send (.host .ca))) ∧
          (off % size = 0 → (∀ k < size, s.hostByte w (off + k) false = (s, .ok (d + k) false)) →
            ∃ t, exec (.hostAtomic fn bar off size op v c h) s = .next t ∧
            t.package.sent = s.package.sent ++ [.host (.data (s.mem.read d size))] ∧
            t.mem.read d size = natBytes size (hostAtomicNew op (8 * size) (leNat (s.mem.read d size)) v.toNat c.toNat) ∧
            (∀ a, a < d ∨ d + size ≤ a → t.mem.get a = s.mem.get a))))))) ∧
  (∀ (s : State) (vf : Nat), ∃ t, exec (.vfFlr vf) s = .next t ∧ t.vfSlices vf = [] ∧ (t.vf vf).lrBase = 0 ∧ (t.vf vf).lrSize = 0 ∧
    (t.vf vf).crSize = 0 ∧ (t.vf vf).erSize = 0 ∧ (t.vf vf).tdi = (s.vf vf).tdi ∧
    ∀ k x, aget? t.drover.tags k = some x → x.vf = vf → x.answered ≠ none) ∧
  (∀ (s : State) (link : Nat) (up : Bool), let u : State := { s with package := { s.package with linkUp := s.package.linkUp.set link up } }
    (u.signalLink = none ∨ (∀ p ∈ s.vfs, p.2.signals = []) → exec (.hostLinkRetrain link up) s = .next u) ∧
    (∃ t, exec (.hostLinkRetrain link up) s = .next t ∧ t.package.linkUp = u.package.linkUp ∧ t.mem = s.mem ∧
      (u.signalLink ≠ none → ∀ vf, (t.vf vf).signals = [] ∧ ∀ k ∈ (s.vf vf).signals, ∃ l, .msix (vf + 1) k l ∈ t.package.sent))) ∧
  (∀ s : State, exec .configurationRequest s = .next (s.send (.config (decide (s.package.boot ≠ .running))))) ∧
  (∀ (s : State) (l : List FirmwareImage), let got := bootImages l s.package.nextImages
    ((∀ x ∈ got, ∃ m, x = some m ∧ s.verifies m = true) → ∃ t, exec (.powerGood l) s = .next t ∧ t.package.boot = .running ∧
      t.mem = State.reset.mem ∧ t.insts = [] ∧ t.package.retired = s.package.retired ∧
      ∃ n, t.package.fuse = some n ∧ s.fuseCount ≤ n ∧ ∀ m, some m ∈ got → m.version ≤ n) ∧
    ((∃ x ∈ got, ∀ m, x = some m → s.verifies m = false) → ∃ t, exec (.powerGood l) s = .next t ∧ t.package.boot = .recovery ∧
      t.package.fuse = s.package.fuse)) ∧
  (∀ s : State, ∃ t, exec .perstDeassert s = .next t ∧ t.package.perst = true ∧ (∀ x ∈ t.package.linkUp, x = true) ∧ t.mem = s.mem) ∧
  (∀ (s : State) (k : Nat), (s.package.boot = .running → ∃ t, exec (.memoryTrained (.stack k)) s = .next t ∧ ∀ f,
      agetD t.drover.frames f 0 = (if f / 64 = k then agetD s.drover.frames f 0 ||| 0x80 else agetD s.drover.frames f 0) ∧
      (k < 12 → f / 64 = k → (agetD s.drover.frames f 0).getLsbD 7 = false → ∀ a, a / 2 ^ 30 = f → t.mem.get a = 0)) ∧
    (∀ half f n, s.package.boot = .running → let x : Expander := { port := k, half := half, first := f, frames := n }
      (s.expanderFits x = true → ∃ t, exec (.memoryTrained (.expander k half f n)) s = .next t ∧ x ∈ t.package.expander ∧
        ∀ g, f ≤ g → g < f + n → (agetD t.drover.frames g 0).getLsbD 7 = true) ∧
      (s.expanderFits x = false → exec (.memoryTrained (.expander k half f n)) s = .next s)) ∧
    (∀ u, s.package.boot ≠ .running → exec (.memoryTrained u) s = .next s)) ∧
  (∀ (s : State) (bh : Nat), s.package.boot = .running → (s.bulkhead bh).started = false → (s.bulkhead bh).state = .free →
    ∃ t, exec (.bulkheadBringup bh) s = .next t ∧ (t.bulkhead bh).mhz = 700 ∧ (t.bulkhead bh).busy = .zeroising ∧
    (∀ a, inScratch bh a = true → t.mem.get a = 0)) ∧
  (∀ (s : State) (f n : Nat), (s.hasFrame f = true → 1024 ≤ f → ∃ t, exec (.cxlFrameResident f) s = .next t ∧ f ∈ t.package.resident) ∧
    (f < 1024 → exec (.cxlFrameResident f) s = .next s) ∧
    (∃ t, exec (.cxlFrameLost f n false) s = .next t ∧ t.drover = s.drover ∧
      ∀ k, k ∈ t.package.resident ↔ k ∈ s.package.resident ∧ ¬(1024 ≤ k ∧ f ≤ k ∧ k < f + n)) ∧
    (∃ t, exec (.cxlFrameLost f n true) s = .next t ∧ ∀ k, 1024 ≤ k → f ≤ k → k < f + n → (agetD t.drover.frames k 0).getLsbD 7 = false)) ∧
  (∀ (s : State) (k : Nat), (∃ t, exec (.sharedUnitFault (.hbmStack k) true) s = .next t ∧ t.package.replace = true ∧
      ∀ f, f / 64 = k → (agetD t.drover.frames f 0).getLsbD 7 = false) ∧
    (∃ t, exec (.sharedUnitFault (.hostLink k) false) s = .next t ∧ t.package.linkUp = s.package.linkUp.set k false ∧ t.mem = s.mem)) ∧
  (∀ (s : State) (a : Nat), exec (.scrubLine a .clean) s = .next s ∧
    (∀ b, scratchBh a = some b → exec (.scrubLine a .single) s =
        .next (s.setBulkhead b { s.bulkhead b with corrected := (s.bulkhead b).corrected + 1 }) ∧
      ∃ t, exec (.scrubLine a (.lost false)) s = .next t ∧ ∀ c, c / 256 = a / 256 → t.mem.get c = 0) ∧
    (scratchBh a = none → frameOf a ≠ none → ∃ t, exec (.scrubLine a (.lost false)) s = .next t ∧ a / 256 ∈ t.package.poisoned ∧
      t.mem = s.mem) ∧
    (∀ b, ∃ t, exec (.scrubLine a (.arises b)) s = .next t ∧ (a / 256, b) ∈ t.package.faulty ∧ t.mem = s.mem))

/-- Each of capMessage, capHorizonExpiry, capScaleTick, sensorSample, allowanceWindow, energyRefresh, rateWindowEnd, spdmGetMeasurements, pldmBaseDiscovery,
pldmSensorRead, pldmFirmwareUpdate and tdispRequest completes, with the next state its rule gives. An accepted cap is clamped to 600 to 2,400 W
and applies until its horizon, then the safe cap; every message is answered. Each millisecond a bulkhead's rail is measured and its
factor is the ratio of its share (an equal part of the cap: log entry 98) to its measured power within 1/2 to 2; without a voted current the factor stays. Beyond 105
degrees the edge allowances of the bulkhead's sheets are at their minimum, below 100 it is not hot, and without two valid temperatures it is degraded. A window of 128 cycles sets the edge allowances by the estimate (the events of each context at their weights, and a free rest: log entry 78) against the
share (down by an eighth to no less than 8, up by a sixteenth of the maximum, else unchanged; 8 where it is hot), clears the counts, and leaves what each
context spent due to its slice; a refresh charges the slice that and takes it off the sheets. At the end of a rate window
the measurements start anew; a pinned forme has no event. Measurements are answered signed, or refused where a signature does not
verify; a tenant's indices only for a tenant. Sensors (under the numbers of log entry 28), firmware and TDISP answer as the tables say. (R243, R262, R263, R265, R286, R298,
R299, R352, R353, R354) -/
def Obligations.PowerAndManagement : Prop :=
  (∀ (s : State) (m : Word), let hor := m.toNat % 2 ^ 16; let ahead := (m.toNat / 2 ^ 32 + 2 ^ 32 - s.package.capSeq) % 2 ^ 32
    let w := max 600 (min 2400 (m.toNat / 2 ^ 16 % 2 ^ 16))
    (hor ≠ 0 → 1 ≤ ahead → ahead ≤ 2 ^ 31 - 1 → exec (.capMessage m) s = .next ({ s with package := { s.package with
      capSeq := m.toNat / 2 ^ 32, cap := some (w, s.time + hor * 1000000) } }.send (.cap (m.toNat / 2 ^ 32) w))) ∧
    (hor = 0 ∨ ahead = 0 ∨ 2 ^ 31 ≤ ahead → exec (.capMessage m) s = .next (s.send (.cap s.package.capSeq s.capInForce)))) ∧
  (∀ (s : State), (∀ w e, s.package.cap = some (w, e) → (e ≤ s.time → exec .capHorizonExpiry s =
      .next { s with package := { s.package with cap := none } }) ∧ (s.time < e → exec .capHorizonExpiry s = .next s)) ∧
    (s.package.cap = none → exec .capHorizonExpiry s = .next s ∧ s.capInForce = 1500)) ∧
  (∀ (s : State) (mv : List Nat), ∃ t, exec (.capScaleTick mv) s = .next t ∧ t.mem = s.mem ∧ ∀ n < 64, let b := s.bulkhead n
    let rail := if b.rail = 0 then 0 else mv.getD n b.rail
    (vote b.currents = none → t.bulkhead n = { b with rail := rail }) ∧
    (∀ a, vote b.currents = some a → t.bulkhead n = { b with
      rail := rail, capFactor := if a.toNat * rail = 0 then 2048 else max 512 (min 2048 (s.capInForce * 1000 / 64 * 1024 / (a.toNat * rail))) })) ∧
  (∀ (s : State) (bh : Nat) (ts cs : List Int), let b := s.bulkhead bh; let x := sampleAll true b.temps ts (s.bhEnergy bh)
    ∃ t, exec (.sensorSample bh ts cs) s = .next t ∧ (t.bulkhead bh).temps = x ∧ t.mem = s.mem ∧
    (∀ v, vote x = some v → 105 < v → (t.bulkhead bh).hot = true ∧ ∀ sh ∈ bhSheets bh, (t.sheet sh).edgeAllow = Quad.all 8) ∧
    (∀ v, vote x = some v → v < 100 → (t.bulkhead bh).hot = false ∧ t.sheets = s.sheets) ∧
    ((validReadings x).length < 2 → (t.bulkhead bh).degraded = true)) ∧
  (∀ (s : State) (sheet : Nat), let sh := s.sheet sheet; let e := s.estimate sh + Config.otherEnergy s.free; let share := s.capShare sheet
    ∃ t, exec (.allowanceWindow sheet) s = .next t ∧ t.mem = s.mem ∧ (t.sheet sheet).activity = Quad.all [] ∧
    (t.sheet sheet).edgeUsed = Quad.all 0 ∧ (t.sheet sheet).energy = e ∧ (∀ n, n ≠ sheet → t.sheet n = s.sheet n) ∧
    (∀ c < 4, (t.sheet sheet).spent.get c = sh.spent.get c + s.energyOf (sh.activity.get c)) ∧
    (∀ p < 4, (t.sheet sheet).edgeAllow.get p = if (s.bulkhead (bhOf sheet)).hot then 8 else
      if share < e then max (sh.edgeAllow.get p - sh.edgeAllow.get p / 8) 8
      else if 16 * e < 15 * share then min (sh.edgeAllow.get p + 16) 256 else sh.edgeAllow.get p)) ∧
  (∀ (s : State) (id : Nat) (i : Inst) (x : Slice), aget? s.insts id = some i → aget? s.slices i.slice = some x → i.ctx < 4 →
    ∃ t, exec (.energyRefresh id) s = .next t ∧ aget? t.slices i.slice = some (x.chargeEnergy (s.energyDue i false)) ∧
    (∀ sh ∈ i.sheets, (t.sheet sh).spent.get i.ctx = 0) ∧ t.mem = s.mem) ∧
  (∀ (s : State) (id : Nat) (i : Inst), aget? s.insts id = some i →
    (i.cycle < 4096 * (i.window + 1) → exec (.rateWindowEnd id) s = .next s) ∧
    (4096 * (i.window + 1) ≤ i.cycle → ∃ t u, exec (.rateWindowEnd id) s = .next t ∧ aget? t.insts id = some u ∧ t.mem = s.mem ∧
      u.window = i.window + 1 ∧ (∀ k a, aget? u.forme.actors k = some a → a.inOcc = Quad.all 0 ∧ a.firedAt = a.started) ∧
      (i.pinned = true → u.changes = i.changes))) ∧
  (∀ (s : State) (vf k : Nat) (m : FirmwareImage), let t := s.vfTenant vf
    let answers (i : Nat) (v : BitVec 512) : Prop := exec (.spdmGetMeasurements vf i) s =
      .next (if Config.signatureVerifies false v.toNat (Config.signature false v.toNat) &&
          Config.signatureVerifies true v.toNat (Config.signature true v.toNat)
        then s.send (.measurements i v (Config.signature false v.toNat) (Config.signature true v.toNat)) else s.send .refused)
    (∀ j x, j < 4 → s.package.images[j]? = some x → answers (j + 1) (x.measurement.setWidth 512)) ∧
    answers 5 (Config.fusedMeasurement s.fuseCount) ∧
    answers 6 (Config.measureOf [6, if 1 < s.tenants.length then 1 else 0, if s.soleTenant then 0 else 1]) ∧
    (∀ j < 5, t ≠ 0 → answers (16 + j) (Config.measureOf ((16 + j) :: (s.measured t).getD j []))) ∧
    (t = 0 → 16 ≤ k → exec (.spdmGetMeasurements vf k) s = .next (s.send .refused)) ∧
    exec .pldmBaseDiscovery s = .next (s.send (.pldmBase [0, 2, 5])) ∧
    exec (.pldmSensorRead 0) s = .next (s.send (.sensor ((List.range 64).map s.bhPower).sum)) ∧
    exec (.pldmSensorRead 1) s = .next (s.send (.sensor s.capInForce)) ∧
    (∀ v, 64 ≤ k → k < 128 → vote (s.bulkhead (k - 64)).temps = some v → exec (.pldmSensorRead k) s = .next (s.send (.sensor v))) ∧
    (s.verifies m = true → exec (.pldmFirmwareUpdate m) s = .next ({ s with package := { s.package with
      nextImages := m :: s.package.nextImages.filter fun x => decide (x.kind ≠ m.kind) } }.send (.pldmFirmware true))) ∧
    (s.verifies m = false → exec (.pldmFirmwareUpdate m) s = .next (s.send (.pldmFirmware false))) ∧
    (s.confidential t = true → ∀ (b : Tdi) r, (b, r) ∈ [(Tdi.unlocked, some Tdi.locked), (.locked, none), (.run, none), (.error, none)] →
      (s.vf vf).tdi = b → exec (.tdispRequest vf .lock) s = .next (match r with
        | some x => (s.setVf vf { s.vf vf with tdi := x }).send (.tdisp x)
        | none => s.send .refused)) ∧
    (s.confidential t = true → ((s.vf vf).tdi = .locked → exec (.tdispRequest vf .start) s =
        .next ((s.setVf vf { s.vf vf with tdi := .run }).send (.tdisp .run))) ∧
      exec (.tdispRequest vf .stop) s = .next ((s.setVf vf { s.vf vf with tdi := .unlocked }).send (.tdisp .unlocked))) ∧
    (s.confidential t = false → ∀ msg, exec (.tdispRequest vf msg) s = .next (s.send .refused)))

/-- Each of rankRefresh, phasePlace, tileConfigComplete, phaseEnd, backfillLimit, quantumExhausted, workAllowanceDraw, budgetReport,
completionRecordPost, eventRecordPost and slugTaken completes, with the next state its rule gives. A rank is priority above urgency and is
rewritten on every sheet of the chase once 4,096 ns have passed and it has changed. A phase that can be placed is placed: its instance
has the chase and context found, its slice runs there, and each of its threads starts at the code region with n and the parameters'
stack area. A tile is configured once. A phase that is over frees its chase, and its launch completes DONE after the last. A head that has
waited 50 us holds others back; a used-up quantum sends a slice back; a sheet without units draws up to 4,096 of what is left, and a
launch without any in any sheet of its chase is reported (log entry 104). Records go to the ring at its tail, with the phase bit, an event
with the time of its posting (log entry 145), and a vector is signalled on a link that is up, or waits for one (log entry 84); they wait while the
ring is full, a completion also until its engine operations have joined, and a page of the ring that is missing ends the launches of the
VF (log entry 84). A slug, which stands on the actor's input edges (log entry 100), is
taken on each edge where it is first; the event takes effect with the last of them, once every firing from the tokens before it has ended, not inside a
block of a SCAN set, and not between places on the two sides of a cut in progress (log entry 120). (R10, R19, R29, R90, R223, R237, R238, R239, R242, R337, R344, R345) -/
def Obligations.Scheduling : Prop :=
  (∀ (s : State) (id : Nat) (i : Inst) (x : Slice), aget? s.insts id = some i → aget? s.slices i.slice = some x →
    let r := BitVec.ofNat 8 x.curPrio ++ BitVec.ofNat 8 (255 - min 255 ((x.deadline.toNat - s.time) / 4096))
    (x.rankTime + 4096 ≤ s.time → r ≠ i.forme.rank → i.ctx < 4 → ∃ t, exec (.rankRefresh id) s = .next t ∧
      (∀ sh ∈ i.sheets, (t.sheet sh).rank.get i.ctx = r) ∧ t.mem = s.mem) ∧
    (s.time < x.rankTime + 4096 ∨ r = i.forme.rank → exec (.rankRefresh id) s = .next s)) ∧
  (∀ (s : State) (die : Nat),
    (∀ p, s.firstPlaceable (s.slicesIn die .requeued ++ s.slicesIn die .queued) = some p →
      let x := p.1.2; let m := p.2.1; let v := p.2.2.1; let base := p.2.2.2.1; let ctx := p.2.2.2.2; let shs := chaseSheets base v.w v.h
      ∃ t i y, exec (.phasePlace die) s = .next t ∧ aget? t.insts s.nextId = some i ∧ i.base = base ∧ i.ctx = ctx ∧ i.tenant = x.tenant ∧
        i.pinned = m.pinned ∧ i.sheets = shs ∧ aget? t.slices p.1.1 = some y ∧ y.state = .placed ∧ y.inst = some s.nextId ∧
        (ctx < 4 → ∀ k sh, shs[k]? = some sh → shs.Nodup → (t.sheet sh).valid.get ctx = true ∧ (v.code.contains k = true →
          (t.thread sh ctx).run = .running ∧ (t.thread sh ctx).pc = BitVec.ofNat 64 (0xFF00000001300000 + 0x3C000 * ctx) ∧
          (t.thread sh ctx).reg 1 = BitVec.ofNat 64 x.n ∧ (t.thread sh ctx).rasBase = x.rasBase))) ∧
    (s.firstPlaceable (s.slicesIn die .requeued ++ s.slicesIn die .queued) = none → exec (.phasePlace die) s = .next s)) ∧
  (∀ (s : State) (id sheet tile : Nat) (i : Inst), aget? s.insts id = some i →
    (i.sheets.contains sheet = false ∨ 16 ≤ tile ∨ i.configured.contains (sheet, tile) = true →
      exec (.tileConfigComplete id sheet tile) s = .next s) ∧
    (i.sheets.contains sheet = true → tile < 16 → i.configured.contains (sheet, tile) = false →
      i.configured.length + 1 ≠ 16 * (i.w * i.h) → ∃ t u, exec (.tileConfigComplete id sheet tile) s = .next t ∧
      aget? t.insts id = some u ∧ u.configured = i.configured ++ [(sheet, tile)] ∧
      (i.ctx < 4 → (t.tile sheet tile).switch.get i.ctx = i.image.switchWords i.base (i.indexOf sheet) tile))) ∧
  (∀ (s : State) (id : Nat) (i : Inst), aget? s.insts id = some i →
    (s.phaseOver id i = false → exec (.phaseEnd id) s = .next s) ∧
    (s.phaseOver id i = true → ∃ t, exec (.phaseEnd id) s = .next t ∧ aget? t.insts id = none ∧
      ∀ x, aget? s.slices i.slice = some x → s.assocSets i = [] → i.nextPhase = none → x.nph ≤ x.phase + 1 → ∃ c,
        (t.vf x.vf).completions = (s.vf x.vf).completions ++ [c] ∧ c.status = 0 ∧ c.stamp = x.stamp ∧ c.cookie = x.cookie)) ∧
  (∀ (s : State) (die k : Nat) (x : Slice) (r : List (Nat × Slice)), s.slicesIn die .queued = (k, x) :: r →
    (x.waitSince + 50000 ≤ s.time → s.drover.backfill.contains k = false → ∃ t, exec (.backfillLimit die) s = .next t ∧
      t.drover.backfill = s.drover.backfill ++ [k] ∧ t.mem = s.mem) ∧
    (s.time < x.waitSince + 50000 → exec (.backfillLimit die) s = .next s)) ∧
  (∀ (s : State) (k : Nat) (x : Slice), aget? s.slices k = some x →
    (x.state = .placed → s.quantumOf x ≤ x.quantum → (∃ p ∈ s.slicesIn x.die .queued, x.curPrio ≤ p.2.curPrio) →
      exec (.quantumExhausted k) s = .next (s.setSlice k { x with sendBack := true })) ∧
    (x.quantum < s.quantumOf x → exec (.quantumExhausted k) s = .next s)) ∧
  (∀ (s : State) (sheet ctx id : Nat) (i : Inst) (x : Slice), s.instAt sheet ctx = some (id, i) → aget? s.slices i.slice = some x → ctx < 4 →
    (x.workFree = false → (s.sheet sheet).units.get ctx = 0 → x.work ≠ 0 → ∃ t, exec (.workAllowanceDraw sheet ctx) s = .next t ∧
      (t.sheet sheet).units.get ctx = min 4096 x.work ∧ aget? t.slices i.slice = some { x with work := x.work - min 4096 x.work }) ∧
    (x.workFree = true → (s.sheet sheet).units.get ctx = 0 → ∃ t, exec (.workAllowanceDraw sheet ctx) s = .next t ∧
      (t.sheet sheet).units.get ctx = 4096 ∧ aget? t.slices i.slice = some x) ∧
    ((s.sheet sheet).units.get ctx ≠ 0 → exec (.workAllowanceDraw sheet ctx) s = .next s)) ∧
  (∀ (s : State) (id : Nat) (i : Inst) (x : Slice), aget? s.insts id = some i → aget? s.slices i.slice = some x →
    (x.workFree = false → x.work = 0 → x.heldForBudget = false → (∀ sh ∈ i.sheets, (s.sheet sh).units.get i.ctx = 0) →
      exec (.budgetReport id) s = .next ((s.setSlice i.slice { x with heldForBudget := true }).postEvent x.vf
        { kind := 2, fault := 6, tag := x.stamp, a := 0, b := x.cookie, c := BitVec.ofNat 64 x.charged })) ∧
    (x.workFree = true ∨ x.work ≠ 0 ∨ x.heldForBudget = true → exec (.budgetReport id) s = .next s)) ∧
  (∀ (s t : State) (vf : Nat), let v := s.vf vf
    let signalled (u : State) (k : Nat) : State := match s.signalLink with
      | some link => u.send (.msix (vf + 1) k link)
      | none => u.setVf vf { u.vf vf with signals := (u.vf vf).signals ++ [k] }
    (∀ c l (n : Word), n = BitVec.ofNat 64 ((v.crTail.toNat + 1) % v.crSize.toNat) → v.completions = c :: l → v.crSize ≠ 0 →
      let at_ := v.crBase.toNat + 64 * v.crTail.toNat; let bs := c.bytes v.crPhase
      (s.joined c.inst = false ∨ n = v.crHead → exec (.completionRecordPost vf) s = .next s) ∧
      (s.joined c.inst = true → n ≠ v.crHead →
        (s.ringMisses vf at_ bs.length = true → exec (.completionRecordPost vf) s = .next (s.endVf vf)) ∧
        (s.ringMisses vf at_ bs.length = false → s.droverWrite (s.vfTenant vf) at_ bs = (t, true) →
          exec (.completionRecordPost vf) s = .next (signalled (t.setVf vf { t.vf vf with
            completions := l, crTail := n, crPhase := if n = 0 then !v.crPhase else v.crPhase }) 0)))) ∧
    (∀ e l (n : Word), n = BitVec.ofNat 64 ((v.erTail.toNat + 1) % v.erSize.toNat) → v.events = e :: l → v.erSize ≠ 0 →
      let at_ := v.erBase.toNat + 32 * v.erTail.toNat; let bs := e.bytes v.erPhase s.time
      (n = v.erHead → exec (.eventRecordPost vf) s = .next s) ∧
      (n ≠ v.erHead →
        (s.ringMisses vf at_ bs.length = true → exec (.eventRecordPost vf) s = .next (s.endVf vf)) ∧
        (s.ringMisses vf at_ bs.length = false → s.droverWrite (s.vfTenant vf) at_ bs = (t, true) →
          exec (.eventRecordPost vf) s = .next (signalled (t.setVf vf { t.vf vf with
            events := l, erTail := n, erPhase := if n = 0 then !v.erPhase else v.erPhase }) 1))))) ∧
  (∀ (s : State) (id k : Nat) (i : Inst) (c : Change) (a : Actor), aget? s.insts id = some i → i.changes.find? (fun c => decide (c.id = k)) = some c →
    aget? i.forme.actors c.actor = some a → i.restoring = false → s.stopped a.node.sheet = false →
    ((∃ p ∈ i.rewired k, p.2.slugFirst k = false) → exec (.slugTaken id k) s = .next (s.setInst id { i with
      edges := amap i.edges fun _ e => if e.slugFirst k then e.takeSlug k else e })) ∧
    ((∀ p ∈ i.rewired k, p.2.slugFirst k = true) →
      (s.settled i a = false ∨ (c.kind = 1 ∧ s.joinHeld i.ctx a = true) → exec (.slugTaken id k) s = .next s) ∧
      (s.settled i a = true → (c.kind = 1 → s.joinHeld i.ctx a = false) → a.midBlock c = true ∨ s.acrossCut i c a = true → exec (.slugTaken id k) s = .next (s.setInst id { i with
        edges := amap i.edges fun _ e => e.deferSlug k })) ∧
      (s.settled i a = true → (c.kind = 1 → s.joinHeld i.ctx a = false) → a.midBlock c = false → s.acrossCut i c a = false →
        (s.changeHolds i c a = false → exec (.slugTaken id k) s = .next (s.setInst id { i with
          changes := i.changes.filter fun c => decide (c.id ≠ k), edges := amap i.edges fun _ e => e.takeSlug k })) ∧
        (c.kind = 0 → s.changeHolds i c a = true → ∃ t u b, exec (.slugTaken id k) s = .next t ∧ aget? t.insts id = some u ∧
          aget? u.forme.actors c.actor = some b ∧ b.members = a.members ++ [c.after] ∧ (∀ d ∈ u.changes, d.id ≠ k) ∧ t.mem = s.mem))))

/-- Each of cutTimer, nodeSave, cutComplete, tokenParityError, nodeMachineCheck, rollbackRestoreDone, watchdogExpiry, reportDelivery and
thawArrival completes, with the next state its rule gives. A cut is requested when the 100 us timer has run out or a request waits. A
node saves, into the area of the cut in progress, once the bellwether has come by its aligning ports; when every part is there the cut completes: what it
covers is committed and what was written since stays held (log entry 127), its area is written, header and body, at the slice's save base or
behind it for an odd cut, and valid, and the counts start anew; the body begins with the keep ranges and bank images and is free for the rest
(log entry 8). At a line that fails the area is written invalid and a new cut goes into it, or at a lasting fault the bulkhead retires; where the
save area cannot be reached the launch ends DATA_LOST. A token or node fault
winds the instance back, unless it recurs and retires the bulkhead; one during a restore begins no second (log entry 137); without a
complete cut, or at the eighth rollback,
its launch ends DATA_LOST. A restore whose area cannot be read as it was written, or fails, ends the launch DATA_LOST, else the saved layout is back and the
edges are empty but for the slugs of rewirings the cut saved. The watchdog at 2^20 freezes the instance and queues STALL; the base thread takes the oldest report at
its handler; a thaw frees one sheet. (R257, R305, R308, R310, R312, R313, R314, R315, R319, R320, R323, R324) -/
def Obligations.Recovery : Prop :=
  ∀ (s : State) (id : Nat) (i : Inst), aget? s.insts id = some i →
    (i.cutWanted = true ∨ (i.cutsDone ≠ 0 ∧ i.cutClock + 100000 ≤ s.time) →
      (i.cutting ≠ none → exec (.cutTimer id) s = .next s) ∧
      (i.cutting = none → i.restoring = true → exec (.cutTimer id) s = .next (s.setInst id { i with cutWanted := true })) ∧
      (i.cutting = none → i.restoring = false → s.assocSets i = [] → ∃ t u a, exec (.cutTimer id) s = .next t ∧ aget? t.insts id = some u ∧
        u.cutting = some a ∧ a.cut = i.cutsDone ∧ a.valid = false ∧ a.nodes = [] ∧ a.sheets.map (·.sheet) = i.sheets ∧ t.mem = s.mem)) ∧
    (i.cutWanted = false → i.cutsDone = 0 ∨ s.time < i.cutClock + 100000 → exec (.cutTimer id) s = .next s) ∧
    (∀ n area, i.cutting = some area → let l := i.forme.group [n] 32; let on := i.forme.actorsOn l
      i.restoring = false → on ≠ [] → (s.nodeCtx n i.ctx).saved = false →
      ((∃ p ∈ on, s.aligned i p.1 p.2 = false) → exec (.nodeSave id n) s = .next s) ∧
      ((∀ p ∈ on, s.aligned i p.1 p.2 = true ∧ s.drained i p.1 p.2 = true) → (∀ m ∈ l, s.betweenFirings m i.ctx = true) →
        (∀ p ∈ on, p.2.members.length ≤ 1) → n ∈ l.filter (fun m => !(i.forme.actorsOn [m]).isEmpty) → i.ctx < 4 → ∃ t u a, exec (.nodeSave id n) s = .next t ∧ aget? t.insts id = some u ∧
          u.cutting = some a ∧ (∃ v ∈ a.nodes, v.node = n ∧ v.saved = s.nodeCtx n i.ctx) ∧ (t.nodeCtx n i.ctx).saved = true ∧ t.mem = s.mem)) ∧
    (∀ area, i.cutting = some area →
      (s.cutReady id i area = false → ∀ f, exec (.cutComplete id f) s = .next s) ∧
      (s.cutReady id i area = true → s.areaLocs i area.cut .write = none → ∀ f,
        exec (.cutComplete id f) s = .next (s.endLaunch id kDataLost 0)) ∧
      (∀ locs, s.cutReady id i area = true → s.areaLocs i area.cut .write = some locs →
        (i.sheets.all fun sh => !(s.thread sh i.ctx).publishing) = true →
        ∃ (t : State) (u : Inst) (a : Area) (body : List Byte), exec (.cutComplete id none) s = .next t ∧ aget? t.insts id = some u ∧
        u.cutsDone = i.cutsDone + 1 ∧ u.cutting = none ∧ u.rollbacks = 0 ∧ u.held = i.afterCommit.held ∧
        (if area.cut % 2 = 0 then u.areaA else u.areaB) = some a ∧ a.valid = true ∧ a.cut = area.cut ∧ a.time = BitVec.ofNat 64 s.time ∧
        body.length = 64 * i.image.saveUnits ∧ body.take a.parts.length = a.parts.take body.length ∧ a.crc = crc32c body ∧
        a.len = i.image.saveUnits ∧ t.mem = (s.mem.put i.toCommit).scatter (locs.zip (a.header ++ body))) ∧
      (∀ locs line, s.cutReady id i area = true → s.areaLocs i area.cut .write = some locs → let site := FaultSite.saveLine (bhOf i.base) line
        (s.lastingAt site true = true → (s.bulkhead (bhOf i.base)).state ≠ .retired → ∃ t, exec (.cutComplete id (some line)) s = .next t ∧
          (t.bulkhead (bhOf i.base)).state = .retired) ∧
        (s.lastingAt site true = false → s.assocSets i = [] → i.restoring = false →
          ∃ (t : State) (u : Inst) (a : Area), exec (.cutComplete id (some line)) s = .next t ∧ aget? t.insts id = some u ∧
          u.cutting = some a ∧ a.cut = i.cutsDone ∧ (if area.cut % 2 = 0 then u.areaA else u.areaB) = none ∧
          t.mem = s.mem.scatter (locs.zip { area with valid := false }.header))) ∧
      (∀ cut k, s.areaLocs i cut k = (aget? s.slices i.slice).bind fun x => s.directRun i.tenant
        (x.save.toNat + (if cut % 2 = 0 then 0 else i.image.saveBytes)) (64 + 64 * i.image.saveUnits) k)) ∧
    (∀ site, (s.lastingAt site false = false → i.restoring = false →
        (i.cutsDone = 0 ∨ 7 ≤ i.rollbacks → exec (.tokenParityError id site) s = .next ((s.noteFault site false [id]).endLaunch id 0x0D 0)) ∧
        (i.cutsDone ≠ 0 → i.rollbacks < 7 → ∃ t u, exec (.tokenParityError id site) s = .next t ∧ aget? t.insts id = some u ∧
          u.restoring = true ∧ u.held = [] ∧ u.reports = [] ∧ u.rollbacks = i.rollbacks + 1 ∧ t.mem = s.mem)) ∧
      (s.lastingAt site false = false → i.restoring = true → exec (.tokenParityError id site) s = .next (s.noteFault site false [id])) ∧
      (s.lastingAt site false = true → exec (.tokenParityError id site) s = .next ((s.noteFault site false [id]).retireBh (faultBh site))) ∧
      (s.lastingAt site true = true → ∃ t, exec (.nodeMachineCheck site) s = .next t ∧
        ((s.bulkhead (faultBh site)).state ≠ .retired → (t.bulkhead (faultBh site)).state = .retired)) ∧
      (s.lastingAt site true = false → i.holdsAt site = false → (∀ p ∈ s.insts, p.2.holdsAt site = false) →
        ∃ t, exec (.nodeMachineCheck site) s = .next t ∧ t.insts = s.insts) ∧
      (s.lastingAt site true = false → s.insts = [(id, i)] → i.holdsAt site = true → i.restoring = false → i.cutsDone ≠ 0 → i.rollbacks < 7 →
        ∃ t u, exec (.nodeMachineCheck site) s = .next t ∧ aget? t.insts id = some u ∧ u.restoring = true)) ∧
    (∀ fails, (i.restoring = false → exec (.rollbackRestoreDone id fails) s = .next s)) ∧
    (i.restoring = true → exec (.rollbackRestoreDone id true) s = .next (s.endLaunch id 0x0D 0)) ∧
    (i.restoring = true → (i.newestArea = none ∨ (∃ a, i.newestArea = some a ∧ s.readArea i a = none)) →
      exec (.rollbackRestoreDone id false) s = .next (s.endLaunch id 0x0D 0)) ∧
    (∀ a area f, i.restoring = true → i.newestArea = some a → s.readArea i a = some area → area.forme = some f → s.nodesFree i area = true →
      ∃ t u, exec (.rollbackRestoreDone id false) s = .next t ∧ aget? t.insts id = some u ∧ u.restoring = false ∧ u.forme.actors = f.actors ∧
      u.forme.layver = f.layver ∧ u.rollbacks = i.rollbacks ∧
      (area.incomplete = [] → ∀ p ∈ u.edges, p.2.items = [] ∧ p.2.next = [])) ∧
    (2 ^ 20 ≤ i.watchdog → i.stalled = false → i.frozen = false →
      (s.noHandler i = true → exec (.watchdogExpiry id) s = .next ((s.setInst id { i with stalled := true }).endLaunch id kStall 0)) ∧
      (s.noHandler i = false → ∃ t u r, exec (.watchdogExpiry id) s = .next t ∧ aget? t.insts id = some u ∧ u.frozen = true ∧ u.stalled = true ∧
        r ∈ u.reports ∧ (∀ x ∈ i.reports, x ∈ u.reports) ∧ r.kind = kStall ∧ r.src = 6 ∧ t.mem = s.mem)) ∧
    (i.watchdog < 2 ^ 20 → exec (.watchdogExpiry id) s = .next s) ∧
    (i.reports = [] → exec (.reportDelivery id) s = .next s) ∧
    (∀ r l, i.reports = r :: l → s.canDeliver i = true → s.noHandler i = false → (s.thread i.base i.ctx).wait = none → i.ctx < 4 →
      ∃ t u, exec (.reportDelivery id) s = .next t ∧ aget? t.insts id = some u ∧ u.reports = l ∧ u.openReport = some r ∧
        (t.thread i.base i.ctx).pc = (s.thread i.base i.ctx).tvec ∧ (t.thread i.base i.ctx).epc = (s.thread i.base i.ctx).pc ∧
        (t.thread i.base i.ctx).cause = r.cause ∧ (t.thread i.base i.ctx).tval = r.tval) ∧
    (∀ sh, exec (.thawArrival id sh) s = .next (s.setInst id { i with thawing := i.thawing.filter fun n => decide (n ≠ sh) }))
end

