-- ==== Sys2Proof/Laws/Access.lean ====
section
/-! SUPPORT. What an access does, said once: it finds its location and changes nothing but what the drover has cached, and
the instruction goes on there; or it traps with the address in TVAL. -/

namespace Sys2Proof.Machine

set_option Elab.async false

/-! ### Finding the location (R39, R92) -/

/-- A translation changes nothing but the cache of translations. -/
theorem State.translate_frame (s : State) (tenant va : Nat) :
    (s.translate tenant va).1 = { s with drover := { s.drover with cached := (s.translate tenant va).1.drover.cached } } := by
  unfold State.translate
  split
  · rfl
  · split <;> rfl

/-- What holds an access back lets through what it answers, as it came. -/
theorem State.holdAns_ok {s : State} {g : Agent} {len : Nat} {k : AccessKind} {a : Ans} {loc : Nat} {po : BitVec 2}
    (h : s.holdAns g len k a = .ok loc po) : a = .ok loc po := by
  cases a <;> simp only [State.holdAns] at h
  · repeat' split at h
    all_goals first | exact h | cases h
  all_goals cases h

/-- A read that meets no error is made in the state it was asked in. -/
theorem State.meetAns_ok {s t : State} {k : AccessKind} {a : Ans} {loc : Nat} {po : BitVec 2}
    (h : s.meetAns k a = (t, .ok loc po)) : t = s ∧ a = .ok loc po := by
  cases a <;> simp only [State.meetAns] at h
  · split at h
    · cases h
    · cases h; exact ⟨rfl, rfl⟩
  all_goals cases h

/-- An access that may be made has changed nothing but the cache of translations. -/
theorem State.resolve_ok {s t : State} {g : Agent} {a len : Nat} {k : AccessKind} {loc : Nat} {po : BitVec 2}
    (h : s.resolve g a len k = (t, .ok loc po)) : t = { s with drover := { s.drover with cached := t.drover.cached } } := by
  unfold State.resolve at h
  split at h
  · cases h
  · rename_i v _
    have hf := s.translate_frame g.tenant v
    split at h
    · rename_i u _ _ hu
      rw [hu] at hf
      obtain ⟨rfl, -⟩ := State.meetAns_ok h
      exact hf
    all_goals cases h
  · rename_i r _ _
    obtain ⟨rfl, hk⟩ := State.meetAns_ok h
    have ha := State.holdAns_ok hk
    have hs : s.strays g r k = false := by simp [State.strays, ha]
    simp [hs]

/-- What an access that may be made leaves: memory, the instances, the sheets, the nodes and who acts. -/
theorem State.resolve_ok_parts {s t : State} {g : Agent} {a len : Nat} {k : AccessKind} {loc : Nat} {po : BitVec 2}
    (h : s.resolve g a len k = (t, .ok loc po)) :
    t.mem = s.mem ∧ t.insts = s.insts ∧ t.sheets = s.sheets ∧ t.nodes = s.nodes ∧ t.ops = s.ops ∧ t.streams = s.streams ∧
    t.slices = s.slices ∧ t.cur = s.cur ∧ t.curSheet = s.curSheet ∧ t.curCtx = s.curCtx := by
  have e := State.resolve_ok h
  generalize t.drover.cached = c at e
  subst e
  exact ⟨rfl, rfl, rfl, rfl, rfl, rfl, rfl, rfl, rfl, rfl⟩

/-! ### The access of a thread's instruction (R85, R91) -/

theorem State.access_ok {s t : State} {addr : Word} {len loc : Nat} {k : AccessKind} {po : BitVec 2} (i : Instr)
    (go : State → Nat → BitVec 2 → State) (ha : addr.toNat % len = 0) (hi : s.cur.invalid ≠ some addr)
    (h : s.resolve s.threadAgent addr.toNat len k = (t, .ok loc po)) : s.access i addr len k go = go t loc po := by
  simp [State.access, ha, hi, h]

theorem State.access_misaligned (s : State) {addr : Word} {len : Nat} (k : AccessKind) (i : Instr) (go : State → Nat → BitVec 2 → State)
    (ha : addr.toNat % len ≠ 0) : s.access i addr len k go = s.trap kAlign addr := by simp [State.access, ha]

theorem State.access_invalid {s : State} {addr : Word} {len : Nat} (k : AccessKind) (i : Instr) (go : State → Nat → BitVec 2 → State)
    (ha : addr.toNat % len = 0) (hi : s.cur.invalid = some addr) : s.access i addr len k go = s.trap kXlate addr := by
  simp [State.access, ha, hi]

theorem State.access_xlate {s t : State} {addr : Word} {len : Nat} {k : AccessKind} (i : Instr) (go : State → Nat → BitVec 2 → State)
    (ha : addr.toNat % len = 0) (hi : s.cur.invalid ≠ some addr) (h : s.resolve s.threadAgent addr.toNat len k = (t, .xlate)) :
    s.access i addr len k go = t.trap kXlate addr := by
  simp [State.access, ha, hi, h]

theorem State.access_denied {s t : State} {addr : Word} {len : Nat} {k : AccessKind} (i : Instr) (go : State → Nat → BitVec 2 → State)
    (ha : addr.toNat % len = 0) (hi : s.cur.invalid ≠ some addr) (h : s.resolve s.threadAgent addr.toNat len k = (t, .access)) :
    s.access i addr len k go = t.trap kAccess addr := by
  simp [State.access, ha, hi, h]

/-! ### Records, doubleword by doubleword (R96) -/

theorem State.readRecord_step {s t : State} {addr : Word} {loc : Nat} {po : BitVec 2} (i : Instr) (n : Nat) (got : List Byte)
    (go : State → List Byte → State) (ha : addr.toNat % 8 = 0) (hi : s.cur.invalid ≠ some addr)
    (h : s.resolve s.threadAgent addr.toNat 8 .read = (t, .ok loc po)) :
    s.readRecord i addr (n + 1) got go = t.readRecord i (addr + 8) n (got ++ t.loadBytes t.curInstId loc 8) go := by
  simp only [State.readRecord]
  exact State.access_ok i _ ha hi h

end Sys2Proof.Machine
end

