-- ==== Sys2Proof/Laws/Data.lean ====
section
/-! SUPPORT. Keyed lists and memory: reading after a write, and the canonical form that every memory operation keeps. -/

namespace Sys2Proof.Machine

set_option Elab.async false

/-! ### Keyed lists -/

variable {κ α : Type} [DecidableEq κ]

@[simp] theorem aget?_nil (k : κ) : aget? ([] : Assoc κ α) k = none := rfl

theorem aget?_cons (k' k : κ) (v : α) (r : Assoc κ α) : aget? ((k', v) :: r) k = if k = k' then some v else aget? r k := rfl

@[simp] theorem aget?_aset_same (l : Assoc κ α) (k : κ) (v : α) : aget? (aset l k v) k = some v := by
  induction l with
  | nil => simp [aset, aget?]
  | cons p r ih =>
    obtain ⟨k', v'⟩ := p
    by_cases h : k = k' <;> simp [aset, aget?, h, ih]

theorem aget?_aset_other (l : Assoc κ α) {k j : κ} (v : α) (h : j ≠ k) : aget? (aset l k v) j = aget? l j := by
  induction l with
  | nil => simp [aset, aget?, h]
  | cons p r ih =>
    obtain ⟨k', v'⟩ := p
    by_cases hk : k = k'
    · subst hk; simp [aset, aget?, h]
    · simp [aset, aget?, hk, ih]

@[simp] theorem agetD_aset_same (l : Assoc κ α) (k : κ) (v d : α) : agetD (aset l k v) k d = v := by simp [agetD]

theorem agetD_aset_other (l : Assoc κ α) {k j : κ} (v d : α) (h : j ≠ k) : agetD (aset l k v) j d = agetD l j d := by
  simp [agetD, aget?_aset_other l v h]

theorem aget?_amap (l : Assoc κ α) (f : κ → α → α) (k : κ) : aget? (amap l f) k = (aget? l k).map (f k) := by
  induction l with
  | nil => rfl
  | cons p r ih =>
    obtain ⟨k', v'⟩ := p
    by_cases h : k = k'
    · subst h; simp [amap, aget?]
    · simpa [amap, aget?, h] using ih

theorem aget?_adel_same (l : Assoc κ α) (k : κ) : aget? (adel l k) k = none := by
  induction l with
  | nil => rfl
  | cons p r ih =>
    obtain ⟨k', v'⟩ := p
    by_cases h : k' = k
    · subst h; simpa [adel] using ih
    · have h' : ¬ k = k' := fun e => h e.symm
      simpa [adel, h, aget?, h'] using ih

/-! ### Memory: the canonical form -/

theorem Memory.wfFrom_mono {m : Memory} {lo hi : Nat} (h : Memory.wfFrom hi m = true) (hl : lo ≤ hi) :
    Memory.wfFrom lo m = true := by
  cases m with
  | nil => rfl
  | cons c r =>
    obtain ⟨a, v⟩ := c
    simp only [Memory.wfFrom, Bool.and_eq_true, decide_eq_true_eq] at h ⊢
    exact ⟨⟨by omega, h.1.2⟩, h.2⟩

theorem Memory.wfFrom_cons {lo a : Nat} {v : Byte} {m : Memory} (hl : lo ≤ a) (h : Memory.wfFrom (a + 1) m = true) :
    Memory.wfFrom lo (Memory.cons a v m) = true := by
  unfold Memory.cons
  split
  · exact Memory.wfFrom_mono h (by omega)
  · simp_all [Memory.wfFrom]

theorem Memory.wfFrom_set {m : Memory} {lo a : Nat} {v : Byte} (h : Memory.wfFrom lo m = true) (hl : lo ≤ a) :
    Memory.wfFrom lo (Memory.set m a v) = true := by
  induction m generalizing lo with
  | nil => exact Memory.wfFrom_cons hl rfl
  | cons c r ih =>
    obtain ⟨b, w⟩ := c
    simp [Memory.wfFrom] at h
    obtain ⟨⟨h1, h2⟩, h3⟩ := h
    simp only [Memory.set]
    split
    · exact Memory.wfFrom_cons hl (by simp [Memory.wfFrom, h2, h3]; omega)
    · split
      · subst_vars; exact Memory.wfFrom_cons h1 h3
      · simp [Memory.wfFrom, h1, h2]; exact ih h3 (by omega)

@[simp] theorem Memory.wf_set {m : Memory} (a : Nat) (v : Byte) (h : m.wf = true) : (Memory.set m a v).wf = true :=
  Memory.wfFrom_set h (Nat.zero_le a)

@[simp] theorem Memory.wf_write {m : Memory} (a : Nat) (bs : List Byte) (h : m.wf = true) : (m.write a bs).wf = true := by
  induction bs generalizing m a with
  | nil => exact h
  | cons b r ih => exact ih (a + 1) (Memory.wf_set a b h)

theorem Memory.wfFrom_filter {m : Memory} {lo : Nat} (p : Host.Cell → Bool) (h : Memory.wfFrom lo m = true) :
    Memory.wfFrom lo (m.filter p) = true := by
  induction m generalizing lo with
  | nil => rfl
  | cons c r ih =>
    obtain ⟨a, v⟩ := c
    simp [Memory.wfFrom] at h
    obtain ⟨⟨h1, h2⟩, h3⟩ := h
    by_cases hp : p (a, v) = true
    · simp [hp, Memory.wfFrom, h1, h2, ih h3]
    · simp [hp]; exact Memory.wfFrom_mono (ih h3) (by omega)

@[simp] theorem Memory.wf_filter {m : Memory} (p : Host.Cell → Bool) (h : m.wf = true) : Memory.wf (m.filter p) = true :=
  Memory.wfFrom_filter p h

@[simp] theorem Memory.wf_clear {m : Memory} (a b : Nat) (h : m.wf = true) : (m.clear a b).wf = true := Memory.wf_filter _ h

theorem Memory.wf_nil : Memory.wf [] = true := rfl

/-! ### Memory: reading after a write -/

theorem Memory.get_below {m : Memory} {lo a : Nat} (h : Memory.wfFrom lo m = true) (hl : a < lo) : Memory.get m a = 0 := by
  cases m with
  | nil => rfl
  | cons c r =>
    obtain ⟨b, v⟩ := c
    simp [Memory.wfFrom] at h
    have h1 : ¬ a = b := by omega
    have h2 : a < b := by omega
    simp [Memory.get, h1, h2]

theorem Memory.get_cons {m : Memory} {a b : Nat} {v : Byte} (h : Memory.wfFrom (a + 1) m = true) :
    Memory.get (Memory.cons a v m) b = if b = a then v else Memory.get m b := by
  unfold Memory.cons
  split
  · rename_i hv
    split
    · subst_vars; exact Memory.get_below h (by omega)
    · rfl
  · by_cases h1 : b = a
    · simp [Memory.get, h1]
    · by_cases h2 : b < a
      · simp [Memory.get, h1, h2, Memory.get_below h (show b < a + 1 by omega)]
      · simp [Memory.get, h1, h2]

theorem Memory.get_set_from {m : Memory} {lo a b : Nat} {v : Byte} (h : Memory.wfFrom lo m = true) :
    Memory.get (Memory.set m a v) b = if b = a then v else Memory.get m b := by
  induction m generalizing lo with
  | nil => simp only [Memory.set]; exact Memory.get_cons rfl
  | cons c r ih =>
    obtain ⟨c, w⟩ := c
    simp [Memory.wfFrom] at h
    obtain ⟨⟨h1, h2⟩, h3⟩ := h
    simp only [Memory.set]
    split
    · rw [Memory.get_cons (by simp [Memory.wfFrom, h2, h3]; omega)]
    · split
      · rename_i hac hae
        subst hae
        rw [Memory.get_cons h3]
        by_cases hb : b = a
        · simp [hb]
        · by_cases hl : b < a
          · simp [hb, Memory.get, hl, Memory.get_below h3 (show b < a + 1 by omega)]
          · simp [hb, Memory.get, hl]
      · rename_i hac hae
        simp only [Memory.get]
        by_cases hb : b = c
        · have : ¬ b = a := by omega
          simp [hb]; intro e; omega
        · by_cases hl : b < c
          · have : ¬ b = a := by omega
            simp [hb, hl, this]
          · simp [hb, hl, ih h3]

/-- A byte written is read back, and no other byte changes. -/
theorem Memory.get_set {m : Memory} (h : m.wf = true) (a b : Nat) (v : Byte) :
    Memory.get (Memory.set m a v) b = if b = a then v else Memory.get m b := Memory.get_set_from h

/-- Bytes written are read back in their order, and no other byte changes. -/
theorem Memory.get_write {m : Memory} (h : m.wf = true) (a b : Nat) (bs : List Byte) :
    Memory.get (m.write a bs) b = if a ≤ b ∧ b < a + bs.length then bs.getD (b - a) 0 else Memory.get m b := by
  induction bs generalizing m a with
  | nil =>
    have h0 : ¬ (a ≤ b ∧ b < a + ([] : List Byte).length) := by simp
    rw [if_neg h0]; rfl
  | cons x r ih =>
    simp only [Memory.write]
    rw [ih (Memory.wf_set a x h), Memory.get_set h]
    by_cases h1 : b = a
    · subst h1
      have h0 : ¬ (b + 1 ≤ b ∧ b < b + 1 + r.length) := by omega
      rw [if_neg h0, if_pos rfl, if_pos (by simp)]; simp
    · by_cases h2 : a + 1 ≤ b ∧ b < a + 1 + r.length
      · have h3 : a ≤ b ∧ b < a + (x :: r).length := by simp; omega
        have h4 : b - a = (b - (a + 1)) + 1 := by omega
        rw [if_pos h2, if_pos h3, h4]; simp
      · have h3 : ¬ (a ≤ b ∧ b < a + (x :: r).length) := by simp; omega
        rw [if_neg h2, if_neg h1, if_neg h3]

theorem Memory.read_length (m : Memory) (a n : Nat) : (m.read a n).length = n := by simp [Memory.read]

end Sys2Proof.Machine
end

