-- ==== Sys2Proof/Laws/State.lean ====
section
/-! SUPPORT. The state under its updates: one lemma per field for each update that leaves the field alone, and what is read
back of the unit an update replaces. -/

namespace Sys2Proof.Machine

set_option Elab.async false

/-! ### Fields an update leaves alone -/

@[simp] theorem State.setSheet_mem (s : State) (n : Nat) (v : Sheet) : (s.setSheet n v).mem = s.mem := rfl
@[simp] theorem State.setSheet_images (s : State) (n : Nat) (v : Sheet) : (s.setSheet n v).images = s.images := rfl
@[simp] theorem State.setSheet_tiles (s : State) (n : Nat) (v : Sheet) : (s.setSheet n v).tiles = s.tiles := rfl
@[simp] theorem State.setSheet_nodes (s : State) (n : Nat) (v : Sheet) : (s.setSheet n v).nodes = s.nodes := rfl
@[simp] theorem State.setSheet_streams (s : State) (n : Nat) (v : Sheet) : (s.setSheet n v).streams = s.streams := rfl
@[simp] theorem State.setSheet_ops (s : State) (n : Nat) (v : Sheet) : (s.setSheet n v).ops = s.ops := rfl
@[simp] theorem State.setSheet_insts (s : State) (n : Nat) (v : Sheet) : (s.setSheet n v).insts = s.insts := rfl
@[simp] theorem State.setSheet_slices (s : State) (n : Nat) (v : Sheet) : (s.setSheet n v).slices = s.slices := rfl
@[simp] theorem State.setSheet_bulkheads (s : State) (n : Nat) (v : Sheet) : (s.setSheet n v).bulkheads = s.bulkheads := rfl
@[simp] theorem State.setSheet_ownerTags (s : State) (n : Nat) (v : Sheet) : (s.setSheet n v).ownerTags = s.ownerTags := rfl
@[simp] theorem State.setSheet_arrayTags (s : State) (n : Nat) (v : Sheet) : (s.setSheet n v).arrayTags = s.arrayTags := rfl
@[simp] theorem State.setSheet_vfs (s : State) (n : Nat) (v : Sheet) : (s.setSheet n v).vfs = s.vfs := rfl
@[simp] theorem State.setSheet_drover (s : State) (n : Nat) (v : Sheet) : (s.setSheet n v).drover = s.drover := rfl
@[simp] theorem State.setSheet_package (s : State) (n : Nat) (v : Sheet) : (s.setSheet n v).package = s.package := rfl
@[simp] theorem State.setSheet_time (s : State) (n : Nat) (v : Sheet) : (s.setSheet n v).time = s.time := rfl
@[simp] theorem State.setSheet_cycle (s : State) (n : Nat) (v : Sheet) : (s.setSheet n v).cycle = s.cycle := rfl
@[simp] theorem State.setSheet_curSheet (s : State) (n : Nat) (v : Sheet) : (s.setSheet n v).curSheet = s.curSheet := rfl
@[simp] theorem State.setSheet_curCtx (s : State) (n : Nat) (v : Sheet) : (s.setSheet n v).curCtx = s.curCtx := rfl
@[simp] theorem State.setSheet_curNode (s : State) (n : Nat) (v : Sheet) : (s.setSheet n v).curNode = s.curNode := rfl
@[simp] theorem State.setSheet_agenda (s : State) (n : Nat) (v : Sheet) : (s.setSheet n v).agenda = s.agenda := rfl
@[simp] theorem State.setSheet_free (s : State) (n : Nat) (v : Sheet) : (s.setSheet n v).free = s.free := rfl
@[simp] theorem State.setSheet_nextId (s : State) (n : Nat) (v : Sheet) : (s.setSheet n v).nextId = s.nextId := rfl

@[simp] theorem State.setThread_mem (s : State) (n c : Nat) (v : Thread) : (s.setThread n c v).mem = s.mem := rfl
@[simp] theorem State.setThread_images (s : State) (n c : Nat) (v : Thread) : (s.setThread n c v).images = s.images := rfl
@[simp] theorem State.setThread_tiles (s : State) (n c : Nat) (v : Thread) : (s.setThread n c v).tiles = s.tiles := rfl
@[simp] theorem State.setThread_nodes (s : State) (n c : Nat) (v : Thread) : (s.setThread n c v).nodes = s.nodes := rfl
@[simp] theorem State.setThread_streams (s : State) (n c : Nat) (v : Thread) : (s.setThread n c v).streams = s.streams := rfl
@[simp] theorem State.setThread_ops (s : State) (n c : Nat) (v : Thread) : (s.setThread n c v).ops = s.ops := rfl
@[simp] theorem State.setThread_insts (s : State) (n c : Nat) (v : Thread) : (s.setThread n c v).insts = s.insts := rfl
@[simp] theorem State.setThread_slices (s : State) (n c : Nat) (v : Thread) : (s.setThread n c v).slices = s.slices := rfl
@[simp] theorem State.setThread_bulkheads (s : State) (n c : Nat) (v : Thread) : (s.setThread n c v).bulkheads = s.bulkheads := rfl
@[simp] theorem State.setThread_ownerTags (s : State) (n c : Nat) (v : Thread) : (s.setThread n c v).ownerTags = s.ownerTags := rfl
@[simp] theorem State.setThread_arrayTags (s : State) (n c : Nat) (v : Thread) : (s.setThread n c v).arrayTags = s.arrayTags := rfl
@[simp] theorem State.setThread_vfs (s : State) (n c : Nat) (v : Thread) : (s.setThread n c v).vfs = s.vfs := rfl
@[simp] theorem State.setThread_drover (s : State) (n c : Nat) (v : Thread) : (s.setThread n c v).drover = s.drover := rfl
@[simp] theorem State.setThread_package (s : State) (n c : Nat) (v : Thread) : (s.setThread n c v).package = s.package := rfl
@[simp] theorem State.setThread_time (s : State) (n c : Nat) (v : Thread) : (s.setThread n c v).time = s.time := rfl
@[simp] theorem State.setThread_cycle (s : State) (n c : Nat) (v : Thread) : (s.setThread n c v).cycle = s.cycle := rfl
@[simp] theorem State.setThread_curSheet (s : State) (n c : Nat) (v : Thread) : (s.setThread n c v).curSheet = s.curSheet := rfl
@[simp] theorem State.setThread_curCtx (s : State) (n c : Nat) (v : Thread) : (s.setThread n c v).curCtx = s.curCtx := rfl
@[simp] theorem State.setThread_curNode (s : State) (n c : Nat) (v : Thread) : (s.setThread n c v).curNode = s.curNode := rfl
@[simp] theorem State.setThread_agenda (s : State) (n c : Nat) (v : Thread) : (s.setThread n c v).agenda = s.agenda := rfl
@[simp] theorem State.setThread_free (s : State) (n c : Nat) (v : Thread) : (s.setThread n c v).free = s.free := rfl
@[simp] theorem State.setThread_nextId (s : State) (n c : Nat) (v : Thread) : (s.setThread n c v).nextId = s.nextId := rfl

@[simp] theorem State.setCur_mem (s : State) (v : Thread) : (s.setCur v).mem = s.mem := rfl
@[simp] theorem State.setCur_images (s : State) (v : Thread) : (s.setCur v).images = s.images := rfl
@[simp] theorem State.setCur_tiles (s : State) (v : Thread) : (s.setCur v).tiles = s.tiles := rfl
@[simp] theorem State.setCur_nodes (s : State) (v : Thread) : (s.setCur v).nodes = s.nodes := rfl
@[simp] theorem State.setCur_streams (s : State) (v : Thread) : (s.setCur v).streams = s.streams := rfl
@[simp] theorem State.setCur_ops (s : State) (v : Thread) : (s.setCur v).ops = s.ops := rfl
@[simp] theorem State.setCur_insts (s : State) (v : Thread) : (s.setCur v).insts = s.insts := rfl
@[simp] theorem State.setCur_slices (s : State) (v : Thread) : (s.setCur v).slices = s.slices := rfl
@[simp] theorem State.setCur_bulkheads (s : State) (v : Thread) : (s.setCur v).bulkheads = s.bulkheads := rfl
@[simp] theorem State.setCur_ownerTags (s : State) (v : Thread) : (s.setCur v).ownerTags = s.ownerTags := rfl
@[simp] theorem State.setCur_arrayTags (s : State) (v : Thread) : (s.setCur v).arrayTags = s.arrayTags := rfl
@[simp] theorem State.setCur_vfs (s : State) (v : Thread) : (s.setCur v).vfs = s.vfs := rfl
@[simp] theorem State.setCur_drover (s : State) (v : Thread) : (s.setCur v).drover = s.drover := rfl
@[simp] theorem State.setCur_package (s : State) (v : Thread) : (s.setCur v).package = s.package := rfl
@[simp] theorem State.setCur_time (s : State) (v : Thread) : (s.setCur v).time = s.time := rfl
@[simp] theorem State.setCur_cycle (s : State) (v : Thread) : (s.setCur v).cycle = s.cycle := rfl
@[simp] theorem State.setCur_curSheet (s : State) (v : Thread) : (s.setCur v).curSheet = s.curSheet := rfl
@[simp] theorem State.setCur_curCtx (s : State) (v : Thread) : (s.setCur v).curCtx = s.curCtx := rfl
@[simp] theorem State.setCur_curNode (s : State) (v : Thread) : (s.setCur v).curNode = s.curNode := rfl
@[simp] theorem State.setCur_agenda (s : State) (v : Thread) : (s.setCur v).agenda = s.agenda := rfl
@[simp] theorem State.setCur_free (s : State) (v : Thread) : (s.setCur v).free = s.free := rfl
@[simp] theorem State.setCur_nextId (s : State) (v : Thread) : (s.setCur v).nextId = s.nextId := rfl

@[simp] theorem State.setTile_mem (s : State) (n k : Nat) (v : Tile) : (s.setTile n k v).mem = s.mem := rfl
@[simp] theorem State.setTile_images (s : State) (n k : Nat) (v : Tile) : (s.setTile n k v).images = s.images := rfl
@[simp] theorem State.setTile_sheets (s : State) (n k : Nat) (v : Tile) : (s.setTile n k v).sheets = s.sheets := rfl
@[simp] theorem State.setTile_nodes (s : State) (n k : Nat) (v : Tile) : (s.setTile n k v).nodes = s.nodes := rfl
@[simp] theorem State.setTile_streams (s : State) (n k : Nat) (v : Tile) : (s.setTile n k v).streams = s.streams := rfl
@[simp] theorem State.setTile_ops (s : State) (n k : Nat) (v : Tile) : (s.setTile n k v).ops = s.ops := rfl
@[simp] theorem State.setTile_insts (s : State) (n k : Nat) (v : Tile) : (s.setTile n k v).insts = s.insts := rfl
@[simp] theorem State.setTile_slices (s : State) (n k : Nat) (v : Tile) : (s.setTile n k v).slices = s.slices := rfl
@[simp] theorem State.setTile_bulkheads (s : State) (n k : Nat) (v : Tile) : (s.setTile n k v).bulkheads = s.bulkheads := rfl
@[simp] theorem State.setTile_ownerTags (s : State) (n k : Nat) (v : Tile) : (s.setTile n k v).ownerTags = s.ownerTags := rfl
@[simp] theorem State.setTile_arrayTags (s : State) (n k : Nat) (v : Tile) : (s.setTile n k v).arrayTags = s.arrayTags := rfl
@[simp] theorem State.setTile_vfs (s : State) (n k : Nat) (v : Tile) : (s.setTile n k v).vfs = s.vfs := rfl
@[simp] theorem State.setTile_drover (s : State) (n k : Nat) (v : Tile) : (s.setTile n k v).drover = s.drover := rfl
@[simp] theorem State.setTile_package (s : State) (n k : Nat) (v : Tile) : (s.setTile n k v).package = s.package := rfl
@[simp] theorem State.setTile_time (s : State) (n k : Nat) (v : Tile) : (s.setTile n k v).time = s.time := rfl
@[simp] theorem State.setTile_cycle (s : State) (n k : Nat) (v : Tile) : (s.setTile n k v).cycle = s.cycle := rfl
@[simp] theorem State.setTile_curSheet (s : State) (n k : Nat) (v : Tile) : (s.setTile n k v).curSheet = s.curSheet := rfl
@[simp] theorem State.setTile_curCtx (s : State) (n k : Nat) (v : Tile) : (s.setTile n k v).curCtx = s.curCtx := rfl
@[simp] theorem State.setTile_curNode (s : State) (n k : Nat) (v : Tile) : (s.setTile n k v).curNode = s.curNode := rfl
@[simp] theorem State.setTile_agenda (s : State) (n k : Nat) (v : Tile) : (s.setTile n k v).agenda = s.agenda := rfl
@[simp] theorem State.setTile_free (s : State) (n k : Nat) (v : Tile) : (s.setTile n k v).free = s.free := rfl
@[simp] theorem State.setTile_nextId (s : State) (n k : Nat) (v : Tile) : (s.setTile n k v).nextId = s.nextId := rfl

@[simp] theorem State.setNode_mem (s : State) (n : NodeId) (v : Node) : (s.setNode n v).mem = s.mem := rfl
@[simp] theorem State.setNode_images (s : State) (n : NodeId) (v : Node) : (s.setNode n v).images = s.images := rfl
@[simp] theorem State.setNode_sheets (s : State) (n : NodeId) (v : Node) : (s.setNode n v).sheets = s.sheets := rfl
@[simp] theorem State.setNode_tiles (s : State) (n : NodeId) (v : Node) : (s.setNode n v).tiles = s.tiles := rfl
@[simp] theorem State.setNode_streams (s : State) (n : NodeId) (v : Node) : (s.setNode n v).streams = s.streams := rfl
@[simp] theorem State.setNode_ops (s : State) (n : NodeId) (v : Node) : (s.setNode n v).ops = s.ops := rfl
@[simp] theorem State.setNode_insts (s : State) (n : NodeId) (v : Node) : (s.setNode n v).insts = s.insts := rfl
@[simp] theorem State.setNode_slices (s : State) (n : NodeId) (v : Node) : (s.setNode n v).slices = s.slices := rfl
@[simp] theorem State.setNode_bulkheads (s : State) (n : NodeId) (v : Node) : (s.setNode n v).bulkheads = s.bulkheads := rfl
@[simp] theorem State.setNode_ownerTags (s : State) (n : NodeId) (v : Node) : (s.setNode n v).ownerTags = s.ownerTags := rfl
@[simp] theorem State.setNode_arrayTags (s : State) (n : NodeId) (v : Node) : (s.setNode n v).arrayTags = s.arrayTags := rfl
@[simp] theorem State.setNode_vfs (s : State) (n : NodeId) (v : Node) : (s.setNode n v).vfs = s.vfs := rfl
@[simp] theorem State.setNode_drover (s : State) (n : NodeId) (v : Node) : (s.setNode n v).drover = s.drover := rfl
@[simp] theorem State.setNode_package (s : State) (n : NodeId) (v : Node) : (s.setNode n v).package = s.package := rfl
@[simp] theorem State.setNode_time (s : State) (n : NodeId) (v : Node) : (s.setNode n v).time = s.time := rfl
@[simp] theorem State.setNode_cycle (s : State) (n : NodeId) (v : Node) : (s.setNode n v).cycle = s.cycle := rfl
@[simp] theorem State.setNode_curSheet (s : State) (n : NodeId) (v : Node) : (s.setNode n v).curSheet = s.curSheet := rfl
@[simp] theorem State.setNode_curCtx (s : State) (n : NodeId) (v : Node) : (s.setNode n v).curCtx = s.curCtx := rfl
@[simp] theorem State.setNode_curNode (s : State) (n : NodeId) (v : Node) : (s.setNode n v).curNode = s.curNode := rfl
@[simp] theorem State.setNode_agenda (s : State) (n : NodeId) (v : Node) : (s.setNode n v).agenda = s.agenda := rfl
@[simp] theorem State.setNode_free (s : State) (n : NodeId) (v : Node) : (s.setNode n v).free = s.free := rfl
@[simp] theorem State.setNode_nextId (s : State) (n : NodeId) (v : Node) : (s.setNode n v).nextId = s.nextId := rfl

@[simp] theorem State.setNodeCtx_mem (s : State) (n : NodeId) (c : Nat) (v : NodeCtx) : (s.setNodeCtx n c v).mem = s.mem := rfl
@[simp] theorem State.setNodeCtx_images (s : State) (n : NodeId) (c : Nat) (v : NodeCtx) : (s.setNodeCtx n c v).images = s.images := rfl
@[simp] theorem State.setNodeCtx_sheets (s : State) (n : NodeId) (c : Nat) (v : NodeCtx) : (s.setNodeCtx n c v).sheets = s.sheets := rfl
@[simp] theorem State.setNodeCtx_tiles (s : State) (n : NodeId) (c : Nat) (v : NodeCtx) : (s.setNodeCtx n c v).tiles = s.tiles := rfl
@[simp] theorem State.setNodeCtx_streams (s : State) (n : NodeId) (c : Nat) (v : NodeCtx) : (s.setNodeCtx n c v).streams = s.streams := rfl
@[simp] theorem State.setNodeCtx_ops (s : State) (n : NodeId) (c : Nat) (v : NodeCtx) : (s.setNodeCtx n c v).ops = s.ops := rfl
@[simp] theorem State.setNodeCtx_insts (s : State) (n : NodeId) (c : Nat) (v : NodeCtx) : (s.setNodeCtx n c v).insts = s.insts := rfl
@[simp] theorem State.setNodeCtx_slices (s : State) (n : NodeId) (c : Nat) (v : NodeCtx) : (s.setNodeCtx n c v).slices = s.slices := rfl
@[simp] theorem State.setNodeCtx_bulkheads (s : State) (n : NodeId) (c : Nat) (v : NodeCtx) : (s.setNodeCtx n c v).bulkheads = s.bulkheads := rfl
@[simp] theorem State.setNodeCtx_ownerTags (s : State) (n : NodeId) (c : Nat) (v : NodeCtx) : (s.setNodeCtx n c v).ownerTags = s.ownerTags := rfl
@[simp] theorem State.setNodeCtx_arrayTags (s : State) (n : NodeId) (c : Nat) (v : NodeCtx) : (s.setNodeCtx n c v).arrayTags = s.arrayTags := rfl
@[simp] theorem State.setNodeCtx_vfs (s : State) (n : NodeId) (c : Nat) (v : NodeCtx) : (s.setNodeCtx n c v).vfs = s.vfs := rfl
@[simp] theorem State.setNodeCtx_drover (s : State) (n : NodeId) (c : Nat) (v : NodeCtx) : (s.setNodeCtx n c v).drover = s.drover := rfl
@[simp] theorem State.setNodeCtx_package (s : State) (n : NodeId) (c : Nat) (v : NodeCtx) : (s.setNodeCtx n c v).package = s.package := rfl
@[simp] theorem State.setNodeCtx_time (s : State) (n : NodeId) (c : Nat) (v : NodeCtx) : (s.setNodeCtx n c v).time = s.time := rfl
@[simp] theorem State.setNodeCtx_cycle (s : State) (n : NodeId) (c : Nat) (v : NodeCtx) : (s.setNodeCtx n c v).cycle = s.cycle := rfl
@[simp] theorem State.setNodeCtx_curSheet (s : State) (n : NodeId) (c : Nat) (v : NodeCtx) : (s.setNodeCtx n c v).curSheet = s.curSheet := rfl
@[simp] theorem State.setNodeCtx_curCtx (s : State) (n : NodeId) (c : Nat) (v : NodeCtx) : (s.setNodeCtx n c v).curCtx = s.curCtx := rfl
@[simp] theorem State.setNodeCtx_curNode (s : State) (n : NodeId) (c : Nat) (v : NodeCtx) : (s.setNodeCtx n c v).curNode = s.curNode := rfl
@[simp] theorem State.setNodeCtx_agenda (s : State) (n : NodeId) (c : Nat) (v : NodeCtx) : (s.setNodeCtx n c v).agenda = s.agenda := rfl
@[simp] theorem State.setNodeCtx_free (s : State) (n : NodeId) (c : Nat) (v : NodeCtx) : (s.setNodeCtx n c v).free = s.free := rfl
@[simp] theorem State.setNodeCtx_nextId (s : State) (n : NodeId) (c : Nat) (v : NodeCtx) : (s.setNodeCtx n c v).nextId = s.nextId := rfl

@[simp] theorem State.setBulkhead_mem (s : State) (n : Nat) (v : Bulkhead) : (s.setBulkhead n v).mem = s.mem := rfl
@[simp] theorem State.setBulkhead_images (s : State) (n : Nat) (v : Bulkhead) : (s.setBulkhead n v).images = s.images := rfl
@[simp] theorem State.setBulkhead_sheets (s : State) (n : Nat) (v : Bulkhead) : (s.setBulkhead n v).sheets = s.sheets := rfl
@[simp] theorem State.setBulkhead_tiles (s : State) (n : Nat) (v : Bulkhead) : (s.setBulkhead n v).tiles = s.tiles := rfl
@[simp] theorem State.setBulkhead_nodes (s : State) (n : Nat) (v : Bulkhead) : (s.setBulkhead n v).nodes = s.nodes := rfl
@[simp] theorem State.setBulkhead_streams (s : State) (n : Nat) (v : Bulkhead) : (s.setBulkhead n v).streams = s.streams := rfl
@[simp] theorem State.setBulkhead_ops (s : State) (n : Nat) (v : Bulkhead) : (s.setBulkhead n v).ops = s.ops := rfl
@[simp] theorem State.setBulkhead_insts (s : State) (n : Nat) (v : Bulkhead) : (s.setBulkhead n v).insts = s.insts := rfl
@[simp] theorem State.setBulkhead_slices (s : State) (n : Nat) (v : Bulkhead) : (s.setBulkhead n v).slices = s.slices := rfl
@[simp] theorem State.setBulkhead_ownerTags (s : State) (n : Nat) (v : Bulkhead) : (s.setBulkhead n v).ownerTags = s.ownerTags := rfl
@[simp] theorem State.setBulkhead_arrayTags (s : State) (n : Nat) (v : Bulkhead) : (s.setBulkhead n v).arrayTags = s.arrayTags := rfl
@[simp] theorem State.setBulkhead_vfs (s : State) (n : Nat) (v : Bulkhead) : (s.setBulkhead n v).vfs = s.vfs := rfl
@[simp] theorem State.setBulkhead_drover (s : State) (n : Nat) (v : Bulkhead) : (s.setBulkhead n v).drover = s.drover := rfl
@[simp] theorem State.setBulkhead_package (s : State) (n : Nat) (v : Bulkhead) : (s.setBulkhead n v).package = s.package := rfl
@[simp] theorem State.setBulkhead_time (s : State) (n : Nat) (v : Bulkhead) : (s.setBulkhead n v).time = s.time := rfl
@[simp] theorem State.setBulkhead_cycle (s : State) (n : Nat) (v : Bulkhead) : (s.setBulkhead n v).cycle = s.cycle := rfl
@[simp] theorem State.setBulkhead_curSheet (s : State) (n : Nat) (v : Bulkhead) : (s.setBulkhead n v).curSheet = s.curSheet := rfl
@[simp] theorem State.setBulkhead_curCtx (s : State) (n : Nat) (v : Bulkhead) : (s.setBulkhead n v).curCtx = s.curCtx := rfl
@[simp] theorem State.setBulkhead_curNode (s : State) (n : Nat) (v : Bulkhead) : (s.setBulkhead n v).curNode = s.curNode := rfl
@[simp] theorem State.setBulkhead_agenda (s : State) (n : Nat) (v : Bulkhead) : (s.setBulkhead n v).agenda = s.agenda := rfl
@[simp] theorem State.setBulkhead_free (s : State) (n : Nat) (v : Bulkhead) : (s.setBulkhead n v).free = s.free := rfl
@[simp] theorem State.setBulkhead_nextId (s : State) (n : Nat) (v : Bulkhead) : (s.setBulkhead n v).nextId = s.nextId := rfl

@[simp] theorem State.setVf_mem (s : State) (n : Nat) (v : Vf) : (s.setVf n v).mem = s.mem := rfl
@[simp] theorem State.setVf_images (s : State) (n : Nat) (v : Vf) : (s.setVf n v).images = s.images := rfl
@[simp] theorem State.setVf_sheets (s : State) (n : Nat) (v : Vf) : (s.setVf n v).sheets = s.sheets := rfl
@[simp] theorem State.setVf_tiles (s : State) (n : Nat) (v : Vf) : (s.setVf n v).tiles = s.tiles := rfl
@[simp] theorem State.setVf_nodes (s : State) (n : Nat) (v : Vf) : (s.setVf n v).nodes = s.nodes := rfl
@[simp] theorem State.setVf_streams (s : State) (n : Nat) (v : Vf) : (s.setVf n v).streams = s.streams := rfl
@[simp] theorem State.setVf_ops (s : State) (n : Nat) (v : Vf) : (s.setVf n v).ops = s.ops := rfl
@[simp] theorem State.setVf_insts (s : State) (n : Nat) (v : Vf) : (s.setVf n v).insts = s.insts := rfl
@[simp] theorem State.setVf_slices (s : State) (n : Nat) (v : Vf) : (s.setVf n v).slices = s.slices := rfl
@[simp] theorem State.setVf_bulkheads (s : State) (n : Nat) (v : Vf) : (s.setVf n v).bulkheads = s.bulkheads := rfl
@[simp] theorem State.setVf_ownerTags (s : State) (n : Nat) (v : Vf) : (s.setVf n v).ownerTags = s.ownerTags := rfl
@[simp] theorem State.setVf_arrayTags (s : State) (n : Nat) (v : Vf) : (s.setVf n v).arrayTags = s.arrayTags := rfl
@[simp] theorem State.setVf_drover (s : State) (n : Nat) (v : Vf) : (s.setVf n v).drover = s.drover := rfl
@[simp] theorem State.setVf_package (s : State) (n : Nat) (v : Vf) : (s.setVf n v).package = s.package := rfl
@[simp] theorem State.setVf_time (s : State) (n : Nat) (v : Vf) : (s.setVf n v).time = s.time := rfl
@[simp] theorem State.setVf_cycle (s : State) (n : Nat) (v : Vf) : (s.setVf n v).cycle = s.cycle := rfl
@[simp] theorem State.setVf_curSheet (s : State) (n : Nat) (v : Vf) : (s.setVf n v).curSheet = s.curSheet := rfl
@[simp] theorem State.setVf_curCtx (s : State) (n : Nat) (v : Vf) : (s.setVf n v).curCtx = s.curCtx := rfl
@[simp] theorem State.setVf_curNode (s : State) (n : Nat) (v : Vf) : (s.setVf n v).curNode = s.curNode := rfl
@[simp] theorem State.setVf_agenda (s : State) (n : Nat) (v : Vf) : (s.setVf n v).agenda = s.agenda := rfl
@[simp] theorem State.setVf_free (s : State) (n : Nat) (v : Vf) : (s.setVf n v).free = s.free := rfl
@[simp] theorem State.setVf_nextId (s : State) (n : Nat) (v : Vf) : (s.setVf n v).nextId = s.nextId := rfl

@[simp] theorem State.setInst_mem (s : State) (n : Nat) (v : Inst) : (s.setInst n v).mem = s.mem := rfl
@[simp] theorem State.setInst_images (s : State) (n : Nat) (v : Inst) : (s.setInst n v).images = s.images := rfl
@[simp] theorem State.setInst_sheets (s : State) (n : Nat) (v : Inst) : (s.setInst n v).sheets = s.sheets := rfl
@[simp] theorem State.setInst_tiles (s : State) (n : Nat) (v : Inst) : (s.setInst n v).tiles = s.tiles := rfl
@[simp] theorem State.setInst_nodes (s : State) (n : Nat) (v : Inst) : (s.setInst n v).nodes = s.nodes := rfl
@[simp] theorem State.setInst_streams (s : State) (n : Nat) (v : Inst) : (s.setInst n v).streams = s.streams := rfl
@[simp] theorem State.setInst_ops (s : State) (n : Nat) (v : Inst) : (s.setInst n v).ops = s.ops := rfl
@[simp] theorem State.setInst_slices (s : State) (n : Nat) (v : Inst) : (s.setInst n v).slices = s.slices := rfl
@[simp] theorem State.setInst_bulkheads (s : State) (n : Nat) (v : Inst) : (s.setInst n v).bulkheads = s.bulkheads := rfl
@[simp] theorem State.setInst_ownerTags (s : State) (n : Nat) (v : Inst) : (s.setInst n v).ownerTags = s.ownerTags := rfl
@[simp] theorem State.setInst_arrayTags (s : State) (n : Nat) (v : Inst) : (s.setInst n v).arrayTags = s.arrayTags := rfl
@[simp] theorem State.setInst_vfs (s : State) (n : Nat) (v : Inst) : (s.setInst n v).vfs = s.vfs := rfl
@[simp] theorem State.setInst_drover (s : State) (n : Nat) (v : Inst) : (s.setInst n v).drover = s.drover := rfl
@[simp] theorem State.setInst_package (s : State) (n : Nat) (v : Inst) : (s.setInst n v).package = s.package := rfl
@[simp] theorem State.setInst_time (s : State) (n : Nat) (v : Inst) : (s.setInst n v).time = s.time := rfl
@[simp] theorem State.setInst_cycle (s : State) (n : Nat) (v : Inst) : (s.setInst n v).cycle = s.cycle := rfl
@[simp] theorem State.setInst_curSheet (s : State) (n : Nat) (v : Inst) : (s.setInst n v).curSheet = s.curSheet := rfl
@[simp] theorem State.setInst_curCtx (s : State) (n : Nat) (v : Inst) : (s.setInst n v).curCtx = s.curCtx := rfl
@[simp] theorem State.setInst_curNode (s : State) (n : Nat) (v : Inst) : (s.setInst n v).curNode = s.curNode := rfl
@[simp] theorem State.setInst_agenda (s : State) (n : Nat) (v : Inst) : (s.setInst n v).agenda = s.agenda := rfl
@[simp] theorem State.setInst_free (s : State) (n : Nat) (v : Inst) : (s.setInst n v).free = s.free := rfl
@[simp] theorem State.setInst_nextId (s : State) (n : Nat) (v : Inst) : (s.setInst n v).nextId = s.nextId := rfl

@[simp] theorem State.setSlice_mem (s : State) (n : Nat) (v : Slice) : (s.setSlice n v).mem = s.mem := rfl
@[simp] theorem State.setSlice_images (s : State) (n : Nat) (v : Slice) : (s.setSlice n v).images = s.images := rfl
@[simp] theorem State.setSlice_sheets (s : State) (n : Nat) (v : Slice) : (s.setSlice n v).sheets = s.sheets := rfl
@[simp] theorem State.setSlice_tiles (s : State) (n : Nat) (v : Slice) : (s.setSlice n v).tiles = s.tiles := rfl
@[simp] theorem State.setSlice_nodes (s : State) (n : Nat) (v : Slice) : (s.setSlice n v).nodes = s.nodes := rfl
@[simp] theorem State.setSlice_streams (s : State) (n : Nat) (v : Slice) : (s.setSlice n v).streams = s.streams := rfl
@[simp] theorem State.setSlice_ops (s : State) (n : Nat) (v : Slice) : (s.setSlice n v).ops = s.ops := rfl
@[simp] theorem State.setSlice_insts (s : State) (n : Nat) (v : Slice) : (s.setSlice n v).insts = s.insts := rfl
@[simp] theorem State.setSlice_bulkheads (s : State) (n : Nat) (v : Slice) : (s.setSlice n v).bulkheads = s.bulkheads := rfl
@[simp] theorem State.setSlice_ownerTags (s : State) (n : Nat) (v : Slice) : (s.setSlice n v).ownerTags = s.ownerTags := rfl
@[simp] theorem State.setSlice_arrayTags (s : State) (n : Nat) (v : Slice) : (s.setSlice n v).arrayTags = s.arrayTags := rfl
@[simp] theorem State.setSlice_vfs (s : State) (n : Nat) (v : Slice) : (s.setSlice n v).vfs = s.vfs := rfl
@[simp] theorem State.setSlice_drover (s : State) (n : Nat) (v : Slice) : (s.setSlice n v).drover = s.drover := rfl
@[simp] theorem State.setSlice_package (s : State) (n : Nat) (v : Slice) : (s.setSlice n v).package = s.package := rfl
@[simp] theorem State.setSlice_time (s : State) (n : Nat) (v : Slice) : (s.setSlice n v).time = s.time := rfl
@[simp] theorem State.setSlice_cycle (s : State) (n : Nat) (v : Slice) : (s.setSlice n v).cycle = s.cycle := rfl
@[simp] theorem State.setSlice_curSheet (s : State) (n : Nat) (v : Slice) : (s.setSlice n v).curSheet = s.curSheet := rfl
@[simp] theorem State.setSlice_curCtx (s : State) (n : Nat) (v : Slice) : (s.setSlice n v).curCtx = s.curCtx := rfl
@[simp] theorem State.setSlice_curNode (s : State) (n : Nat) (v : Slice) : (s.setSlice n v).curNode = s.curNode := rfl
@[simp] theorem State.setSlice_agenda (s : State) (n : Nat) (v : Slice) : (s.setSlice n v).agenda = s.agenda := rfl
@[simp] theorem State.setSlice_free (s : State) (n : Nat) (v : Slice) : (s.setSlice n v).free = s.free := rfl
@[simp] theorem State.setSlice_nextId (s : State) (n : Nat) (v : Slice) : (s.setSlice n v).nextId = s.nextId := rfl

@[simp] theorem State.updDrover_mem (s : State) (f : Drover → Drover) : (s.updDrover f).mem = s.mem := rfl
@[simp] theorem State.updDrover_images (s : State) (f : Drover → Drover) : (s.updDrover f).images = s.images := rfl
@[simp] theorem State.updDrover_sheets (s : State) (f : Drover → Drover) : (s.updDrover f).sheets = s.sheets := rfl
@[simp] theorem State.updDrover_tiles (s : State) (f : Drover → Drover) : (s.updDrover f).tiles = s.tiles := rfl
@[simp] theorem State.updDrover_nodes (s : State) (f : Drover → Drover) : (s.updDrover f).nodes = s.nodes := rfl
@[simp] theorem State.updDrover_streams (s : State) (f : Drover → Drover) : (s.updDrover f).streams = s.streams := rfl
@[simp] theorem State.updDrover_ops (s : State) (f : Drover → Drover) : (s.updDrover f).ops = s.ops := rfl
@[simp] theorem State.updDrover_insts (s : State) (f : Drover → Drover) : (s.updDrover f).insts = s.insts := rfl
@[simp] theorem State.updDrover_slices (s : State) (f : Drover → Drover) : (s.updDrover f).slices = s.slices := rfl
@[simp] theorem State.updDrover_bulkheads (s : State) (f : Drover → Drover) : (s.updDrover f).bulkheads = s.bulkheads := rfl
@[simp] theorem State.updDrover_ownerTags (s : State) (f : Drover → Drover) : (s.updDrover f).ownerTags = s.ownerTags := rfl
@[simp] theorem State.updDrover_arrayTags (s : State) (f : Drover → Drover) : (s.updDrover f).arrayTags = s.arrayTags := rfl
@[simp] theorem State.updDrover_vfs (s : State) (f : Drover → Drover) : (s.updDrover f).vfs = s.vfs := rfl
@[simp] theorem State.updDrover_package (s : State) (f : Drover → Drover) : (s.updDrover f).package = s.package := rfl
@[simp] theorem State.updDrover_time (s : State) (f : Drover → Drover) : (s.updDrover f).time = s.time := rfl
@[simp] theorem State.updDrover_cycle (s : State) (f : Drover → Drover) : (s.updDrover f).cycle = s.cycle := rfl
@[simp] theorem State.updDrover_curSheet (s : State) (f : Drover → Drover) : (s.updDrover f).curSheet = s.curSheet := rfl
@[simp] theorem State.updDrover_curCtx (s : State) (f : Drover → Drover) : (s.updDrover f).curCtx = s.curCtx := rfl
@[simp] theorem State.updDrover_curNode (s : State) (f : Drover → Drover) : (s.updDrover f).curNode = s.curNode := rfl
@[simp] theorem State.updDrover_agenda (s : State) (f : Drover → Drover) : (s.updDrover f).agenda = s.agenda := rfl
@[simp] theorem State.updDrover_free (s : State) (f : Drover → Drover) : (s.updDrover f).free = s.free := rfl
@[simp] theorem State.updDrover_nextId (s : State) (f : Drover → Drover) : (s.updDrover f).nextId = s.nextId := rfl

@[simp] theorem State.updPackage_mem (s : State) (f : Package → Package) : (s.updPackage f).mem = s.mem := rfl
@[simp] theorem State.updPackage_images (s : State) (f : Package → Package) : (s.updPackage f).images = s.images := rfl
@[simp] theorem State.updPackage_sheets (s : State) (f : Package → Package) : (s.updPackage f).sheets = s.sheets := rfl
@[simp] theorem State.updPackage_tiles (s : State) (f : Package → Package) : (s.updPackage f).tiles = s.tiles := rfl
@[simp] theorem State.updPackage_nodes (s : State) (f : Package → Package) : (s.updPackage f).nodes = s.nodes := rfl
@[simp] theorem State.updPackage_streams (s : State) (f : Package → Package) : (s.updPackage f).streams = s.streams := rfl
@[simp] theorem State.updPackage_ops (s : State) (f : Package → Package) : (s.updPackage f).ops = s.ops := rfl
@[simp] theorem State.updPackage_insts (s : State) (f : Package → Package) : (s.updPackage f).insts = s.insts := rfl
@[simp] theorem State.updPackage_slices (s : State) (f : Package → Package) : (s.updPackage f).slices = s.slices := rfl
@[simp] theorem State.updPackage_bulkheads (s : State) (f : Package → Package) : (s.updPackage f).bulkheads = s.bulkheads := rfl
@[simp] theorem State.updPackage_ownerTags (s : State) (f : Package → Package) : (s.updPackage f).ownerTags = s.ownerTags := rfl
@[simp] theorem State.updPackage_arrayTags (s : State) (f : Package → Package) : (s.updPackage f).arrayTags = s.arrayTags := rfl
@[simp] theorem State.updPackage_vfs (s : State) (f : Package → Package) : (s.updPackage f).vfs = s.vfs := rfl
@[simp] theorem State.updPackage_time (s : State) (f : Package → Package) : (s.updPackage f).time = s.time := rfl
@[simp] theorem State.updPackage_cycle (s : State) (f : Package → Package) : (s.updPackage f).cycle = s.cycle := rfl
@[simp] theorem State.updPackage_curSheet (s : State) (f : Package → Package) : (s.updPackage f).curSheet = s.curSheet := rfl
@[simp] theorem State.updPackage_curCtx (s : State) (f : Package → Package) : (s.updPackage f).curCtx = s.curCtx := rfl
@[simp] theorem State.updPackage_curNode (s : State) (f : Package → Package) : (s.updPackage f).curNode = s.curNode := rfl
@[simp] theorem State.updPackage_agenda (s : State) (f : Package → Package) : (s.updPackage f).agenda = s.agenda := rfl
@[simp] theorem State.updPackage_free (s : State) (f : Package → Package) : (s.updPackage f).free = s.free := rfl
@[simp] theorem State.updPackage_nextId (s : State) (f : Package → Package) : (s.updPackage f).nextId = s.nextId := rfl
@[simp] theorem State.updPackage_drover (s : State) (f : Package → Package) : (s.updPackage f).drover = s.drover := rfl

@[simp] theorem State.postCompletion_mem (s : State) (n : Nat) (v : Completion) : (s.postCompletion n v).mem = s.mem := rfl
@[simp] theorem State.postCompletion_images (s : State) (n : Nat) (v : Completion) : (s.postCompletion n v).images = s.images := rfl
@[simp] theorem State.postCompletion_sheets (s : State) (n : Nat) (v : Completion) : (s.postCompletion n v).sheets = s.sheets := rfl
@[simp] theorem State.postCompletion_tiles (s : State) (n : Nat) (v : Completion) : (s.postCompletion n v).tiles = s.tiles := rfl
@[simp] theorem State.postCompletion_nodes (s : State) (n : Nat) (v : Completion) : (s.postCompletion n v).nodes = s.nodes := rfl
@[simp] theorem State.postCompletion_streams (s : State) (n : Nat) (v : Completion) : (s.postCompletion n v).streams = s.streams := rfl
@[simp] theorem State.postCompletion_ops (s : State) (n : Nat) (v : Completion) : (s.postCompletion n v).ops = s.ops := rfl
@[simp] theorem State.postCompletion_insts (s : State) (n : Nat) (v : Completion) : (s.postCompletion n v).insts = s.insts := rfl
@[simp] theorem State.postCompletion_slices (s : State) (n : Nat) (v : Completion) : (s.postCompletion n v).slices = s.slices := rfl
@[simp] theorem State.postCompletion_bulkheads (s : State) (n : Nat) (v : Completion) : (s.postCompletion n v).bulkheads = s.bulkheads := rfl
@[simp] theorem State.postCompletion_ownerTags (s : State) (n : Nat) (v : Completion) : (s.postCompletion n v).ownerTags = s.ownerTags := rfl
@[simp] theorem State.postCompletion_arrayTags (s : State) (n : Nat) (v : Completion) : (s.postCompletion n v).arrayTags = s.arrayTags := rfl
@[simp] theorem State.postCompletion_drover (s : State) (n : Nat) (v : Completion) : (s.postCompletion n v).drover = s.drover := rfl
@[simp] theorem State.postCompletion_package (s : State) (n : Nat) (v : Completion) : (s.postCompletion n v).package = s.package := rfl
@[simp] theorem State.postCompletion_time (s : State) (n : Nat) (v : Completion) : (s.postCompletion n v).time = s.time := rfl
@[simp] theorem State.postCompletion_cycle (s : State) (n : Nat) (v : Completion) : (s.postCompletion n v).cycle = s.cycle := rfl
@[simp] theorem State.postCompletion_curSheet (s : State) (n : Nat) (v : Completion) : (s.postCompletion n v).curSheet = s.curSheet := rfl
@[simp] theorem State.postCompletion_curCtx (s : State) (n : Nat) (v : Completion) : (s.postCompletion n v).curCtx = s.curCtx := rfl
@[simp] theorem State.postCompletion_curNode (s : State) (n : Nat) (v : Completion) : (s.postCompletion n v).curNode = s.curNode := rfl
@[simp] theorem State.postCompletion_agenda (s : State) (n : Nat) (v : Completion) : (s.postCompletion n v).agenda = s.agenda := rfl
@[simp] theorem State.postCompletion_free (s : State) (n : Nat) (v : Completion) : (s.postCompletion n v).free = s.free := rfl
@[simp] theorem State.postCompletion_nextId (s : State) (n : Nat) (v : Completion) : (s.postCompletion n v).nextId = s.nextId := rfl

@[simp] theorem State.postEvent_mem (s : State) (n : Nat) (v : EventRec) : (s.postEvent n v).mem = s.mem := rfl
@[simp] theorem State.postEvent_images (s : State) (n : Nat) (v : EventRec) : (s.postEvent n v).images = s.images := rfl
@[simp] theorem State.postEvent_sheets (s : State) (n : Nat) (v : EventRec) : (s.postEvent n v).sheets = s.sheets := rfl
@[simp] theorem State.postEvent_tiles (s : State) (n : Nat) (v : EventRec) : (s.postEvent n v).tiles = s.tiles := rfl
@[simp] theorem State.postEvent_nodes (s : State) (n : Nat) (v : EventRec) : (s.postEvent n v).nodes = s.nodes := rfl
@[simp] theorem State.postEvent_streams (s : State) (n : Nat) (v : EventRec) : (s.postEvent n v).streams = s.streams := rfl
@[simp] theorem State.postEvent_ops (s : State) (n : Nat) (v : EventRec) : (s.postEvent n v).ops = s.ops := rfl
@[simp] theorem State.postEvent_insts (s : State) (n : Nat) (v : EventRec) : (s.postEvent n v).insts = s.insts := rfl
@[simp] theorem State.postEvent_slices (s : State) (n : Nat) (v : EventRec) : (s.postEvent n v).slices = s.slices := rfl
@[simp] theorem State.postEvent_bulkheads (s : State) (n : Nat) (v : EventRec) : (s.postEvent n v).bulkheads = s.bulkheads := rfl
@[simp] theorem State.postEvent_ownerTags (s : State) (n : Nat) (v : EventRec) : (s.postEvent n v).ownerTags = s.ownerTags := rfl
@[simp] theorem State.postEvent_arrayTags (s : State) (n : Nat) (v : EventRec) : (s.postEvent n v).arrayTags = s.arrayTags := rfl
@[simp] theorem State.postEvent_drover (s : State) (n : Nat) (v : EventRec) : (s.postEvent n v).drover = s.drover := rfl
@[simp] theorem State.postEvent_package (s : State) (n : Nat) (v : EventRec) : (s.postEvent n v).package = s.package := rfl
@[simp] theorem State.postEvent_time (s : State) (n : Nat) (v : EventRec) : (s.postEvent n v).time = s.time := rfl
@[simp] theorem State.postEvent_cycle (s : State) (n : Nat) (v : EventRec) : (s.postEvent n v).cycle = s.cycle := rfl
@[simp] theorem State.postEvent_curSheet (s : State) (n : Nat) (v : EventRec) : (s.postEvent n v).curSheet = s.curSheet := rfl
@[simp] theorem State.postEvent_curCtx (s : State) (n : Nat) (v : EventRec) : (s.postEvent n v).curCtx = s.curCtx := rfl
@[simp] theorem State.postEvent_curNode (s : State) (n : Nat) (v : EventRec) : (s.postEvent n v).curNode = s.curNode := rfl
@[simp] theorem State.postEvent_agenda (s : State) (n : Nat) (v : EventRec) : (s.postEvent n v).agenda = s.agenda := rfl
@[simp] theorem State.postEvent_free (s : State) (n : Nat) (v : EventRec) : (s.postEvent n v).free = s.free := rfl
@[simp] theorem State.postEvent_nextId (s : State) (n : Nat) (v : EventRec) : (s.postEvent n v).nextId = s.nextId := rfl

@[simp] theorem State.advance_mem (s : State) : (s.advance).mem = s.mem := rfl
@[simp] theorem State.advance_images (s : State) : (s.advance).images = s.images := rfl
@[simp] theorem State.advance_tiles (s : State) : (s.advance).tiles = s.tiles := rfl
@[simp] theorem State.advance_nodes (s : State) : (s.advance).nodes = s.nodes := rfl
@[simp] theorem State.advance_streams (s : State) : (s.advance).streams = s.streams := rfl
@[simp] theorem State.advance_ops (s : State) : (s.advance).ops = s.ops := rfl
@[simp] theorem State.advance_insts (s : State) : (s.advance).insts = s.insts := rfl
@[simp] theorem State.advance_slices (s : State) : (s.advance).slices = s.slices := rfl
@[simp] theorem State.advance_bulkheads (s : State) : (s.advance).bulkheads = s.bulkheads := rfl
@[simp] theorem State.advance_ownerTags (s : State) : (s.advance).ownerTags = s.ownerTags := rfl
@[simp] theorem State.advance_arrayTags (s : State) : (s.advance).arrayTags = s.arrayTags := rfl
@[simp] theorem State.advance_vfs (s : State) : (s.advance).vfs = s.vfs := rfl
@[simp] theorem State.advance_drover (s : State) : (s.advance).drover = s.drover := rfl
@[simp] theorem State.advance_package (s : State) : (s.advance).package = s.package := rfl
@[simp] theorem State.advance_time (s : State) : (s.advance).time = s.time := rfl
@[simp] theorem State.advance_cycle (s : State) : (s.advance).cycle = s.cycle := rfl
@[simp] theorem State.advance_curSheet (s : State) : (s.advance).curSheet = s.curSheet := rfl
@[simp] theorem State.advance_curCtx (s : State) : (s.advance).curCtx = s.curCtx := rfl
@[simp] theorem State.advance_curNode (s : State) : (s.advance).curNode = s.curNode := rfl
@[simp] theorem State.advance_agenda (s : State) : (s.advance).agenda = s.agenda := rfl
@[simp] theorem State.advance_free (s : State) : (s.advance).free = s.free := rfl
@[simp] theorem State.advance_nextId (s : State) : (s.advance).nextId = s.nextId := rfl

@[simp] theorem State.goto_mem (s : State) (a : Word) : (s.goto a).mem = s.mem := rfl
@[simp] theorem State.goto_images (s : State) (a : Word) : (s.goto a).images = s.images := rfl
@[simp] theorem State.goto_tiles (s : State) (a : Word) : (s.goto a).tiles = s.tiles := rfl
@[simp] theorem State.goto_nodes (s : State) (a : Word) : (s.goto a).nodes = s.nodes := rfl
@[simp] theorem State.goto_streams (s : State) (a : Word) : (s.goto a).streams = s.streams := rfl
@[simp] theorem State.goto_ops (s : State) (a : Word) : (s.goto a).ops = s.ops := rfl
@[simp] theorem State.goto_insts (s : State) (a : Word) : (s.goto a).insts = s.insts := rfl
@[simp] theorem State.goto_slices (s : State) (a : Word) : (s.goto a).slices = s.slices := rfl
@[simp] theorem State.goto_bulkheads (s : State) (a : Word) : (s.goto a).bulkheads = s.bulkheads := rfl
@[simp] theorem State.goto_ownerTags (s : State) (a : Word) : (s.goto a).ownerTags = s.ownerTags := rfl
@[simp] theorem State.goto_arrayTags (s : State) (a : Word) : (s.goto a).arrayTags = s.arrayTags := rfl
@[simp] theorem State.goto_vfs (s : State) (a : Word) : (s.goto a).vfs = s.vfs := rfl
@[simp] theorem State.goto_drover (s : State) (a : Word) : (s.goto a).drover = s.drover := rfl
@[simp] theorem State.goto_package (s : State) (a : Word) : (s.goto a).package = s.package := rfl
@[simp] theorem State.goto_time (s : State) (a : Word) : (s.goto a).time = s.time := rfl
@[simp] theorem State.goto_cycle (s : State) (a : Word) : (s.goto a).cycle = s.cycle := rfl
@[simp] theorem State.goto_curSheet (s : State) (a : Word) : (s.goto a).curSheet = s.curSheet := rfl
@[simp] theorem State.goto_curCtx (s : State) (a : Word) : (s.goto a).curCtx = s.curCtx := rfl
@[simp] theorem State.goto_curNode (s : State) (a : Word) : (s.goto a).curNode = s.curNode := rfl
@[simp] theorem State.goto_agenda (s : State) (a : Word) : (s.goto a).agenda = s.agenda := rfl
@[simp] theorem State.goto_free (s : State) (a : Word) : (s.goto a).free = s.free := rfl
@[simp] theorem State.goto_nextId (s : State) (a : Word) : (s.goto a).nextId = s.nextId := rfl

@[simp] theorem State.waitFor_mem (s : State) (w : Wait) : (s.waitFor w).mem = s.mem := rfl
@[simp] theorem State.waitFor_images (s : State) (w : Wait) : (s.waitFor w).images = s.images := rfl
@[simp] theorem State.waitFor_tiles (s : State) (w : Wait) : (s.waitFor w).tiles = s.tiles := rfl
@[simp] theorem State.waitFor_nodes (s : State) (w : Wait) : (s.waitFor w).nodes = s.nodes := rfl
@[simp] theorem State.waitFor_streams (s : State) (w : Wait) : (s.waitFor w).streams = s.streams := rfl
@[simp] theorem State.waitFor_ops (s : State) (w : Wait) : (s.waitFor w).ops = s.ops := rfl
@[simp] theorem State.waitFor_insts (s : State) (w : Wait) : (s.waitFor w).insts = s.insts := rfl
@[simp] theorem State.waitFor_slices (s : State) (w : Wait) : (s.waitFor w).slices = s.slices := rfl
@[simp] theorem State.waitFor_bulkheads (s : State) (w : Wait) : (s.waitFor w).bulkheads = s.bulkheads := rfl
@[simp] theorem State.waitFor_ownerTags (s : State) (w : Wait) : (s.waitFor w).ownerTags = s.ownerTags := rfl
@[simp] theorem State.waitFor_arrayTags (s : State) (w : Wait) : (s.waitFor w).arrayTags = s.arrayTags := rfl
@[simp] theorem State.waitFor_vfs (s : State) (w : Wait) : (s.waitFor w).vfs = s.vfs := rfl
@[simp] theorem State.waitFor_drover (s : State) (w : Wait) : (s.waitFor w).drover = s.drover := rfl
@[simp] theorem State.waitFor_package (s : State) (w : Wait) : (s.waitFor w).package = s.package := rfl
@[simp] theorem State.waitFor_time (s : State) (w : Wait) : (s.waitFor w).time = s.time := rfl
@[simp] theorem State.waitFor_cycle (s : State) (w : Wait) : (s.waitFor w).cycle = s.cycle := rfl
@[simp] theorem State.waitFor_curSheet (s : State) (w : Wait) : (s.waitFor w).curSheet = s.curSheet := rfl
@[simp] theorem State.waitFor_curCtx (s : State) (w : Wait) : (s.waitFor w).curCtx = s.curCtx := rfl
@[simp] theorem State.waitFor_curNode (s : State) (w : Wait) : (s.waitFor w).curNode = s.curNode := rfl
@[simp] theorem State.waitFor_agenda (s : State) (w : Wait) : (s.waitFor w).agenda = s.agenda := rfl
@[simp] theorem State.waitFor_free (s : State) (w : Wait) : (s.waitFor w).free = s.free := rfl
@[simp] theorem State.waitFor_nextId (s : State) (w : Wait) : (s.waitFor w).nextId = s.nextId := rfl

@[simp] theorem State.endWait_mem (s : State) : (s.endWait).mem = s.mem := rfl
@[simp] theorem State.endWait_images (s : State) : (s.endWait).images = s.images := rfl
@[simp] theorem State.endWait_tiles (s : State) : (s.endWait).tiles = s.tiles := rfl
@[simp] theorem State.endWait_nodes (s : State) : (s.endWait).nodes = s.nodes := rfl
@[simp] theorem State.endWait_streams (s : State) : (s.endWait).streams = s.streams := rfl
@[simp] theorem State.endWait_ops (s : State) : (s.endWait).ops = s.ops := rfl
@[simp] theorem State.endWait_insts (s : State) : (s.endWait).insts = s.insts := rfl
@[simp] theorem State.endWait_slices (s : State) : (s.endWait).slices = s.slices := rfl
@[simp] theorem State.endWait_bulkheads (s : State) : (s.endWait).bulkheads = s.bulkheads := rfl
@[simp] theorem State.endWait_ownerTags (s : State) : (s.endWait).ownerTags = s.ownerTags := rfl
@[simp] theorem State.endWait_arrayTags (s : State) : (s.endWait).arrayTags = s.arrayTags := rfl
@[simp] theorem State.endWait_vfs (s : State) : (s.endWait).vfs = s.vfs := rfl
@[simp] theorem State.endWait_drover (s : State) : (s.endWait).drover = s.drover := rfl
@[simp] theorem State.endWait_package (s : State) : (s.endWait).package = s.package := rfl
@[simp] theorem State.endWait_time (s : State) : (s.endWait).time = s.time := rfl
@[simp] theorem State.endWait_cycle (s : State) : (s.endWait).cycle = s.cycle := rfl
@[simp] theorem State.endWait_curSheet (s : State) : (s.endWait).curSheet = s.curSheet := rfl
@[simp] theorem State.endWait_curCtx (s : State) : (s.endWait).curCtx = s.curCtx := rfl
@[simp] theorem State.endWait_curNode (s : State) : (s.endWait).curNode = s.curNode := rfl
@[simp] theorem State.endWait_agenda (s : State) : (s.endWait).agenda = s.agenda := rfl
@[simp] theorem State.endWait_free (s : State) : (s.endWait).free = s.free := rfl
@[simp] theorem State.endWait_nextId (s : State) : (s.endWait).nextId = s.nextId := rfl

@[simp] theorem State.writeNext_mem (s : State) (d : Reg) (v : Word) : (s.writeNext d v).mem = s.mem := rfl
@[simp] theorem State.writeNext_images (s : State) (d : Reg) (v : Word) : (s.writeNext d v).images = s.images := rfl
@[simp] theorem State.writeNext_tiles (s : State) (d : Reg) (v : Word) : (s.writeNext d v).tiles = s.tiles := rfl
@[simp] theorem State.writeNext_nodes (s : State) (d : Reg) (v : Word) : (s.writeNext d v).nodes = s.nodes := rfl
@[simp] theorem State.writeNext_streams (s : State) (d : Reg) (v : Word) : (s.writeNext d v).streams = s.streams := rfl
@[simp] theorem State.writeNext_ops (s : State) (d : Reg) (v : Word) : (s.writeNext d v).ops = s.ops := rfl
@[simp] theorem State.writeNext_insts (s : State) (d : Reg) (v : Word) : (s.writeNext d v).insts = s.insts := rfl
@[simp] theorem State.writeNext_slices (s : State) (d : Reg) (v : Word) : (s.writeNext d v).slices = s.slices := rfl
@[simp] theorem State.writeNext_bulkheads (s : State) (d : Reg) (v : Word) : (s.writeNext d v).bulkheads = s.bulkheads := rfl
@[simp] theorem State.writeNext_ownerTags (s : State) (d : Reg) (v : Word) : (s.writeNext d v).ownerTags = s.ownerTags := rfl
@[simp] theorem State.writeNext_arrayTags (s : State) (d : Reg) (v : Word) : (s.writeNext d v).arrayTags = s.arrayTags := rfl
@[simp] theorem State.writeNext_vfs (s : State) (d : Reg) (v : Word) : (s.writeNext d v).vfs = s.vfs := rfl
@[simp] theorem State.writeNext_drover (s : State) (d : Reg) (v : Word) : (s.writeNext d v).drover = s.drover := rfl
@[simp] theorem State.writeNext_package (s : State) (d : Reg) (v : Word) : (s.writeNext d v).package = s.package := rfl
@[simp] theorem State.writeNext_time (s : State) (d : Reg) (v : Word) : (s.writeNext d v).time = s.time := rfl
@[simp] theorem State.writeNext_cycle (s : State) (d : Reg) (v : Word) : (s.writeNext d v).cycle = s.cycle := rfl
@[simp] theorem State.writeNext_curSheet (s : State) (d : Reg) (v : Word) : (s.writeNext d v).curSheet = s.curSheet := rfl
@[simp] theorem State.writeNext_curCtx (s : State) (d : Reg) (v : Word) : (s.writeNext d v).curCtx = s.curCtx := rfl
@[simp] theorem State.writeNext_curNode (s : State) (d : Reg) (v : Word) : (s.writeNext d v).curNode = s.curNode := rfl
@[simp] theorem State.writeNext_agenda (s : State) (d : Reg) (v : Word) : (s.writeNext d v).agenda = s.agenda := rfl
@[simp] theorem State.writeNext_free (s : State) (d : Reg) (v : Word) : (s.writeNext d v).free = s.free := rfl
@[simp] theorem State.writeNext_nextId (s : State) (d : Reg) (v : Word) : (s.writeNext d v).nextId = s.nextId := rfl

@[simp] theorem State.giveBack_mem (s : State) : (s.giveBack).mem = s.mem := rfl
@[simp] theorem State.giveBack_images (s : State) : (s.giveBack).images = s.images := rfl
@[simp] theorem State.giveBack_tiles (s : State) : (s.giveBack).tiles = s.tiles := rfl
@[simp] theorem State.giveBack_nodes (s : State) : (s.giveBack).nodes = s.nodes := rfl
@[simp] theorem State.giveBack_streams (s : State) : (s.giveBack).streams = s.streams := rfl
@[simp] theorem State.giveBack_ops (s : State) : (s.giveBack).ops = s.ops := rfl
@[simp] theorem State.giveBack_insts (s : State) : (s.giveBack).insts = s.insts := rfl
@[simp] theorem State.giveBack_slices (s : State) : (s.giveBack).slices = s.slices := rfl
@[simp] theorem State.giveBack_bulkheads (s : State) : (s.giveBack).bulkheads = s.bulkheads := rfl
@[simp] theorem State.giveBack_ownerTags (s : State) : (s.giveBack).ownerTags = s.ownerTags := rfl
@[simp] theorem State.giveBack_arrayTags (s : State) : (s.giveBack).arrayTags = s.arrayTags := rfl
@[simp] theorem State.giveBack_vfs (s : State) : (s.giveBack).vfs = s.vfs := rfl
@[simp] theorem State.giveBack_drover (s : State) : (s.giveBack).drover = s.drover := rfl
@[simp] theorem State.giveBack_package (s : State) : (s.giveBack).package = s.package := rfl
@[simp] theorem State.giveBack_time (s : State) : (s.giveBack).time = s.time := rfl
@[simp] theorem State.giveBack_cycle (s : State) : (s.giveBack).cycle = s.cycle := rfl
@[simp] theorem State.giveBack_curSheet (s : State) : (s.giveBack).curSheet = s.curSheet := rfl
@[simp] theorem State.giveBack_curCtx (s : State) : (s.giveBack).curCtx = s.curCtx := rfl
@[simp] theorem State.giveBack_curNode (s : State) : (s.giveBack).curNode = s.curNode := rfl
@[simp] theorem State.giveBack_agenda (s : State) : (s.giveBack).agenda = s.agenda := rfl
@[simp] theorem State.giveBack_free (s : State) : (s.giveBack).free = s.free := rfl
@[simp] theorem State.giveBack_nextId (s : State) : (s.giveBack).nextId = s.nextId := rfl

/-! ### Four of a kind -/

@[simp] theorem Quad.get_set_same {α : Type} (q : Quad α) (k : Nat) (v : α) : (q.set k v).get k = v := by
  match k with
  | 0 | 1 | 2 | _ + 3 => rfl

theorem Quad.get_set_other {α : Type} (q : Quad α) {k j : Nat} (v : α) (hk : k < 4) (hj : j < 4) (h : j ≠ k) :
    (q.set k v).get j = q.get j := by
  have hk' : k = 0 ∨ k = 1 ∨ k = 2 ∨ k = 3 := by omega
  have hj' : j = 0 ∨ j = 1 ∨ j = 2 ∨ j = 3 := by omega
  rcases hk' with rfl | rfl | rfl | rfl <;> rcases hj' with rfl | rfl | rfl | rfl <;> first | rfl | exact absurd rfl h

@[simp] theorem Quad.get_all {α : Type} (v : α) (k : Nat) : (Quad.all v).get k = v := by
  unfold Quad.get Quad.all
  split <;> rfl

/-! ### What is read back -/

@[simp] theorem State.sheet_setSheet (s : State) (n : Nat) (v : Sheet) : (s.setSheet n v).sheet n = v := by
  simp [State.sheet, State.setSheet]

theorem State.sheet_setSheet_other (s : State) {n m : Nat} (v : Sheet) (h : m ≠ n) : (s.setSheet n v).sheet m = s.sheet m := by
  simp [State.sheet, State.setSheet, agetD_aset_other _ _ _ h]

@[simp] theorem State.thread_setThread (s : State) (n c : Nat) (t : Thread) : (s.setThread n c t).thread n c = t := by
  simp [State.thread, State.setThread]

@[simp] theorem State.cur_setCur (s : State) (t : Thread) : (s.setCur t).cur = t := by
  show (s.setThread s.curSheet s.curCtx t).thread s.curSheet s.curCtx = t
  simp

/-- An update of the acting thread leaves every thread of another sheet alone. -/
theorem State.thread_setCur_sheet (s : State) (t : Thread) {n : Nat} (c : Nat) (h : n ≠ s.curSheet) :
    (s.setCur t).thread n c = s.thread n c := by
  simp [State.thread, State.setCur, State.setThread, State.sheet_setSheet_other _ _ h]

/-- An update of the acting thread leaves the other contexts of its sheet alone. -/
theorem State.thread_setCur_ctx (s : State) (t : Thread) {c : Nat} (hs : s.curCtx < 4) (hc : c < 4) (h : c ≠ s.curCtx) :
    (s.setCur t).thread s.curSheet c = s.thread s.curSheet c := by
  simp [State.thread, State.setCur, State.setThread, Quad.get_set_other _ _ hs hc h]

/-- Of a sheet, an update of the acting thread changes the threads only. -/
theorem State.sheet_setCur (s : State) (t : Thread) (n : Nat) :
    (s.setCur t).sheet n = { s.sheet n with threads := ((s.setCur t).sheet n).threads } := by
  by_cases h : n = s.curSheet
  · subst h; simp [State.setCur, State.setThread]
  · simp [State.setCur, State.setThread, State.sheet_setSheet_other _ _ h]

@[simp] theorem State.setCur_setCur (s : State) (t u : Thread) : (s.setCur t).setCur u = s.setCur u := by
  have h : ∀ (l : Assoc Nat Sheet) (k : Nat) (a b : Sheet), aset (aset l k a) k b = aset l k b := by
    intro l k a b
    induction l with
    | nil => simp [aset]
    | cons p r ih =>
      obtain ⟨k', v'⟩ := p
      by_cases hk : k = k' <;> simp [aset, hk, ih]
  have hq : ∀ (q : Quad Thread) (k : Nat), (q.set k t).set k u = q.set k u := by
    intro q k
    match k with
    | 0 | 1 | 2 | _ + 3 => rfl
  simp only [State.setCur, State.setThread, State.setSheet, State.sheet, agetD_aset_same, h, hq]

@[simp] theorem State.node_setNode (s : State) (n : NodeId) (v : Node) : (s.setNode n v).node n = v := by
  simp [State.node, State.setNode]

theorem State.node_setNode_other (s : State) {n m : NodeId} (v : Node) (h : m ≠ n) : (s.setNode n v).node m = s.node m := by
  simp [State.node, State.setNode, agetD_aset_other _ _ _ h]

@[simp] theorem State.nodeCtx_setNodeCtx (s : State) (n : NodeId) (c : Nat) (v : NodeCtx) :
    (s.setNodeCtx n c v).nodeCtx n c = v := by
  simp [State.nodeCtx, State.setNodeCtx]

@[simp] theorem State.vf_setVf (s : State) (n : Nat) (v : Vf) : (s.setVf n v).vf n = v := by simp [State.vf, State.setVf]

theorem State.vf_setVf_other (s : State) {n m : Nat} (v : Vf) (h : m ≠ n) : (s.setVf n v).vf m = s.vf m := by
  simp [State.vf, State.setVf, agetD_aset_other _ _ _ h]

@[simp] theorem State.bulkhead_setBulkhead (s : State) (n : Nat) (v : Bulkhead) : (s.setBulkhead n v).bulkhead n = v := by
  simp [State.bulkhead, State.setBulkhead]

theorem State.bulkhead_setBulkhead_other (s : State) {n m : Nat} (v : Bulkhead) (h : m ≠ n) :
    (s.setBulkhead n v).bulkhead m = s.bulkhead m := by
  simp [State.bulkhead, State.setBulkhead, agetD_aset_other _ _ _ h]

@[simp] theorem State.tile_setTile (s : State) (n k : Nat) (v : Tile) : (s.setTile n k v).tile n k = v := by
  simp [State.tile, State.setTile]

/-! ### Registers (R29) -/

@[simp] theorem Thread.reg_zero (t : Thread) : t.reg 0#5 = 0 := rfl

@[simp] theorem Thread.setReg_zero (t : Thread) (v : Word) : t.setReg 0#5 v = t := rfl

@[simp] theorem Thread.setReg_pc (t : Thread) (d : Reg) (v : Word) : (t.setReg d v).pc = t.pc := by
  unfold Thread.setReg; split <;> rfl

theorem Thread.reg_setReg_same (t : Thread) {d : Reg} (v : Word) (h : d ≠ 0#5) : (t.setReg d v).reg d = v := by
  simp [Thread.reg, Thread.setReg, h]

theorem Thread.reg_setReg_other (t : Thread) {d r : Reg} (v : Word) (h : r ≠ d) : (t.setReg d v).reg r = t.reg r := by
  unfold Thread.setReg
  split
  · rfl
  · unfold Thread.reg
    split
    · rfl
    · have hn : ¬ d.toNat = r.toNat := fun e => h (BitVec.eq_of_toNat_eq e.symm)
      simp [hn]

/-- A register write changes the general registers only. -/
theorem Thread.setReg_frame (t : Thread) (d : Reg) (v : Word) : t.setReg d v = { t with regs := (t.setReg d v).regs } := by
  unfold Thread.setReg; split <;> rfl

end Sys2Proof.Machine
end

