-- ==== Sys2Proof/Laws/CanonicalState.lean ====
section
/-! SUPPORT. The operations of the sequencer and of the nodes keep the canonical form of memory. A lemma `f_mem` says that `f` leaves memory alone, a lemma
`f_wf` that a canonical memory stays canonical. -/

namespace Sys2Proof.Machine

set_option Elab.async false

/-- A fold leaves memory alone if each of its steps does. -/
@[simp] theorem foldl_mem {β : Type} (g : State → β → State) (h : ∀ s x, (g s x).mem = s.mem) (l : List β) (s : State) :
    (l.foldl g s).mem = s.mem := by
  induction l generalizing s with
  | nil => rfl
  | cons x r ih => simp [ih, h]

/-- A fold keeps memory canonical if each of its steps does. -/
@[simp] theorem foldl_wf {β : Type} (g : State → β → State) (h : ∀ s x, s.mem.wf = true → (g s x).mem.wf = true) (l : List β) (s : State)
    (hs : s.mem.wf = true) : (l.foldl g s).mem.wf = true := by
  induction l generalizing s with
  | nil => exact hs
  | cons x r ih => exact ih _ (h _ _ hs)

/-! ### Ops -/

@[simp] theorem State.updInst_mem (s : State) (id : Nat) (f : Inst → Inst) : (State.updInst s id f).mem = s.mem := by
  unfold State.updInst
  (repeat' split) <;> simp_all

@[simp] theorem State.updSlice_mem (s : State) (id : Nat) (f : Slice → Slice) : (State.updSlice s id f).mem = s.mem := by
  unfold State.updSlice
  (repeat' split) <;> simp_all

@[simp] theorem State.refusePf_mem (s : State) (off : Nat) : (State.refusePf s off).mem = s.mem := (rfl)

@[simp] theorem State.askBulkheads_mem (s : State) (tenant : Nat) (old : BitVec 512) (new : BitVec 512) : (State.askBulkheads s tenant old new).mem = s.mem := by
  unfold State.askBulkheads
  refine foldl_mem _ (fun s x => ?_) _ _
  (repeat' split) <;> simp_all

@[simp] theorem State.applyRecord_mem (s : State) (tenant : Nat) (r : BitVec 512) : (State.applyRecord s tenant r).mem = s.mem := by
  unfold State.applyRecord
  (repeat' split) <;> simp_all

@[simp] theorem State.applyWrite_mem (s : State) (p : Nat × BitVec 512 × BitVec 512) : (State.applyWrite s p).mem = s.mem := by
  unfold State.applyWrite
  simp only []
  (repeat' split) <;> simp_all

@[simp] theorem State.boundary_mem (s : State) (tenant : Nat) : (State.boundary s tenant).mem = s.mem := by
  unfold State.boundary
  (repeat' split) <;> simp_all

@[simp] theorem State.payEnergy_mem (s : State) (i : Inst) (now : Bool) : (State.payEnergy s i now).mem = s.mem := by
  simp [State.payEnergy]

@[simp] theorem State.freeChase_mem (s : State) (id : Nat) (i : Inst) : (State.freeChase s id i).mem = s.mem := by
  simp [State.freeChase]

@[simp] theorem State.freeRanges_mem (s : State) (op : Nat) : (State.freeRanges s op).mem = s.mem := (rfl)

@[simp] theorem State.dropOps_mem (s : State) (ids : List Nat) : (State.dropOps s ids).mem = s.mem := by
  simp [State.dropOps]

@[simp] theorem State.removeInst_mem (s : State) (id : Nat) : (State.removeInst s id).mem = s.mem := by
  unfold State.removeInst
  (repeat' split) <;> simp_all

@[simp] theorem State.endSlice_mem (s : State) (slice : Nat) (status : BitVec 4) (reason : BitVec 8) (kind : BitVec 8) (code : BitVec 16) : (State.endSlice s slice status reason kind code).mem = s.mem := by
  unfold State.endSlice
  (repeat' split) <;> simp_all

@[simp] theorem State.endLaunch_mem (s : State) (id : Nat) (kind : BitVec 8) (code : BitVec 16) : (State.endLaunch s id kind code).mem = s.mem := by
  unfold State.endLaunch
  (repeat' split) <;> simp_all

@[simp] theorem State.endGroupOf_mem (s : State) (sheet : Nat) (ctx : Nat) : (State.endGroupOf s sheet ctx).mem = s.mem := by
  unfold State.endGroupOf
  simp only []
  (repeat' split) <;> simp_all

@[simp] theorem State.trapCode_mem (s : State) (kind : BitVec 8) (tval : Word) (code : BitVec 16) : (State.trapCode s kind tval code).mem = s.mem := by
  unfold State.trapCode
  simp only []
  (repeat' split) <;> simp_all

@[simp] theorem State.trap_mem (s : State) (kind : BitVec 8) (tval : Word) : (State.trap s kind tval).mem = s.mem := by
  simp [State.trap]

@[simp] theorem State.report_mem (s : State) (id : Nat) (r : Report) : (State.report s id r).mem = s.mem := by
  unfold State.report
  (repeat' split) <;> simp_all

@[simp] theorem State.send_mem (s : State) (x : Sent) : (State.send s x).mem = s.mem := (rfl)

@[simp] theorem State.beginRollback_mem (s : State) (id : Nat) : (State.beginRollback s id).mem = s.mem := by
  unfold State.beginRollback
  (repeat' split) <;> simp_all

@[simp] theorem State.unstop_mem (s : State) (n : NodeId) (ctx : Nat) (hdr : Nat) : (State.unstop s n ctx hdr).mem = s.mem := (rfl)

@[simp] theorem State.unstopAll_mem (s : State) (ctx : Nat) (l : List (NodeId × Nat)) : (State.unstopAll s ctx l).mem = s.mem := by
  induction l generalizing s ctx <;> (unfold State.unstopAll; (repeat' split) <;> simp_all; done)

@[simp] theorem State.unstopInst_mem (s : State) (i : Inst) : (State.unstopInst s i).mem = s.mem := (rfl)

@[simp] theorem State.closeReport_mem (s : State) : (State.closeReport s).mem = s.mem := by
  unfold State.closeReport
  (repeat' split) <;> simp_all

@[simp] theorem State.exceptionReturn_mem (s : State) : (State.exceptionReturn s).mem = s.mem := by
  simp [State.exceptionReturn]

@[simp] theorem State.progress_mem (s : State) (id : Nat) : (State.progress s id).mem = s.mem := by
  simp [State.progress]

@[simp] theorem State.charge_mem (s : State) (id : Nat) : (State.charge s id).mem = s.mem := by
  unfold State.charge
  (repeat' split) <;> simp_all

@[simp] theorem State.retire_mem (s : State) : (State.retire s).mem = s.mem := by
  unfold State.retire
  simp only []
  (repeat' split) <;> simp_all

@[simp] theorem State.takeWork_mem (s : State) (id : Nat) (sheet : Nat) (ctx : Nat) : (State.takeWork s id sheet ctx).mem = s.mem := by
  simp [State.takeWork]

@[simp] theorem State.takeWorks_mem (s : State) (id : Nat) (sheet : Nat) (ctx : Nat) (n : Nat) : (State.takeWorks s id sheet ctx n).mem = s.mem := by
  induction n generalizing s id sheet ctx <;> (unfold State.takeWorks; (repeat' split) <;> simp_all; done)

@[simp] theorem State.endTurn_mem (s : State) (sheet : Nat) (ctx : Nat) : (State.endTurn s sheet ctx).mem = s.mem := (rfl)

@[simp] theorem State.fresh_mem (s : State) : (State.fresh s).2.mem = s.mem := (rfl)

/-! ### Access -/

@[simp] theorem State.translate_mem (s : State) (tenant : Nat) (va : Nat) : (State.translate s tenant va).1.mem = s.mem := by
  unfold State.translate
  (repeat' split) <;> simp_all

@[simp] theorem State.isolationEvent_mem (s : State) (g : Agent) (loc : Nat) : (State.isolationEvent s g loc).mem = s.mem := by
  simp [State.isolationEvent]

@[simp] theorem State.meet_mem (s : State) (loc : Nat) : (State.meet s loc).mem = s.mem := (rfl)

@[simp] theorem State.meetAns_mem (s : State) (k : AccessKind) (a : Ans) : (State.meetAns s k a).1.mem = s.mem := by
  unfold State.meetAns
  (repeat' split) <;> simp_all

@[simp] theorem State.resolve_mem (s : State) (g : Agent) (a len : Nat) (k : AccessKind) :
    (s.resolve g a len k).1.mem = s.mem := by
  unfold State.resolve
  split
  · rfl
  · rename_i v _
    have h := State.translate_mem s g.tenant v
    split <;> simp_all
  · rw [State.meetAns_mem]
    split <;> simp

@[simp] theorem State.wantCuts_mem (s : State) (bh : Nat) : (State.wantCuts s bh).mem = s.mem := (rfl)

@[simp] theorem State.storeBytes_wf (s : State) (g : Agent) (loc : Nat) (bs : List Byte) (h : s.mem.wf = true) : (State.storeBytes s g loc bs).mem.wf = true := by
  unfold State.storeBytes
  simp only []
  (repeat' split) <;> simp_all

@[simp] theorem State.postStall_mem (s : State) (g : Agent) (who : Staller) (k : AccessKind) (addr : Nat) (tile : Nat) (elem : Nat) (faults : W32) (retries : W32) : (State.postStall s g who k addr tile elem faults retries).2.mem = s.mem := (rfl)

/-! ### Fabric -/

@[simp] theorem State.updActor_mem (s : State) (id : Nat) (a : Nat) (f : Actor → Actor) : (State.updActor s id a f).mem = s.mem := by
  simp [State.updActor]

@[simp] theorem State.inject_mem (s : State) (n : NodeId) (ctx k actor : Nat) (o : NodeId) (x : Item) : (State.inject s n ctx k actor o x).mem = s.mem := (rfl)

@[simp] theorem State.passOut_mem (s : State) (id : Nat) (ctx : Nat) (a : Actor) : (State.passOut s id ctx a).mem = s.mem := by
  simp [State.passOut]

@[simp] theorem State.release_mem (s : State) (id : Nat) (ctx : Nat) (aid : Nat) (a : Actor) (outs : List (Nat × SetItem)) : (State.release s id ctx aid a outs).mem = s.mem := by
  induction outs generalizing s id ctx aid a <;> (unfold State.release; (repeat' split) <;> simp_all; done)

@[simp] theorem State.sendToken_mem (s : State) (id : Nat) (ctx : Nat) (aid : Nat) (seq : Nat) (n : NodeId) (k : Nat) (t : Token) : (State.sendToken s id ctx aid seq n k t).mem = s.mem := by
  unfold State.sendToken
  (repeat' split) <;> simp_all

@[simp] theorem State.releaseAt_mem (s : State) (id : Nat) (i : Inst) (n : NodeId) : (State.releaseAt s id i n).mem = s.mem := by
  unfold State.releaseAt
  refine foldl_mem _ (fun s x => ?_) _ _
  (repeat' split) <;> simp_all

@[simp] theorem State.sent_mem (s : State) (id : Nat) (n : NodeId) (ctx k aid : Nat) (o : NodeId) (l : List (Nat × NodeId × Item)) :
    (State.sent s id n ctx k aid o l).mem = s.mem := (rfl)

@[simp] theorem State.transit_mem (s : State) (n : NodeId) (ctx : Nat) (k : Nat) : (State.transit s n ctx k).mem = s.mem := by
  unfold State.transit
  simp only []
  (repeat' split) <;> simp_all

/-! ### Layout -/

@[simp] theorem State.joinStates_mem (s : State) (ctx : Nat) (a : Actor) : (State.joinStates s ctx a).1.mem = s.mem := by
  unfold State.joinStates
  simp only []
  (repeat' split) <;> simp_all

@[simp] theorem State.removeClones_mem (s : State) (ctx aid : Nat) (ext : BitVec 16) (l : List NodeId) : (State.removeClones s ctx aid ext l).mem = s.mem := by
  induction l generalizing s <;> (unfold State.removeClones; (repeat' split) <;> simp_all; done)

@[simp] theorem State.uncloneSet_mem (s : State) (id : Nat) (aid : Nat) : (State.uncloneSet s id aid).1.mem = s.mem := by
  unfold State.uncloneSet
  (repeat' split) <;> simp_all

@[simp] theorem State.cloneSet_mem (s : State) (id : Nat) (aid : Nat) (n : NodeId) : (State.cloneSet s id aid n).mem = s.mem := by
  unfold State.cloneSet
  (repeat' split) <;> simp_all

@[simp] theorem State.moveStore_mem (s : State) (m n : NodeId) (ctx : Nat) (ext : BitVec 16) : (State.moveStore s m n ctx ext).mem = s.mem := by
  unfold State.moveStore
  dsimp only
  split <;> rfl

@[simp] theorem Memory.moveRings_wf (mem : Memory) (m n : NodeId) (l : List Ring) (h : mem.wf = true) : (mem.moveRings m n l).wf = true := by
  unfold Memory.moveRings
  induction l generalizing mem with
  | nil => exact h
  | cons r l ih => exact ih _ (Memory.wf_write _ _ h)

@[simp] theorem State.moveActor_wf (s : State) (id : Nat) (aid : Nat) (n : NodeId) (kind : BitVec 8) (other : Nat) (h : s.mem.wf = true) :
    (State.moveActor s id aid n kind other).mem.wf = true := by
  unfold State.moveActor
  split
  · exact h
  · split
    · exact h
    · simp only [State.updInst_mem, State.updActor_mem]
      split
      · simpa using h
      · exact Memory.moveRings_wf _ _ _ _ (by simpa using h)

/-! ### Operands -/

@[simp] theorem State.setRunning_mem (s : State) (n : NodeId) (f : Option Firing) : (State.setRunning s n f).mem = s.mem := (rfl)

@[simp] theorem State.finishFiring_mem (s : State) (id : Nat) (ctx : Nat) (aid : Nat) (seq : Nat) : (State.finishFiring s id ctx aid seq).mem = s.mem := by
  unfold State.finishFiring
  simp only []
  (repeat' split) <;> simp_all

@[simp] theorem State.freeNodeRanges_mem (s : State) (n : NodeId) : (State.freeNodeRanges s n).mem = s.mem := by
  unfold State.freeNodeRanges
  simp only []
  (repeat' split) <;> simp_all

@[simp] theorem State.endFiring_mem (s : State) (n : NodeId) (f : Firing) : (State.endFiring s n f).mem = s.mem := by
  unfold State.endFiring
  simp only []
  (repeat' split) <;> simp_all

@[simp] theorem State.stopHeader_mem (s : State) (n : NodeId) (ctx : Nat) (hdr : Nat) : (State.stopHeader s n ctx hdr).mem = s.mem := (rfl)

@[simp] theorem State.opFault_mem (s : State) (n : NodeId) (f : Firing) (kind : BitVec 8) (sub : BitVec 8) (tval : Word) : (State.opFault s n f kind sub tval).mem = s.mem := by
  unfold State.opFault
  simp only []
  (repeat' split) <;> simp_all

@[simp] theorem State.opIllegal_mem (s : State) (n : NodeId) (f : Firing) (sub : BitVec 8) : (State.opIllegal s n f sub).mem = s.mem := by
  simp [State.opIllegal]

@[simp] theorem State.opDone_mem (s : State) (n : NodeId) (uses : List Src) (size : Nat) (e : Bool) : (State.opDone s n uses size e).mem = s.mem := by
  unfold State.opDone
  (repeat' split) <;> simp_all

/-- What an op word comes to keeps memory canonical. -/
def OpRes.Wf : OpRes → Prop
  | .done s | .hold s => s.mem.wf = true
  | _ => True

@[simp] theorem OpRes.wf_done (s : State) : (OpRes.done s).Wf ↔ s.mem.wf = true := Iff.rfl
@[simp] theorem OpRes.wf_hold (s : State) : (OpRes.hold s).Wf ↔ s.mem.wf = true := Iff.rfl
@[simp] theorem OpRes.wf_fmt (t : Word) : (OpRes.fmt t).Wf := trivial
@[simp] theorem OpRes.wf_illegal (t : BitVec 8) : (OpRes.illegal t).Wf := trivial
@[simp] theorem OpRes.wf_fault (k : BitVec 8) (t : Word) : (OpRes.fault k t).Wf := trivial

@[simp] theorem State.latch_mem (s : State) (n : NodeId) (f : Firing) (ts : List Token) : (State.latch s n f ts).mem = s.mem := by
  unfold State.latch
  (repeat' split) <;> simp_all

@[simp] theorem State.opWith_wf (s : State) (uses : List Src) (size : Nat) (e : Bool) (body : NodeId → Firing → List Token → OpRes)
    (h : s.mem.wf = true) (hb : ∀ n f ts, (body n f ts).Wf) : (s.opWith uses size e body).mem.wf = true := by
  unfold State.opWith
  simp only []
  split
  · exact h
  · split
    · simp [h]
    · rename_i f _ _ ts _
      have hb' := hb s.curNode f ts
      revert hb'
      generalize body s.curNode f ts = r
      intro hb'
      cases r <;> simp_all

@[simp] theorem State.emitFree_mem (s : State) (n : NodeId) (f : Firing) (k : Nat) (t : Token) : (State.emitFree s n f k t).mem = s.mem := by
  simp [State.emitFree]

theorem State.emit_wf {s : State} {n : NodeId} {k : Nat} {t : Token} {u : State} (h : s.mem.wf = true) (he : s.emit n k t = some u) :
    u.mem.wf = true := by
  unfold State.emit at he
  split at he
  · cases he; exact h
  · split at he
    · cases he
    · cases he; simp [h]

@[simp] theorem State.ofEmit_wf (s : State) (n : NodeId) (k : Nat) (t : Token) (h : s.mem.wf = true) : (OpRes.ofEmit (s.emit n k t)).Wf := by
  cases he : s.emit n k t with
  | none => trivial
  | some u => exact State.emit_wf h he

@[simp] theorem State.emit_getD_wf (s : State) (n : NodeId) (k : Nat) (t : Token) (h : s.mem.wf = true) : ((s.emit n k t).getD s).mem.wf = true := by
  cases he : s.emit n k t with
  | none => exact h
  | some u => exact State.emit_wf h he

@[simp] theorem State.setKeep_mem (s : State) (n : NodeId) (ctx : Nat) (k : Nat) (v : Val) : (State.setKeep s n ctx k v).mem = s.mem := (rfl)

@[simp] theorem State.writeDst_wf (s : State) (n : NodeId) (f : Firing) (d : Dst) (q : BitVec 4) (v : Val) (h : s.mem.wf = true) :
    (s.writeDst n f d q v).Wf := by
  unfold State.writeDst
  split <;> simp [h]

@[simp] theorem State.writeOut_wf (s : State) (n : NodeId) (d : Dst) (t : Token) (h : s.mem.wf = true) : (s.writeOut n d t).Wf := by
  unfold State.writeOut
  split <;> simp [h]

@[simp] theorem aluRes_wf (ts : List Token) (v : Option W32) (s : State) (n : NodeId) (f : Firing) (d : Dst) (q : BitVec 4)
    (tag : BitVec 3) (h : s.mem.wf = true) : (aluRes ts v s n f d q tag).Wf := by
  unfold aluRes
  split
  · trivial
  · split <;> simp [h]

@[simp] theorem State.alu_wf (s : State) (uses : List Src) (d : Dst) (q : BitVec 4) (e : Bool) (f : BitVec 3 → W32 → W32 → W32 → Option W32)
    (h : s.mem.wf = true) : (s.alu uses d q e f).mem.wf = true := by
  unfold State.alu
  exact State.opWith_wf _ _ _ _ _ h fun _ _ _ => aluRes_wf _ _ _ _ _ _ _ _ h

/-! ### Windows -/

@[simp] theorem State.sendLo_mem (s : State) (i : Inst) (colour : BitVec 8) (lo : BitVec 8) : (State.sendLo s i colour lo).mem = s.mem := by
  unfold State.sendLo
  refine foldl_mem _ (fun s x => ?_) _ _
  (repeat' split) <;> simp_all

@[simp] theorem State.setWindow_mem (s : State) (sheet : Nat) (ctx : Nat) (colour : BitVec 8) (w : Window) : (State.setWindow s sheet ctx colour w).mem = s.mem := by
  unfold State.setWindow
  simp only []
  (repeat' split) <;> simp_all

@[simp] theorem State.updWindow_mem (s : State) (k : NodeId) (sheet : Nat) (ctx : Nat) (colour : BitVec 8) (g : Window → Window) : (State.updWindow s k sheet ctx colour g).mem = s.mem := by
  unfold State.updWindow
  simp only []
  (repeat' split) <;> simp_all

@[simp] theorem State.resetWindows_mem (s : State) (i : Inst) (k : NodeId) (colour : BitVec 8) : (State.resetWindows s i k colour).mem = s.mem := by
  simp [State.resetWindows]

/-! ### Cut -/

@[simp] theorem State.uncloneSets_mem (s : State) (id : Nat) (l : List Nat) : (State.uncloneSets s id l).mem = s.mem := by
  induction l generalizing s id <;> (unfold State.uncloneSets; (repeat' split) <;> simp_all; done)

@[simp] theorem State.injectCut_mem (s : State) (id : Nat) : (State.injectCut s id).mem = s.mem := by
  unfold State.injectCut
  simp only []
  (repeat' split) <;> simp_all

@[simp] theorem State.requestCut_mem (s : State) (id : Nat) : (State.requestCut s id).mem = s.mem := by
  unfold State.requestCut
  (repeat' split) <;> simp_all

@[simp] theorem Memory.wf_put (m : Memory) (l : Assoc Nat Byte) (h : m.wf = true) : (m.put l).wf = true := by
  induction l generalizing m with
  | nil => exact h
  | cons p r ih => exact ih _ (Memory.wf_set p.1 p.2 h)

@[simp] theorem State.commitHeld_wf (s : State) (id : Nat) (h : s.mem.wf = true) : (s.commitHeld id).mem.wf = true := by
  unfold State.commitHeld
  (repeat' split) <;> simp [h]

@[simp] theorem State.commitCut_wf (s : State) (id : Nat) (h : s.mem.wf = true) : (State.commitCut s id).mem.wf = true := by
  unfold State.commitCut
  (repeat' split) <;> simp_all

/-! ### Thread -/

@[simp] theorem State.endLost_mem (s : State) : (State.endLost s).mem = s.mem := by
  unfold State.endLost
  (repeat' split) <;> simp_all

@[simp] theorem State.holdAccess_mem (s : State) (i : Instr) (h : Hold) : (State.holdAccess s i h).mem = s.mem := (rfl)

@[simp] theorem State.stallThread_mem (s : State) (i : Instr) (addr : Word) (k : AccessKind) : (State.stallThread s i addr k).mem = s.mem := (rfl)

theorem State.access_wf {s : State} {i : Instr} {a : Word} {len : Nat} {k : AccessKind} {go : State → Nat → BitVec 2 → State}
    (h : s.mem.wf = true) (hg : ∀ t l o, t.mem.wf = true → (go t l o).mem.wf = true) : (s.access i a len k go).mem.wf = true := by
  unfold State.access
  split
  · simp [h]
  · split
    · simp [h]
    · simp only []
      split
      · exact hg _ _ _ (by simp [h])
      all_goals simp [h]

theorem State.readRecord_wf {i : Instr} {n : Nat} {s : State} {a : Word} {got : List Byte} {go : State → List Byte → State}
    (h : s.mem.wf = true) (hg : ∀ t l, t.mem.wf = true → (go t l).mem.wf = true) : (s.readRecord i a n got go).mem.wf = true := by
  induction n generalizing s a got with
  | zero => exact hg _ _ h
  | succ n ih =>
    unfold State.readRecord
    exact State.access_wf h fun t l _ ht => ih ht

@[simp] theorem State.writeThrough_wf (s : State) (inst : Nat) (loc : Nat) (bs : List Byte) (h : s.mem.wf = true) : (State.writeThrough s inst loc bs).mem.wf = true := by
  simp [State.writeThrough, h]

theorem State.publishing_wf {s : State} {i : Instr} {bs : List Byte} {c : Bool} {eff : State → State}
    (h : s.mem.wf = true) (hg : ∀ t : State, t.mem.wf = true → (eff t).mem.wf = true) : (s.publishing i bs c eff).mem.wf = true := by
  unfold State.publishing
  split
  · exact hg _ h
  · split
    · exact hg _ h
    · simp [h]

@[simp] theorem State.threadWrite_wf (s : State) (through : Bool) (loc : Nat) (bs : List Byte) (h : s.mem.wf = true) : (State.threadWrite s through loc bs).mem.wf = true := by
  unfold State.threadWrite
  (repeat' split) <;> simp_all

theorem State.pushRas_wf {s : State} {i : Instr} {a : Word} {go : State → State}
    (h : s.mem.wf = true) (hg : ∀ t : State, t.mem.wf = true → (go t).mem.wf = true) : (s.pushRas i a go).mem.wf = true := by
  unfold State.pushRas
  simp only []
  split
  · exact hg _ (by simp [h])
  · split
    · simp [h]
    · exact State.access_wf h fun t l _ ht => hg _ (by simp [ht])

theorem State.popRas_wf {s : State} {i : Instr} {go : State → Word → State}
    (h : s.mem.wf = true) (hg : ∀ (t : State) a, t.mem.wf = true → (go t a).mem.wf = true) : (s.popRas i go).mem.wf = true := by
  unfold State.popRas
  simp only []
  split
  · exact hg _ _ (by simp [h])
  · split
    · simp [h]
    · exact State.access_wf h fun t l _ ht => hg _ _ (by simp [ht])

end Sys2Proof.Machine
end

