-- ==== Sys2Proof/Laws/CanonicalSequencer.lean ====
section
/-! SUPPORT. The shared parts of the sequencer families, of the loop and of the AG op words keep the canonical form of memory. A lemma `f_mem` says that `f` leaves memory alone, a lemma
`f_wf` that a canonical memory stays canonical. -/

namespace Sys2Proof.Machine

set_option Elab.async false

/-! ### ElemLoop -/

@[simp] theorem State.emitNow_wf (s : State) (n : NodeId) (d : Dst) (t : Token) (h : s.mem.wf = true) : (State.emitNow s n d t).mem.wf = true := by
  simp [State.emitNow, h]

@[simp] theorem State.updRunning_mem (s : State) (n : NodeId) (g : Firing → Firing) : (State.updRunning s n g).mem = s.mem := by
  unfold State.updRunning
  (repeat' split) <;> simp_all

@[simp] theorem State.writeColoured_wf (s : State) (n : NodeId) (f : Firing) (d : Dst) (q : BitVec 4) (v : Val) (c i : BitVec 8)
    (h : s.mem.wf = true) : (s.writeColoured n f d q v c i).Wf := by
  unfold State.writeColoured
  split <;> simp [h]

@[simp] theorem State.askWidth_mem (s : State) (n : NodeId) (f : Firing) (d : Dst) (slot : BitVec 4) (target : BitVec 8) (w : Option Nat) : (State.askWidth s n f d slot target w).mem = s.mem := by
  unfold State.askWidth
  simp only []
  (repeat' split) <;> simp_all

@[simp] theorem State.placeReplicas_wf (s : State) (id : Nat) (colour : Nat) (k : Nat) (ps : List NodeId) (h : s.mem.wf = true) : (State.placeReplicas s id colour k ps).mem.wf = true := by
  unfold State.placeReplicas
  (repeat' split) <;> simp_all

@[simp] theorem State.dropReplicas_mem (s : State) (id : Nat) (colour : Nat) (k : Nat) : (State.dropReplicas s id colour k).mem = s.mem := by
  unfold State.dropReplicas
  (repeat' split) <;> simp_all

@[simp] theorem State.applyWidth_wf (s : State) (id : Nat) (i : Inst) (inCut : Bool) (c : WidthChange) (h : s.mem.wf = true) : (State.applyWidth s id i inCut c).1.mem.wf = true := by
  unfold State.applyWidth
  simp only []
  (repeat' split) <;> simp_all

/-! ### Ag -/

@[simp] theorem State.loseInst_mem (s : State) (id : Nat) : (State.loseInst s id).mem = s.mem := by
  simp [State.loseInst]

@[simp] theorem State.stallAg_mem (s : State) (n : NodeId) (f : Firing) (k : AccessKind) (addr : Nat) : (State.stallAg s n f k addr).mem = s.mem := (rfl)

theorem State.agResolve_wf {s : State} {n : NodeId} {f : Firing} {a len : Nat} {k : AccessKind} {w : Word} {go : State → Nat → OpRes}
    (h : s.mem.wf = true) (hg : ∀ t l, t.mem.wf = true → (go t l).Wf) : (s.agResolve n f a len k w go).Wf := by
  unfold State.agResolve
  split
  · trivial
  · simp only []
    split
    · exact hg _ _ (by simp [h])
    all_goals simp [h]

theorem State.tsAccess_wf {s : State} {n : NodeId} {f : Firing} {a : W32} {k : AccessKind} {go : State → Nat → OpRes}
    (h : s.mem.wf = true) (hg : ∀ t l, t.mem.wf = true → (go t l).Wf) : (s.tsAccess n f a k go).Wf := by
  unfold State.tsAccess
  simp only []
  split
  · trivial
  · split
    · trivial
    · exact State.agResolve_wf h hg

theorem State.vaAccess_wf {s : State} {n : NodeId} {f : Firing} {a b : W32} {k : AccessKind} {go : State → Nat → OpRes}
    (h : s.mem.wf = true) (hg : ∀ t l, t.mem.wf = true → (go t l).Wf) : (s.vaAccess n f a b k go).Wf := by
  unfold State.vaAccess
  simp only []
  split
  · trivial
  · split
    · trivial
    · exact State.agResolve_wf h hg

@[simp] theorem State.agStore_wf (s : State) (n : NodeId) (f : Firing) (loc : Nat) (v : W32) (h : s.mem.wf = true) : (State.agStore s n f loc v).mem.wf = true := by
  simp [State.agStore, h]

@[simp] theorem State.beginMove_mem (s : State) (n : NodeId) (f : Firing) (bs : List Byte) : (State.beginMove s n f bs).mem = s.mem := by
  unfold State.beginMove
  simp only []
  (repeat' split) <;> simp_all

@[simp] theorem State.moveStep_wf (s : State) (n : NodeId) (f : Firing) (d : Dst) (q : BitVec 4) (h : s.mem.wf = true) :
    (s.moveStep n f d q).Wf := by
  unfold State.moveStep
  simp only []
  split
  · simp [h]
  · split
    · trivial
    · exact State.agResolve_wf h fun t l ht => State.agResolve_wf ht fun u l hu => by simp [hu]

/-! ### SeqEngine -/

@[simp] theorem State.sendMessage_mem (s : State) (flits : List Word) : (State.sendMessage s flits).mem = s.mem := (rfl)

@[simp] theorem State.forkMessage_mem (s : State) (f : Nat) (flits : List Word) : (State.forkMessage s f flits).mem = s.mem := by
  unfold State.forkMessage
  (repeat' split) <;> simp_all

@[simp] theorem doAmsg_wf (a : Reg) (f : BitVec 11) (s : State) (h : s.mem.wf = true) : (doAmsg a f s).mem.wf = true := by
  unfold doAmsg
  simp only []
  split
  · simp [h]
  · refine State.readRecord_wf h fun t l ht => ?_
    split
    · simp [ht]
    · split
      · simp [ht]
      · exact State.access_wf ht fun u l _ hu => by simp [hu]

@[simp] theorem doAwait_wf (d a : Reg) (s : State) (h : s.mem.wf = true) : (doAwait d a s).mem.wf = true := by
  unfold doAwait
  split
  · simp [h]
  · refine State.access_wf h fun t l _ ht => ?_
    simp only []
    split <;> simp [ht]

@[simp] theorem doApoll_wf (d a : Reg) (s : State) (h : s.mem.wf = true) : (doApoll d a s).mem.wf = true := by
  unfold doApoll
  split
  · simp [h]
  · exact State.access_wf h fun t l _ ht => by simp [ht]

/-! ### Loader -/

@[simp] theorem State.configureNode_mem (s : State) (v : ImageVariant) (ctx : Nat) (sheet : Nat) (n : NodeId) : (State.configureNode s v ctx sheet n).mem = s.mem := (rfl)

@[simp] theorem Memory.wf_writeAll (m : Memory) (l : List (Nat × List Byte)) (h : m.wf = true) : (writeAll m l).wf = true := by
  induction l generalizing m with
  | nil => exact h
  | cons p r ih => exact ih _ (Memory.wf_write p.1 p.2 h)
@[simp] theorem Memory.wf_scatter (m : Memory) (l : List (Nat × Byte)) (h : m.wf = true) : (m.scatter l).wf = true := by
  induction l generalizing m with
  | nil => exact h
  | cons p r ih => exact ih _ (Memory.wf_set p.1 p.2 h)

@[simp] theorem State.configureTile_wf (s : State) (i : Inst) (k t : Nat) (h : s.mem.wf = true) : (s.configureTile i k t).mem.wf = true := by
  unfold State.configureTile
  simp [h]

/-! ### SeqStream -/

@[simp] theorem doDset_wf (n : BitVec 5) (a : Reg) (s : State) (h : s.mem.wf = true) : (doDset n a s).mem.wf = true := by
  unfold doDset
  simp only []
  split
  · simp [h]
  · refine State.readRecord_wf h fun t l ht => ?_
    (repeat' split) <;> simp [ht]

@[simp] theorem doStream_mem (inbound : Bool) (k : BitVec 5) (n : BitVec 5) (x : BitVec 5) (s : State) : (doStream inbound k n x s).mem = s.mem := by
  unfold doStream
  (repeat' split) <;> simp_all

@[simp] theorem State.cancelStreams_mem (s : State) (l : List Nat) : (State.cancelStreams s l).mem = s.mem := (rfl)

@[simp] theorem State.resolveHeld_mem (s : State) (bank : Nat) : (State.resolveHeld s bank).mem = s.mem := (rfl)

/-! ### Queues -/

@[simp] theorem State.setQueue_mem (s : State) (sheet : Nat) (q : Nat) (v : Queue) : (State.setQueue s sheet q v).mem = s.mem := (rfl)

@[simp] theorem State.progressAt_mem (s : State) (sheet : Nat) : (State.progressAt s sheet).mem = s.mem := (rfl)

theorem State.accept_wf {s : State} {n q : Nat} {e : QEntry} {u : State} (h : s.mem.wf = true) (he : s.accept n q e = .done u) :
    u.mem.wf = true := by
  unfold State.accept at he
  simp only [] at he
  (repeat' split at he) <;> first
    | (cases he; simp [h])
    | (cases he)

@[simp] theorem State.ringLost_mem (s : State) (n i : Nat) (g : Galley) (j : Nat) (k : AccessKind) : (s.ringLost n i g j k).mem = s.mem := by
  unfold State.ringLost
  simp only [State.endLaunch_mem]
  (repeat' split) <;> simp

@[simp] theorem State.pushLost_mem (s : State) (n q i : Nat) : (s.pushLost n q i).mem = s.mem := by
  unfold State.pushLost
  split <;> simp

@[simp] theorem State.refill_mem (s : State) (sheet : Nat) (q : Nat) : (State.refill s sheet q).mem = s.mem := by
  unfold State.refill
  simp only []
  (repeat' split) <;> simp

@[simp] theorem State.retireWait_mem (s : State) (sheet : Nat) (ctx : Nat) (size : Nat) : (State.retireWait s sheet ctx size).mem = s.mem := by
  unfold State.retireWait
  simp only []
  (repeat' split) <;> simp_all

@[simp] theorem State.acceptWaiting_wf (s : State) (n q : Nat) (h : s.mem.wf = true) : (s.acceptWaiting n q).mem.wf = true := by
  unfold State.acceptWaiting
  simp only []
  split
  · exact h
  · split
    all_goals
      split
      · exact h
      · split
        · exact h
        · exact h
        · simp [h]
        · rename_i u hu
          have hw := State.accept_wf (by simp [h]) hu
          (repeat' split) <;> simp [hw]

@[simp] theorem State.filterSend_wf (s : State) (t e len : Nat) (bs : List Byte) (h : s.mem.wf = true) :
    (s.filterSend t e len bs).1.mem.wf = true := by
  unfold State.filterSend
  simp only []
  repeat' split
  all_goals first
    | exact h
    | (rename_i u hu; exact State.accept_wf (u := u) h hu)
    | simp [h]

/-! ### SeqForme -/

@[simp] theorem State.releaseThreads_mem (s : State) (ctx : Nat) (l : List Nat) : (State.releaseThreads s ctx l).mem = s.mem := by
  induction l generalizing s ctx <;> (unfold State.releaseThreads; (repeat' split) <;> simp_all; done)

@[simp] theorem State.tryRelease_mem (s : State) (i : Inst) (b : BitVec 3) : (State.tryRelease s i b).mem = s.mem := by
  unfold State.tryRelease
  (repeat' split) <;> simp_all

@[simp] theorem State.tryReleaseAny_mem (s : State) (i : Inst) : (State.tryReleaseAny s i).mem = s.mem := by
  unfold State.tryReleaseAny
  (repeat' split) <;> simp_all

@[simp] theorem State.loadImage_mem (s : State) (slice : Nat) (loc : Nat) : (State.loadImage s slice loc).1.mem = s.mem := by
  unfold State.loadImage
  (repeat' split) <;> simp_all

@[simp] theorem doFload_wf (d a : Reg) (s : State) (h : s.mem.wf = true) : (doFload d a s).mem.wf = true := by
  unfold doFload
  split
  · simp [h]
  · exact State.access_wf h fun t l _ ht => by simp [ht]

@[simp] theorem doFrun_wf (a : Reg) (s : State) (h : s.mem.wf = true) : (doFrun a s).mem.wf = true := by
  unfold doFrun
  split
  · simp [h]
  · split
    · simp [h]
    · split
      · simp [h]
      · exact State.readRecord_wf h fun t l ht => by simp [ht]

theorem State.writeRecord_wf {i : Instr} {c : Bool} {ws : List (List Byte)} {s : State} {a : Word} {got : List (Nat × List Byte)} {so : Bool}
    {go : State → State} (h : s.mem.wf = true) (hg : ∀ t : State, t.mem.wf = true → (go t).mem.wf = true) :
    (s.writeRecord i c a ws got so go).mem.wf = true := by
  induction ws generalizing s a got so with
  | nil =>
    unfold State.writeRecord
    have he : ∀ (b : Bool) (t : State), t.mem.wf = true → (go (got.foldl (fun s p => s.threadWrite b p.1 p.2) t)).mem.wf = true :=
      fun b t ht => hg _ (foldl_wf _ (fun s p h => by simp [h]) _ _ ht)
    simp only []
    split
    · exact State.publishing_wf h (he true)
    · exact he false _ h
  | cons w r ih =>
    unfold State.writeRecord
    exact State.access_wf h fun t l _ ht => ih ht

@[simp] theorem doFlay_wf (d a : Reg) (c : Bool) (s : State) (h : s.mem.wf = true) : (doFlay d a c s).mem.wf = true := by
  unfold doFlay
  simp only []
  split
  · simp [h]
  · split
    · simp [h]
    · exact State.writeRecord_wf h fun t ht => by simp [ht]

/-! ### SeqQueue -/

@[simp] theorem State.push_wf (s : State) (n q : Nat) (e : QEntry) (h : s.mem.wf = true) : (s.push n q e).mem.wf = true := by
  unfold State.push
  simp only []
  split
  · simp [h]
  · split
    · rename_i u hu
      simp [State.accept_wf h hu]
    all_goals simp [h]

@[simp] theorem doQpush_wf (k : BitVec 5) (a b : Reg) (s : State) (h : s.mem.wf = true) : (doQpush k a b s).mem.wf = true := by
  unfold doQpush
  split
  · split <;> simp [h]
  · split
    · simp [h]
    · exact State.readRecord_wf h fun t l ht => by simp [ht]

@[simp] theorem doQpop_wf (d : Reg) (k : Nat) (s : State) (h : s.mem.wf = true) : (doQpop d k s).mem.wf = true := by
  unfold doQpop
  simp only []
  (repeat' split) <;> simp_all

@[simp] theorem doQctl_mem (k : BitVec 5) (a : Reg) (b : Reg) (s : State) : (doQctl k a b s).mem = s.mem := by
  unfold doQctl
  simp only []
  (repeat' split) <;> simp_all

@[simp] theorem sendXq_wf (d : Reg) (a : Reg) (bs : List Byte) (s : State) (h : s.mem.wf = true) : (sendXq d a bs s).mem.wf = true := by
  simp [sendXq, h]

@[simp] theorem doXq_wf (d a b : Reg) (s : State) (h : s.mem.wf = true) : (doXq d a b s).mem.wf = true := by
  unfold doXq
  simp only []
  split
  · simp [h]
  · exact State.readRecord_wf h fun t l ht => State.publishing_wf ht fun u hu => by simp [hu]

/-! ### SeqSync -/

@[simp] theorem State.signal_mem (s : State) (sheet : Nat) (ctx : Nat) (mask : BitVec 16) : (State.signal s sheet ctx mask).mem = s.mem := (rfl)

@[simp] theorem doEvwait_mem (d : Reg) (mask : BitVec 16) (s : State) : (doEvwait d mask s).mem = s.mem := by
  unfold doEvwait
  simp only []
  (repeat' split) <;> simp_all

end Sys2Proof.Machine
end

