-- ==== Sys2Proof/Laws/CanonicalEngine.lean ====
section
/-! SUPPORT. The engines, the links, the drover and the bulkheads keep the canonical form of memory. A lemma `f_mem` says that `f` leaves memory alone, a lemma
`f_wf` that a canonical memory stays canonical. -/

namespace Sys2Proof.Machine

set_option Elab.async false

/-! ### Engine -/

@[simp] theorem State.setOp_mem (s : State) (k : Nat) (o : EngineOp) : (State.setOp s k o).mem = s.mem := (rfl)

@[simp] theorem State.endLine_mem (s : State) (o : EngineOp) (loc : Nat) (n : Nat) : (State.endLine s o loc n).mem = s.mem := by
  unfold State.endLine
  (repeat' split) <;> simp_all

@[simp] theorem State.stopOp_mem (s : State) (k : Nat) (o : EngineOp) (e : Ans) (addr : Nat) (kind : AccessKind) : (State.stopOp s k o e addr kind).mem = s.mem := by
  unfold State.stopOp
  (repeat' split) <;> simp_all

@[simp] theorem State.opProgress_mem (s : State) (o : EngineOp) : (State.opProgress s o).mem = s.mem := by
  simp [State.opProgress]

theorem Got.andThen_wf {α β : Type} {r : Got α} {k : State → α → Got β} (h : r.1.mem.wf = true)
    (hk : ∀ s a, s.mem.wf = true → (k s a).1.mem.wf = true) : (Got.andThen r k).1.mem.wf = true := by
  unfold Got.andThen
  split
  · exact hk _ _ h
  · exact h

@[simp] theorem State.fetchBytes_wf (o : EngineOp) (as : List Nat) (s : State) (h : s.mem.wf = true) : (s.fetchBytes o as).1.mem.wf = true := by
  induction as generalizing s with
  | nil => exact h
  | cons a r ih =>
    unfold State.fetchBytes
    have hm := State.resolve_mem s o.agent a 1 .read
    split
    · rename_i u loc _ hr
      rw [hr] at hm
      exact Got.andThen_wf (ih _ (by rw [hm]; exact h)) fun t b ht => ht
    · rename_i u e _ hr
      rw [hr] at hm
      show u.mem.wf = true
      rw [hm]; exact h

@[simp] theorem State.fetchRun_wf (s : State) (o : EngineOp) (a n : Nat) (h : s.mem.wf = true) : (s.fetchRun o a n).1.mem.wf = true :=
  State.fetchBytes_wf o _ s h

@[simp] theorem State.putBytes_wf (s : State) (o : EngineOp) (a : Nat) (bs : List Byte) (h : s.mem.wf = true) :
    (s.putBytes o a bs).1.mem.wf = true := by
  unfold State.putBytes
  have hm := State.resolve_mem s o.agent a bs.length .write
  split
  · rename_i u loc _ hr
    rw [hr] at hm
    have hu : u.mem.wf = true := by rw [hm]; exact h
    split
    · exact hu
    · rw [State.endLine_mem]
      split <;> simp [hu]
  · rename_i u e _ hr
    rw [hr] at hm
    show u.mem.wf = true
    rw [hm]; exact h

@[simp] theorem State.fetchIndex_wf (s : State) (o : EngineOp) (b i : Nat) (h : s.mem.wf = true) : (s.fetchIndex o b i).1.mem.wf = true :=
  Got.andThen_wf (by simp [h]) fun t b ht => ht

@[simp] theorem State.stopWhole_mem (s : State) (k : Nat) (o : EngineOp) (old : State × EngineOp) (e : Ans) (a : Nat) (kind : AccessKind)
    (h : s.mem.wf = true) (h0 : old.1.mem.wf = true) : (s.stopWhole k o old e a kind).mem.wf = true := by
  unfold State.stopWhole
  split <;> simp [h, h0]

theorem State.unitsFrom_wf {k total parts fuel : Nat} {s : State} {o : EngineOp} {old : State × EngineOp} {ends : EngineOp → EngineOp → Bool}
    {step : State → EngineOp → Got EngineOp} (h : s.mem.wf = true) (h0 : old.1.mem.wf = true)
    (hp : ∀ s o, s.mem.wf = true → (step s o).1.mem.wf = true) : (s.unitsFrom k o old total parts fuel ends step).mem.wf = true := by
  induction fuel generalizing s o old parts with
  | zero =>
    unfold State.unitsFrom
    dsimp only
    (repeat' split) <;> first
      | exact h
      | exact h0
  | succ f ih =>
    unfold State.unitsFrom
    split
    · simp [h]
    · split
      · simp [h]
      · have hw := hp s o h
        simp only []
        split
        · rename_i u e a kind hr
          rw [hr] at hw
          simp [hw, h0]
        · rename_i u o' hr
          rw [hr] at hw
          split
          · exact ih hw h0
          · split
            · exact ih (by simpa using hw) (by simpa using hw)
            · exact ih (by simpa using hw) h0

theorem State.runUnits_wf {k total parts fuel : Nat} {s : State} {o : EngineOp} {ends : EngineOp → EngineOp → Bool}
    {step : State → EngineOp → Got EngineOp} (h : s.mem.wf = true) (hp : ∀ s o, s.mem.wf = true → (step s o).1.mem.wf = true) :
    (s.runUnits k o total parts fuel ends step).mem.wf = true := State.unitsFrom_wf h h hp

@[simp] theorem State.startOp_mem (s : State) (k : Nat) (cls : Nat) (op : Nat) : (State.startOp s k cls op).1.mem = s.mem := by
  unfold State.startOp
  simp only []
  (repeat' split) <;> simp_all

theorem State.runOp_wf {s : State} {k cls op units : Nat} {run : State → EngineOp → Nat → State} (h : s.mem.wf = true)
    (hr : ∀ s o n, s.mem.wf = true → (run s o n).mem.wf = true) : (s.runOp k cls op units run).mem.wf = true := by
  unfold State.runOp
  have hs := State.startOp_mem s k cls op
  split
  · rename_i u hu; rw [hu] at hs; rw [hs]; exact h
  · rename_i u o hu
    rw [hu] at hs
    have hw : u.mem.wf = true := by rw [hs]; exact h
    split
    · simp [hw]
    · exact hr _ _ _ hw

@[simp] theorem State.readStick_wf (s : State) (k : Nat) (o : EngineOp) (h : s.mem.wf = true) : (s.readStick k o).mem.wf = true := by
  unfold State.readStick
  split
  · simp [h]
  · have hf := State.fetchRun_wf s o (o.flit 3) 64 h
    split
    · rename_i u e a kind hr; rw [hr] at hf; simpa using hf
    · rename_i u bs hr
      rw [hr] at hf
      simp only []
      split <;> simpa using hf

@[simp] theorem State.offsets_wf (o : EngineOp) (st : Stick) (is : List Nat) (k : Nat) (s : State) (h : s.mem.wf = true) :
    (s.offsets o st is k).1.mem.wf = true := by
  induction is generalizing s k with
  | nil => exact h
  | cons i r ih =>
    unfold State.offsets
    refine Got.andThen_wf ?_ fun t x ht => Got.andThen_wf (ih _ _ ht) fun u y hu => hu
    split
    · simp [h]
    · exact h

@[simp] theorem State.walkElement_wf (s : State) (o : EngineOp) (st : Stick) (j : Nat) (h : s.mem.wf = true) : (s.walkElement o st j).1.mem.wf = true := by
  unfold State.walkElement
  simp only []
  split
  · exact h
  · exact Got.andThen_wf (by simp [h]) fun t x ht => Got.andThen_wf (by simp [ht]) fun u y hu => hu

@[simp] theorem State.writeStage_wf (s : State) (o : EngineOp) (a u : Nat) (h : s.mem.wf = true) : (s.writeStage o a u).1.mem.wf = true :=
  Got.andThen_wf (by simp [h]) fun t x ht => ht

@[simp] theorem State.fetchUnit_wf (s : State) (o : EngineOp) (a b n : Nat) (h : s.mem.wf = true) : (s.fetchUnit o a b n).1.mem.wf = true :=
  State.fetchRun_wf _ _ _ _ h

@[simp] theorem State.copyStep_wf (s : State) (o : EngineOp) (n : Nat) (h : s.mem.wf = true) : (s.copyStep o n).1.mem.wf = true := by
  unfold State.copyStep
  split
  · exact Got.andThen_wf (by simp [h]) fun t x ht => ht
  · simp [h]

theorem State.planeStep_wf {s : State} {o : EngineOp} {q d : Nat} {next : State → EngineOp → Got (List Byte)} (h : s.mem.wf = true)
    (hn : ∀ s o, s.mem.wf = true → (next s o).1.mem.wf = true) : (s.planeStep o q d next).1.mem.wf = true := by
  unfold State.planeStep
  simp only []
  split
  · exact Got.andThen_wf (hn _ _ h) fun t x ht => ht
  · exact Got.andThen_wf (by simp [h]) fun t x ht => ht

@[simp] theorem State.indexedStep_wf (s : State) (o : EngineOp) (e : Nat) (f g : Nat → Nat) (h : s.mem.wf = true) :
    (s.indexedStep o e f g).1.mem.wf = true := by
  unfold State.indexedStep
  split
  · exact Got.andThen_wf (by simp [h]) fun t x ht => ht
  · split
    · exact Got.andThen_wf (by simp [h]) fun t x ht => ht
    · simp [h]

@[simp] theorem State.composeStep_wf (s : State) (o : EngineOp) (st : Stick) (h : s.mem.wf = true) : (s.composeStep o st).1.mem.wf = true := by
  unfold State.composeStep
  split
  · exact State.planeStep_wf h fun t p ht => by simp [ht]
  · split
    · exact Got.andThen_wf (by simp [h]) fun t x ht => ht
    · simp [h]

@[simp] theorem State.finalWrite_wf (s : State) (o : EngineOp) (st : BitVec 4) (h : s.mem.wf = true) : (s.finalWrite o st).1.mem.wf = true := by
  unfold State.finalWrite
  simp only []
  refine Got.andThen_wf ?_ fun t x ht => by simp [ht]
  split
  · simp [h]
  · exact h

@[simp] theorem State.joinOp_mem (s : State) (k : Nat) (o : EngineOp) : (State.joinOp s k o).mem = s.mem := by
  unfold State.joinOp
  (repeat' split) <;> simp_all

/-! ### Link -/

@[simp] theorem State.sendPacket_mem (s : State) (op : Option Nat) (port vc : Nat) (o : Option Nat) (x : Sent) :
    (s.sendPacket op port vc o x).mem = s.mem := (rfl)

@[simp] theorem State.reply_mem (s : State) (p : Nat) (st : BitVec 4) (n : Nat) (b : List Byte) : (s.reply p st n b).mem = s.mem := by
  unfold State.reply
  split <;> simp

@[simp] theorem State.sendSpan_mem (s : State) (k : Nat) (o : EngineOp) (rtag : BitVec 7) (op : SpanOp) : (State.sendSpan s k o rtag op).mem = s.mem := (rfl)

theorem State.runLink_wf {s : State} {k op : Nat} {run : State → EngineOp → BitVec 7 → State} (h : s.mem.wf = true)
    (hr : ∀ s o t, s.mem.wf = true → (run s o t).mem.wf = true) : (s.runLink k op run).mem.wf = true := by
  unfold State.runLink
  refine State.runOp_wf h fun u o n hu => ?_
  split
  · simp [hu]
  · exact hr _ _ _ hu

@[simp] theorem State.sendBlocks_wf (k : Nat) (o : EngineOp) (rtag : BitVec 7) (total : Nat) (l : List Nat) (s : State) (h : s.mem.wf = true) :
    (s.sendBlocks k o rtag total l).1.mem.wf = true := by
  induction l generalizing s with
  | nil => exact h
  | cons b r ih =>
    unfold State.sendBlocks
    have hf := State.fetchRun_wf s o (o.flit 1 + b) (min 256 (total - b)) h
    simp only []
    split
    · rename_i u e a kind hr; rw [hr] at hf; exact hf
    · rename_i u bs hr; rw [hr] at hf; exact ih _ (by simpa using hf)

@[simp] theorem State.writeGot_wf (s : State) (o : EngineOp) (last : Bool) (fuel : Nat) (h : s.mem.wf = true) :
    (s.writeGot o last fuel).1.mem.wf = true := by
  induction fuel generalizing s o with
  | zero => exact h
  | succ n ih =>
    unfold State.writeGot
    simp only []
    split
    · exact h
    · have hw := State.putBytes_wf s o (o.flit 1 + o.progress) (o.stage.take (unitRoom (o.flit 1 + o.progress) o.stage.length)) h
      split
      · rename_i u hr; rw [hr] at hw; exact ih _ _ hw
      · rename_i u e a k hr; rw [hr] at hw; exact hw

@[simp] theorem State.remoteAns_mem (s : State) (t va len : Nat) (k : AccessKind) : (s.remoteAns t va len k).1.mem = s.mem := by
  unfold State.remoteAns
  have h := State.translate_mem s t va
  split <;> simp_all

@[simp] theorem State.remoteRun_mem (t : Nat) (n : Nat) (k : AccessKind) (s : State) (va : Nat) (got : List Nat) :
    (s.remoteRun t va n k got).1.mem = s.mem := by
  induction n generalizing s va got with
  | zero => rfl
  | succ n ih =>
    unfold State.remoteRun
    have h := State.remoteAns_mem s t va 1 k
    split
    · rename_i u loc _ hr; rw [hr] at h; rw [ih, h]
    · rename_i u e _ hr; rw [hr] at h; exact h

@[simp] theorem State.remoteAtomic_wf (s : State) (p t va size : Nat) (f : Nat → Nat) (h : s.mem.wf = true) :
    (s.remoteAtomic p t va size f).mem.wf = true := by
  unfold State.remoteAtomic
  have hm := State.remoteAns_mem s t va size .atomic
  split
  · simp [h]
  · split
    · rename_i u loc _ hr; rw [hr] at hm; simp only [] at hm; simp [hm, h]
    · rename_i u hr; rw [hr] at hm; simp only [] at hm; simp [hm, h]
    · rename_i u e _ _ hr; rw [hr] at hm; simp only [] at hm; simp [hm, h]

@[simp] theorem State.remoteParts_mem (t : Nat) (k : AccessKind) (l : List (Nat × Nat)) (s : State) : (s.remoteParts t k l).1.mem = s.mem := by
  induction l generalizing s with
  | nil => rfl
  | cons p r ih => unfold State.remoteParts; simp [ih]

@[simp] theorem State.remoteOp_wf (s : State) (p t : Nat) (op : SpanOp) (h : s.mem.wf = true) : (s.remoteOp p t op).mem.wf = true := by
  unfold State.remoteOp
  split
  · simp only []
    split <;> simp [h]
  · simp only []
    repeat' split
    all_goals simp [h]
  · simp only []
    split <;> simp [h]
  · simp [h]

@[simp] theorem State.dropPacket_mem (s : State) (p : Packet) : (State.dropPacket s p).mem = s.mem := by
  unfold State.dropPacket
  simp only []
  split <;> simp

@[simp] theorem State.noteRetry_mem (s : State) (p : Nat) (f : SpanFlit) : (State.noteRetry s p f).1.mem = s.mem := by
  unfold State.noteRetry
  simp only []
  split <;> rfl

@[simp] theorem State.forward_mem (s : State) (r : SpanRequest) : (State.forward s r).mem = s.mem := by
  unfold State.forward
  (repeat' split) <;> simp_all

@[simp] theorem State.endOps_mem (s : State) (l : List Nat) (st : BitVec 4) : (State.endOps s l st).mem = s.mem := (rfl)

@[simp] theorem State.disablePort_mem (s : State) (port : Nat) : (State.disablePort s port).mem = s.mem := (rfl)

@[simp] theorem State.noteUnitFault_mem (s : State) (u : SharedUnit) : (State.noteUnitFault s u).1.mem = s.mem := (rfl)

@[simp] theorem State.portFault_mem (s : State) (port : Nat) : (State.portFault s port).mem = s.mem := by
  unfold State.portFault
  simp only []
  (repeat' split) <;> simp_all

/-! ### Drover -/

@[simp] theorem State.endLaunches_mem (s : State) (l : List Nat) (kind : BitVec 8) : (State.endLaunches s l kind).mem = s.mem := by
  simp [State.endLaunches]

@[simp] theorem State.endTenant_mem (s : State) (tenant : Nat) (kind : BitVec 8) : (State.endTenant s tenant kind).mem = s.mem := by
  simp [State.endTenant]

@[simp] theorem State.droverRead_mem (s : State) (t va n : Nat) : (s.droverRead t va n).1.mem = s.mem := by
  unfold State.droverRead
  have h := State.remoteRun_mem t n .read s va []
  split <;> simp_all

@[simp] theorem State.droverWrite_wf (s : State) (t va : Nat) (bs : List Byte) (h : s.mem.wf = true) : (s.droverWrite t va bs).1.mem.wf = true := by
  unfold State.droverWrite
  have hm := State.remoteRun_mem t bs.length .write s va []
  split
  · rename_i u l hr; rw [hr] at hm; simp only [] at hm; simp [hm, h]
  · rename_i u l e hr; rw [hr] at hm; simp only [] at hm; simp [hm, h]

@[simp] theorem State.tellTenant_mem (s : State) (tenant : Nat) (e : EventRec) : (State.tellTenant s tenant e).mem = s.mem := by
  unfold State.tellTenant
  refine foldl_mem _ (fun s x => ?_) _ _
  (repeat' split) <;> simp_all

@[simp] theorem State.zeroise_wf (s : State) (bh : Nat) (h : s.mem.wf = true) : (State.zeroise s bh).mem.wf = true := by
  simp [State.zeroise, h]

@[simp] theorem State.zeroFrame_wf (s : State) (frame : Nat) (h : s.mem.wf = true) : (State.zeroFrame s frame).mem.wf = true := by
  simp [State.zeroFrame, h]

@[simp] theorem State.setTdi_mem (s : State) (v : Nat) (t : Tdi) : (State.setTdi s v t).mem = s.mem := (rfl)

@[simp] theorem State.breakTdis_wf (s : State) (t : Nat) (l : List Nat) (h : s.mem.wf = true) : (s.breakTdis t l).mem.wf = true :=
  foldl_wf _ (fun s x h => by simp [h]) _ _ (foldl_wf _ (fun s x h => by simp [h]) _ _ (by simp [h]))

@[simp] theorem State.attestedChange_wf (s : State) (t : Nat) (h : s.mem.wf = true) : (s.attestedChange t).mem.wf = true := by
  unfold State.attestedChange
  split <;> simp [h]

@[simp] theorem State.boundaries_mem (s : State) : (State.boundaries s).mem = s.mem := by
  simp [State.boundaries]

@[simp] theorem State.retune_mem (s : State) : (State.retune s).mem = s.mem := by
  unfold State.retune
  (repeat' split) <;> simp_all

@[simp] theorem State.rebalance_mem (s : State) : (State.rebalance s).mem = s.mem := by
  simp [State.rebalance]

/-! ### Clock -/

@[simp] theorem State.passTime_mem (s : State) (ns : Nat) (cycles : Nat) : (State.passTime s ns cycles).mem = s.mem := (rfl)

@[simp] theorem State.beginInstr_mem (s : State) (sheet : Nat) (ctx : Nat) (i : Instr) : (State.beginInstr s sheet ctx i).mem = s.mem := by
  unfold State.beginInstr
  (repeat' split) <;> simp_all

@[simp] theorem State.afterInstr_mem (s : State) : (State.afterInstr s).mem = s.mem := by
  unfold State.afterInstr
  (repeat' split) <;> simp_all

/-! ### BulkheadOps -/

@[simp] theorem State.beginZeroise_wf (s : State) (bh : Nat) (next : BitVec 7) (st : BhState) (busy : BhBusy) (h : s.mem.wf = true) : (State.beginZeroise s bh next st busy).mem.wf = true := by
  simp [State.beginZeroise, h]

@[simp] theorem State.setOverrun_mem (s : State) (tenant : Nat) (v : Nat) : (State.setOverrun s tenant v).mem = s.mem := (rfl)

@[simp] theorem State.setMask_mem (s : State) (tenant : Nat) (bh : Nat) (v : Bool) : (State.setMask s tenant bh v).mem = s.mem := (rfl)

@[simp] theorem State.writeCancelled_wf (s : State) (o : EngineOp) (h : s.mem.wf = true) : (s.writeCancelled o).mem.wf = true := by
  unfold State.writeCancelled
  have ht := State.translate_mem s o.tenant (msgReply o.header).toNat
  simp only []
  split
  · rename_i u _ p hr
    rw [hr] at ht
    simp only [] at ht
    split <;> simp [ht, h]
  · rename_i u _ hr
    rw [hr] at ht
    simp only [] at ht
    rw [ht]; exact h

@[simp] theorem State.cancelOps_wf (s : State) (bh : Nat) (h : s.mem.wf = true) : (State.cancelOps s bh).mem.wf = true := by
  unfold State.cancelOps
  (repeat' split) <;> simp_all

@[simp] theorem State.retireBh_wf (s : State) (b : Nat) (h : s.mem.wf = true) : (s.retireBh b).mem.wf = true := by
  unfold State.retireBh
  simp only []
  split
  · exact h
  · have hf := foldl_wf (fun (s : State) t => ((s.attestedChange t).setMask t b false).tellTenant t
      { kind := 4, fault := kBhRetired.setWidth 7, tag := 0, a := BitVec.ofNat 32 b, b := 0, c := 0 })
      (fun s x h => by simp [h]) (s.bulkhead b).holders ((s.cancelOps b).endLaunches (s.instsOn b) kBhRetired) (by simp [h])
    simp only [State.updPackage_mem, State.rebalance_mem, State.setBulkhead_mem]
    exact State.beginZeroise_wf _ _ _ _ _ hf

@[simp] theorem State.shareBh_wf (s : State) (bh : Nat) (tenant : Nat) (h : s.mem.wf = true) : (State.shareBh s bh tenant).mem.wf = true := by
  unfold State.shareBh
  (repeat' split) <;> simp_all

@[simp] theorem State.assignBh_wf (s : State) (bh : Nat) (tag : Nat) (h : s.mem.wf = true) : (State.assignBh s bh tag).mem.wf = true := by
  unfold State.assignBh
  simp only []
  (repeat' split) <;> simp_all

@[simp] theorem State.leaveBh_wf (s : State) (bh : Nat) (tag : Nat) (h : s.mem.wf = true) : (State.leaveBh s bh tag).mem.wf = true := by
  unfold State.leaveBh
  simp only []
  (repeat' split) <;> simp_all

@[simp] theorem State.resetBh_wf (s : State) (b : Nat) (r : Bool) (h : s.mem.wf = true) : (s.resetBh b r).mem.wf = true := by
  unfold State.resetBh
  simp only []
  split
  · have hf := foldl_wf State.attestedChange (fun s x h => by simp [h]) (s.bulkhead b).holders s h
    rw [State.endLaunches_mem]
    refine State.cancelOps_wf _ _ ?_
    split
    · exact foldl_wf _ (fun s x h => by simp [h]) _ _ (by simp [hf])
    · simp [hf]
  · exact h

@[simp] theorem State.serveAsk_wf (s : State) (bh : Nat) (a : BhAsk) (h : s.mem.wf = true) : (State.serveAsk s bh a).mem.wf = true := by
  unfold State.serveAsk
  (repeat' split) <;> simp_all

@[simp] theorem State.serveBh_wf (s : State) (bh fuel : Nat) (h : s.mem.wf = true) : (s.serveBh bh fuel).mem.wf = true := by
  induction fuel generalizing s with
  | zero => exact h
  | succ n ih =>
    unfold State.serveBh
    simp only []
    split
    · exact h
    · exact ih _ (by simp [h])

@[simp] theorem State.askBh_wf (s : State) (bh : Nat) (a : BhAsk) (h : s.mem.wf = true) : (State.askBh s bh a).mem.wf = true := by
  unfold State.askBh
  simp only []
  (repeat' split) <;> simp_all

@[simp] theorem State.finishZeroise_mem (s : State) (bh : Nat) : (State.finishZeroise s bh).mem = s.mem := by
  unfold State.finishZeroise
  simp only []
  (repeat' split) <;> simp_all

@[simp] theorem State.parkImage_wf (s : State) (bh : Nat) (h : s.mem.wf = true) : (s.parkImage bh).1.mem.wf = true := by
  unfold State.parkImage
  generalize (List.range 0x8000).map (Config.parkedQueues s.free) = bs
  simp only []
  split
  · exact Memory.wf_write _ _ (Memory.wf_scatter _ _ (Memory.wf_clear _ _ h))
  · exact h

@[simp] theorem State.restorePark_wf (s : State) (bh : Nat) (p : Park) (h : s.mem.wf = true) : (State.restorePark s bh p).mem.wf = true := by
  unfold State.restorePark
  (repeat' split) <;> simp_all

end Sys2Proof.Machine
end

