-- ==== Sys2Proof/Laws/CanonicalFabric.lean ====
section
/-! SUPPORT. Op words, the sequencer memory meanings and the events of the fabric keep the canonical form of memory. A lemma `f_mem` says that `f` leaves memory alone, a lemma
`f_wf` that a canonical memory stays canonical. -/

namespace Sys2Proof.Machine

set_option Elab.async false

/-! ### ElemFlow -/

@[simp] theorem State.turnOmerge_mem (s : State) (n : NodeId) (f : Firing) : (State.turnOmerge s n f).mem = s.mem := (rfl)

/-! ### Cv -/

@[simp] theorem State.drain_mem (s : State) (n : NodeId) (f : Firing) (l : List (Nat × Token)) : (State.drain s n f l).1.mem = s.mem := by
  induction l generalizing s n f <;> (unfold State.drain; (repeat' split) <;> simp_all; done)

/-! ### ElemArith -/

@[simp] theorem State.bitwise_wf (s : State) (a b : Src) (d : Dst) (n : BitVec 4) (e : Bool) (f : W32 → W32 → W32)
    (h : s.mem.wf = true) : (s.bitwise a b d n e f).mem.wf = true := by
  unfold State.bitwise
  exact State.opWith_wf _ _ _ _ _ h fun _ _ _ => by simp [h]

/-! ### Pa -/

@[simp] theorem State.loadStore_mem (s : State) (n : NodeId) (ctx : Nat) (st : Nat) (img : Nat) (code : Nat) : (State.loadStore s n ctx st img code).mem = s.mem := (rfl)

@[simp] theorem State.mmTake_mem (s : State) (n : NodeId) (f : Firing) (c : MmCtl) (ws : WeightStore) (t : Token) : (State.mmTake s n f c ws t).mem = s.mem := by
  unfold State.mmTake
  simp only []
  (repeat' split) <;> simp_all

/-! ### Fe -/

@[simp] theorem State.setFront_mem (s : State) (n : NodeId) (ctx : Nat) (v : Front) : (State.setFront s n ctx v).mem = s.mem := (rfl)

@[simp] theorem State.stirExtension_wf (s : State) (n : NodeId) (c : FrontConfig) (h : s.mem.wf = true) : (State.stirExtension s n c).mem.wf = true := by
  unfold State.stirExtension
  (repeat' split) <;> simp_all

/-! ### Ready -/

@[simp] theorem State.askFor_mem (s : State) (n : NodeId) (l : List Cand) : (State.askFor s n l).mem = s.mem := by
  induction l generalizing s n <;> (unfold State.askFor; (repeat' split) <;> simp_all; done)

@[simp] theorem State.askColours_mem (s : State) (n : NodeId) : (State.askColours s n).mem = s.mem := by
  simp [State.askColours]

/-! ### SeqSystem -/

@[simp] theorem doWfi_mem (s : State) : (doWfi s).mem = s.mem := by
  unfold doWfi
  simp only []
  (repeat' split) <;> simp_all

/-! ### SeqMem -/

@[simp] theorem State.pairNext_mem (s : State) (d : Reg) (v : Word) : (State.pairNext s d v).mem = s.mem := (rfl)

@[simp] theorem State.pairNext_mem' (s : State) (d : Reg) (v : Word) : (s.pairNext d v).mem = s.mem := rfl
@[simp] theorem doLd_wf (d a : Reg) (o : BitVec 16) (wd : Width) (ord : MemOrd) (sc : Scope) (s : State) (h : s.mem.wf = true) :
    (doLd d a o wd ord sc s).mem.wf = true := State.access_wf h fun t l _ ht => by simp [ht]

@[simp] theorem doSt_wf (d a : Reg) (o : BitVec 16) (wd : Width) (ord : MemOrd) (sc : Scope) (c : Bool) (s : State) (h : s.mem.wf = true) :
    (doSt d a o wd ord sc c s).mem.wf = true := by
  refine State.access_wf h fun t l _ ht => ?_
  simp only []
  split
  · exact State.publishing_wf ht fun u hu => by simp [hu]
  · simp [ht]

@[simp] theorem doAmo_wf (d a b : Reg) (o : BitVec 16) (wd : Width) (ord : MemOrd) (sc : Scope) (fn : AmoFn) (c : Bool) (s : State)
    (h : s.mem.wf = true) : (doAmo d a b o wd ord sc fn c s).mem.wf = true := by
  refine State.access_wf h fun t l _ ht => ?_
  simp only []
  split
  · exact State.publishing_wf ht fun u hu => by simp [hu]
  · simp [ht]

@[simp] theorem doCas_wf (d a b : Reg) (o : BitVec 16) (wd : Width) (ord : MemOrd) (sc : Scope) (c : Bool) (s : State)
    (h : s.mem.wf = true) : (doCas d a b o wd ord sc c s).mem.wf = true := by
  refine State.access_wf h fun t l _ ht => ?_
  simp only []
  split
  · refine State.publishing_wf ht fun u hu => ?_
    split <;> simp [hu]
  · split <;> simp [ht]

@[simp] theorem doFence_wf (sc : Scope) (c : Bool) (s : State) (h : s.mem.wf = true) : (doFence sc c s).mem.wf = true := by
  unfold doFence
  split
  · exact State.publishing_wf h fun u hu => by simp [hu]
  · simp [h]

/-! ### SeqBranch -/

@[simp] theorem State.branch_mem (s : State) (c : Bool) (o : BitVec 16) : (State.branch s c o).mem = s.mem := by
  unfold State.branch
  (repeat' split) <;> simp_all

@[simp] theorem doCall_wf (o : BitVec 26) (s : State) (h : s.mem.wf = true) : (doCall o s).mem.wf = true :=
  State.pushRas_wf h fun u hu => by simp [hu]

@[simp] theorem doCallr_wf (a : Reg) (s : State) (h : s.mem.wf = true) : (doCallr a s).mem.wf = true := by
  unfold doCallr
  split
  · simp [h]
  · exact State.pushRas_wf h fun u hu => by simp [hu]

@[simp] theorem doRet_wf (s : State) (h : s.mem.wf = true) : (doRet s).mem.wf = true :=
  State.popRas_wf h fun u a hu => by simp [hu]

/-! ### SeqEvents -/

@[simp] theorem redo_wf (i : Instr) (c : Bool) (s : State) (h : s.mem.wf = true) : (redo i c s).mem.wf = true := by
  cases i
  case ld => exact doLd_wf _ _ _ _ _ _ _ h
  case st => exact doSt_wf _ _ _ _ _ _ _ _ h
  case amo => exact doAmo_wf _ _ _ _ _ _ _ _ _ _ h
  case cas => exact doCas_wf _ _ _ _ _ _ _ _ _ h
  case fence => exact doFence_wf _ _ _ h
  case call => exact doCall_wf _ _ h
  case callr => exact doCallr_wf _ _ h
  case ret => exact doRet_wf _ h
  case dset => exact doDset_wf _ _ _ h
  case amsg => exact doAmsg_wf _ _ _ h
  case await => exact doAwait_wf _ _ _ h
  case apoll => exact doApoll_wf _ _ _ h
  case qpush => exact doQpush_wf _ _ _ _ h
  case qctl => exact (doQctl_mem _ _ _ _).symm ▸ h
  case xq => exact doXq_wf _ _ _ _ h
  case fload => exact doFload_wf _ _ _ h
  case frun => exact doFrun_wf _ _ h
  case flay => exact doFlay_wf _ _ _ _ h
  all_goals exact h

@[simp] theorem publish_wf (i : Instr) (read : List Byte) (s : State) (h : s.mem.wf = true) : (publish i read s).mem.wf = true := by
  unfold publish
  (repeat' split) <;> simp_all

@[simp] theorem State.retry_wf (s : State) (w : Wait) (h : s.mem.wf = true) : (State.retry s w).mem.wf = true := by
  unfold State.retry
  (repeat' split) <;> simp_all

@[simp] theorem State.actAs_mem (s : State) (sheet : Nat) (ctx : Nat) : (State.actAs s sheet ctx).mem = s.mem := (rfl)

@[simp] theorem State.afterRetry_mem (s : State) (w : Wait) : (State.afterRetry s w).mem = s.mem := by
  unfold State.afterRetry
  simp only []
  (repeat' split) <;> simp_all

/-! ### FabricEvents -/

@[simp] theorem State.count_mem (s : State) (sheet : Nat) (ctx : Nat) (event : Nat) : (State.count s sheet ctx event).mem = s.mem := (rfl)

@[simp] theorem State.passEdge_mem (s : State) (ctx : Nat) (p : Nat × Nat) : (State.passEdge s ctx p).mem = s.mem := (rfl)

@[simp] theorem State.passEdges_mem (s : State) (id : Nat) (ctx : Nat) (l : List (Nat × Nat)) : (State.passEdges s id ctx l).mem = s.mem := by
  unfold State.passEdges
  (repeat' split) <;> simp_all

@[simp] theorem State.countEdge_mem (s : State) (ctx : Nat) (edge : Nat) (at_ : Nat × Nat) : (State.countEdge s ctx edge at_).mem = s.mem := (rfl)

@[simp] theorem State.popEdge_mem (s : State) (id : Nat) (edge : Nat) : (State.popEdge s id edge).mem = s.mem := by
  simp [State.popEdge]

@[simp] theorem State.duplicate_mem (s : State) (id : Nat) (edge : Nat) (i : Inst) (n : NodeId) (port : Nat) (t : Token) : (State.duplicate s id edge i n port t).mem = s.mem := by
  unfold State.duplicate
  simp only []
  (repeat' split) <;> simp_all

@[simp] theorem State.enqueue_mem (s : State) (n : NodeId) (ctx : Nat) (port : Nat) (edge : Nat) (cycle : Bool) (t : Token) : (State.enqueue s n ctx port edge cycle t).mem = s.mem := (rfl)

@[simp] theorem State.setParam_mem (s : State) (n : NodeId) (ctx hdr port edge : Nat) (cycle : Bool) (t : Token) : (State.setParam s n ctx hdr port edge cycle t).mem = s.mem := (rfl)

@[simp] theorem State.takeToken_mem (s : State) (id : Nat) (edge : Nat) (i : Inst) (e : Edge) : (State.takeToken s id edge i e).mem = s.mem := by
  simp [State.takeToken]

@[simp] theorem State.deliver_mem (s : State) (id : Nat) (edge : Nat) (i : Inst) (e : Edge) (n : NodeId) (port : Nat) (t0 : Token) : (State.deliver s id edge i e n port t0).mem = s.mem := by
  unfold State.deliver
  simp only []
  (repeat' split) <;> simp_all

@[simp] theorem State.deliverWide_mem (s : State) (id : Nat) (edge : Nat) (i : Inst) (e : Edge) (sheet : Nat) (port : Nat) (t : Token) : (State.deliverWide s id edge i e sheet port t).mem = s.mem := by
  simp [State.deliverWide]

@[simp] theorem State.ring_mem (s : State) (id : Nat) (edge : Nat) (i : Inst) (n : NodeId) : (State.ring s id edge i n).mem = s.mem := by
  simp [State.ring]

@[simp] theorem State.ringWide_mem (s : State) (id : Nat) (edge : Nat) : (State.ringWide s id edge).mem = s.mem := by
  simp [State.ringWide]

@[simp] theorem State.arrive_mem (s : State) (id : Nat) (edge : Nat) (i : Inst) (e : Edge) : (State.arrive s id edge i e).mem = s.mem := by
  unfold State.arrive
  simp only []
  (repeat' split) <;> simp_all

@[simp] theorem State.consume_mem (s : State) (n : NodeId) (ctx : Nat) (port : Nat) (t : Token) : (State.consume s n ctx port t).mem = s.mem := by
  unfold State.consume
  simp only []
  (repeat' split) <;> simp_all

@[simp] theorem State.consumeAll_mem (s : State) (n : NodeId) (ctx : Nat) (ops : Quad (List Token)) : (State.consumeAll s n ctx ops).mem = s.mem := by
  simp [State.consumeAll]

@[simp] theorem State.startBlock_mem (s : State) (n : NodeId) (ctx : Nat) (a : Actor) : (State.startBlock s n ctx a).mem = s.mem := by
  unfold State.startBlock
  (repeat' split) <;> simp_all

@[simp] theorem State.beginFiring_mem (s : State) (n : NodeId) (x : Cand) (dropped : Bool) : (State.beginFiring s n x dropped).mem = s.mem := by
  unfold State.beginFiring
  (repeat' split) <;> simp_all

@[simp] theorem State.startFiring_mem (s : State) (n : NodeId) (x : Cand) : (State.startFiring s n x).mem = s.mem := by
  unfold State.startFiring
  simp only []
  (repeat' split) <;> simp_all

@[simp] theorem State.setStream_mem (s : State) (k : Nat) (st : Stream) : (State.setStream s k st).mem = s.mem := (rfl)

@[simp] theorem State.stopStream_mem (s : State) (k : Nat) (st : Stream) (kind : BitVec 8) (addr : Word) : (State.stopStream s k st kind addr).mem = s.mem := by
  simp [State.stopStream]

theorem State.pointAccess_wf {s : State} {k : Nat} {st : Stream} {kind : AccessKind} {go : State → Nat → State} (h : s.mem.wf = true)
    (hg : ∀ t l, t.mem.wf = true → (go t l).mem.wf = true) : (s.pointAccess k st kind go).mem.wf = true := by
  unfold State.pointAccess
  simp only []
  split
  · simp [h]
  · split
    · exact hg _ _ (by simp [h])
    all_goals simp [h]

@[simp] theorem State.injectPoint_mem (s : State) (k : Nat) (st : Stream) (i : Inst) (edges : List Nat) (v : W32) : (State.injectPoint s k st i edges v).mem = s.mem := by
  simp [State.injectPoint]

@[simp] theorem State.pointIn_wf (s : State) (k : Nat) (st : Stream) (i : Inst) (h : s.mem.wf = true) : (s.pointIn k st i).mem.wf = true := by
  unfold State.pointIn
  simp only []
  split
  · split
    · exact h
    · split
      · simp [h]
      · split
        · exact h
        · exact State.pointAccess_wf h fun t l ht => by simp [ht]
  · split
    · exact h
    · split
      · simp [h]
      · split
        · exact h
        · exact State.pointAccess_wf h fun t l ht => by simp [ht]

@[simp] theorem State.readAhead_mem (s : State) (k : Nat) (st : Stream) : (State.readAhead s k st).mem = s.mem := by
  unfold State.readAhead
  simp only []
  (repeat' split) <;> simp_all

@[simp] theorem State.popWide_mem (s : State) (sheet : Nat) (port : Nat) (ctx : Nat) : (State.popWide s sheet port ctx).mem = s.mem := (rfl)

@[simp] theorem State.pointOut_wf (s : State) (k : Nat) (st : Stream) (h : s.mem.wf = true) : (s.pointOut k st).mem.wf = true := by
  unfold State.pointOut
  split
  · split
    · simp [h]
    · exact State.pointAccess_wf h fun t l ht => by simp [ht]
  · exact h

@[simp] theorem State.wakeThread_wf (s : State) (sheet : Nat) (ctx : Nat) (tag : BitVec 16) (addr : Nat) (mapped : Bool) (h : s.mem.wf = true) : (State.wakeThread s sheet ctx tag addr mapped).mem.wf = true := by
  unfold State.wakeThread
  simp only []
  (repeat' split) <;> simp_all

@[simp] theorem State.wakeAg_mem (s : State) (n : NodeId) (tag : BitVec 16) (mapped : Bool) : (State.wakeAg s n tag mapped).mem = s.mem := by
  unfold State.wakeAg
  simp only []
  (repeat' split) <;> simp_all

end Sys2Proof.Machine
end

