-- ==== Sys2Proof/Laws/CanonicalDevice.lean ====
section
/-! SUPPORT. Launches, registers, host accesses, packages, scheduling, metering and recovery keep the canonical form of memory. A lemma `f_mem` says that `f` leaves memory alone, a lemma
`f_wf` that a canonical memory stays canonical. -/

namespace Sys2Proof.Machine

set_option Elab.async false

/-! ### Launch -/

@[simp] theorem State.checkPhase_mem (s : State) (t ptab save i : Nat) : (s.checkPhase t ptab save i).1.mem = s.mem := by
  unfold State.checkPhase
  split
  · rfl
  · have h1 := State.droverRead_mem s t (ptab + 32 * i) 32
    split
    · rename_i u hr; rw [hr] at h1; exact h1
    · rename_i u e hr
      rw [hr] at h1
      split
      · exact h1
      · have h2 := State.droverRead_mem u t (pf e 64 64) 64
        split
        · rename_i v hv; rw [hv] at h2; exact h2.trans h1
        · rename_i v ps hv
          rw [hv] at h2
          have h3 := State.remoteAns_mem v t (pf e 0 48) 8 .read
          have h23 := h2.trans h1
          split
          · rename_i w loc _ hw
            rw [hw] at h3
            have h4 := h3.trans h23
            (repeat' split) <;> exact h4
          · rename_i w _ hw
            rw [hw] at h3
            exact h3.trans h23

@[simp] theorem State.validate_mem (s : State) (vf : Nat) (p : List Byte) : (s.validate vf p).mem = s.mem := by
  unfold State.validate
  simp only []
  split
  · rfl
  · have h := State.checkPhase_mem s (s.vfTenant vf) (pf p 256 48) (pf p 320 48) 0
    split
    · rename_i u r hu; rw [hu] at h; exact h
    · rename_i u a hu; rw [hu] at h; exact h

@[simp] theorem State.tornSlot_mem (s : State) (vf : Nat) : (State.tornSlot s vf).mem = s.mem := (rfl)

@[simp] theorem State.endVf_mem (s : State) (vf : Nat) : (State.endVf s vf).mem = s.mem := by
  simp [State.endVf]

@[simp] theorem State.readSlot_mem (s : State) (vf : Nat) : (s.readSlot vf).1.mem = s.mem := by
  unfold State.readSlot
  simp only []
  generalize hu : (if s.ringMisses vf ((s.vf vf).lrBase.toNat + 64 * (s.vf vf).lrHead.toNat) 64 = true then s.endVf vf else s) = u
  have h0 : u.mem = s.mem := by rw [← hu]; split <;> simp
  have h := State.droverRead_mem u (u.vfTenant vf) ((s.vf vf).lrBase.toNat + 64 * (s.vf vf).lrHead.toNat) 64
  rw [h0] at h
  generalize u.droverRead (u.vfTenant vf) ((s.vf vf).lrBase.toNat + 64 * (s.vf vf).lrHead.toNat) 64 = r at h
  obtain ⟨w, got⟩ := r
  simp only [] at h ⊢
  split
  repeat' split
  all_goals first | exact h | (simp [h]; done)

@[simp] theorem State.serveRings_mem (s : State) (fuel : Nat) : (State.serveRings s fuel).mem = s.mem := by
  induction fuel generalizing s <;> (unfold State.serveRings; (repeat' split) <;> simp_all; done)

@[simp] theorem State.answer_mem (s : State) (vf : Nat) (tag : BitVec 16) (mapped : Bool) : (State.answer s vf tag mapped).mem = s.mem := by
  unfold State.answer
  (repeat' split) <;> simp_all

@[simp] theorem State.grantUnits_mem (s : State) (vf : Nat) (stamp : BitVec 16) (units : BitVec 47) : (State.grantUnits s vf stamp units).mem = s.mem := by
  unfold State.grantUnits
  (repeat' split) <;> simp_all

@[simp] theorem State.writeRing_mem (s : State) (vf : Nat) (f : Vf → Vf) : (State.writeRing s vf f).mem = s.mem := by
  unfold State.writeRing
  (repeat' split) <;> simp_all

/-! ### Vectors -/

@[simp] theorem State.signalVector_mem (s : State) (vf k : Nat) : (s.signalVector vf k).mem = s.mem := by
  unfold State.signalVector
  split <;> rfl

@[simp] theorem State.signalDue_mem (s : State) (vf : Nat) : (s.signalDue vf).mem = s.mem := by
  simp [State.signalDue]

@[simp] theorem State.signalAll_mem (s : State) : s.signalAll.mem = s.mem := by
  unfold State.signalAll
  split <;> simp

/-! ### Registers -/

@[simp] theorem State.clearStatus_mem (s : State) (vf : Nat) : (State.clearStatus s vf).mem = s.mem := (rfl)

@[simp] theorem State.writeRecordOf_wf (s : State) (tag : Nat) (mask : BitVec 512) (v : BitVec 512) (h : s.mem.wf = true) : (State.writeRecordOf s tag mask v).mem.wf = true := by
  unfold State.writeRecordOf
  simp only []
  (repeat' split) <;> simp_all

@[simp] theorem State.writeWindow_wf (s : State) (b e : Nat) (v : BitVec 16) (at_ : Nat) (h : s.mem.wf = true) :
    (s.writeWindow b e v at_).mem.wf = true := by
  unfold State.writeWindow
  simp only []
  split
  · simp [h]
  · rw [State.boundary_mem, State.setBulkhead_mem]
    split
    · exact h
    · exact State.attestedChange_wf _ _ (State.attestedChange_wf _ _ (State.attestedChange_wf _ _ h))

@[simp] theorem State.writeFilter_wf (s : State) (entry : Nat) (v : BitVec 128) (at_ : Nat) (h : s.mem.wf = true) :
    (State.writeFilter s entry v at_).mem.wf = true := by
  unfold State.writeFilter
  (repeat' split) <;> simp_all

@[simp] theorem State.writeFrame_wf (s : State) (f : Nat) (v : Byte) (h : s.mem.wf = true) : (s.writeFrame f v).mem.wf = true := by
  unfold State.writeFrame
  simp only []
  split
  · simp [h]
  · split
    · simp [h]
    · rw [State.updDrover_mem]
      have h2 : (if agetD s.drover.frames f 0 = v then s
          else (s.attestedChange (bitsOf (agetD s.drover.frames f 0).toNat 0 7)).attestedChange (bitsOf v.toNat 0 7)).mem.wf = true := by
        split <;> simp [h]
      split
      · exact State.zeroFrame_wf _ _ h2
      · exact h2

@[simp] theorem State.writeVfReg_mem (s : State) (vf : Nat) (off : Nat) (v : Word) : (State.writeVfReg s vf off v).mem = s.mem := by
  unfold State.writeVfReg
  (repeat' split) <;> simp_all

@[simp] theorem State.writePfReg_mem (s : State) (off : Nat) (v : Word) : (State.writePfReg s off v).mem = s.mem := by
  unfold State.writePfReg
  (repeat' split) <;> simp_all

/-! ### HostAccess -/

@[simp] theorem State.meetHost_mem (s : State) (write : Bool) (a : HostAns) : (State.meetHost s write a).1.mem = s.mem := by
  unfold State.meetHost
  (repeat' split) <;> simp_all

@[simp] theorem State.hostByte_mem (s : State) (w : Window3) (a : Nat) (b : Bool) : (s.hostByte w a b).1.mem = s.mem := by
  unfold State.hostByte
  split
  · rfl
  · split
    · rfl
    · simp only []; split <;> simp
  · split <;> simp
  · rename_i t
    split
    · rfl
    · have h := State.translate_mem s t a
      split
      · rename_i u hu; rw [hu] at h; exact h
      · rename_i u hu; rw [hu] at h; exact h
      · rename_i u hu; rw [hu] at h; exact h
      · rename_i u leaf p hu
        rw [hu] at h
        simp only [] at h
        split <;> simp [h]

@[simp] theorem State.hostBytes_mem (w : Window3) (n : Nat) (b : Bool) (s : State) (a : Nat) : (s.hostBytes w a n b).1.mem = s.mem := by
  induction n generalizing s a with
  | zero => rfl
  | succ n ih => unfold State.hostBytes; simp [ih]

@[simp] theorem State.readEffects_mem (s : State) (fn : Nat) (bar : Nat) (off : Nat) (size : Nat) : (State.readEffects s fn bar off size).mem = s.mem := by
  unfold State.readEffects
  simp only []
  (repeat' split) <;> simp_all

@[simp] theorem State.hostRead_mem (s : State) (fn : Nat) (bar : Nat) (off : Nat) (size : Nat) (ide : Bool) : (State.hostRead s fn bar off size ide).1.mem = s.mem := by
  unfold State.hostRead
  simp only []
  (repeat' split) <;> simp_all

theorem stateOf_wf {r : Result} {s : State} (h : s.mem.wf = true) (hr : ∀ t, r = .next t → t.mem.wf = true) : (stateOf r s).mem.wf = true := by
  unfold stateOf
  split
  · exact hr _ rfl
  · exact h

@[simp] theorem State.writeCell_wf (s : State) (c : PfCell) (k v off at_ : Nat) (h : s.mem.wf = true) :
    (s.writeCell c k v off at_).mem.wf = true := by
  cases c <;> simp [State.writeCell, h]

@[simp] theorem State.writePf_wf (s : State) (off : Nat) (bs : List Byte) (n : Nat) (h : s.mem.wf = true) :
    (s.writePf off bs n).mem.wf = true := by
  induction n generalizing s off bs with
  | zero => exact h
  | succ n ih =>
    unfold State.writePf
    split
    · exact h
    · exact ih _ _ _ (by simp [h])

@[simp] theorem State.writeVf_mem (s : State) (vf off : Nat) (v : Word) : (s.writeVf vf off v).mem = s.mem := by
  unfold State.writeVf
  split
  · simp [stateOf, execLrbaseWrite, State.writeRing]; split <;> rfl
  · simp only [stateOf, execKick]; (repeat' split) <;> simp
  · simp [stateOf, execCrbaseWrite, State.writeRing]; split <;> rfl
  · simp [stateOf, execErbaseWrite, State.writeRing]; split <;> rfl
  · split <;> simp
  · split
    · simp only [stateOf, execSuperEnd]; split <;> simp
    · simp
  · split
    · rfl
    · split <;> simp [stateOf, execTlbinvAll, execTlbinvVa]
  · simp

@[simp] theorem State.writeVfBytes_mem (s : State) (vf : Nat) (off : Nat) (bs : List Byte) (fuel : Nat) : (State.writeVfBytes s vf off bs fuel).mem = s.mem := by
  induction fuel generalizing s vf off bs <;> (unfold State.writeVfBytes; (repeat' split) <;> simp_all; done)

@[simp] theorem State.writeMsix_mem (s : State) (fn : Nat) (off : Nat) (bs : List Byte) : (State.writeMsix s fn off bs).mem = s.mem := (rfl)

@[simp] theorem State.writeRegisters_wf (s : State) (f b o : Nat) (bs : List Byte) (h : s.mem.wf = true) :
    (s.writeRegisters f b o bs).mem.wf = true := by
  unfold State.writeRegisters
  (repeat' split) <;> simp [h]

@[simp] theorem State.outsideWrite_wf (s : State) (l : List (Nat × Byte)) (h : s.mem.wf = true) : (s.outsideWrite l).mem.wf = true := by
  unfold State.outsideWrite
  exact Memory.wf_scatter _ _ h

@[simp] theorem State.hostWrite_wf (s : State) (fn : Nat) (bar : Nat) (off : Nat) (data : List Byte) (ide : Bool) (h : s.mem.wf = true) : (State.hostWrite s fn bar off data ide).1.mem.wf = true := by
  unfold State.hostWrite
  simp only []
  (repeat' split) <;> simp_all

@[simp] theorem State.hostAtomic_wf (s : State) (fn : Nat) (bar : Nat) (off : Nat) (size : Nat) (op : HostAtomicOp) (v : Word) (c : Word) (ide : Bool) (h : s.mem.wf = true) : (State.hostAtomic s fn bar off size op v c ide).1.mem.wf = true := by
  unfold State.hostAtomic
  simp only []
  (repeat' split) <;> simp_all

@[simp] theorem State.perform_wf (s : State) (r : HostRequest) (h : s.mem.wf = true) : (State.perform s r).1.mem.wf = true := by
  unfold State.perform
  (repeat' split) <;> simp_all

@[simp] theorem State.host_wf (s : State) (r : HostRequest) (h : s.mem.wf = true) : (s.host r).mem.wf = true := by
  unfold State.host
  simp only []
  have hp := State.perform_wf s r h
  split
  · simp [h]
  · split
    · rename_i u hu; rw [hu] at hp; exact hp
    · rename_i u hu; rw [hu] at hp; simpa using hp

@[simp] theorem State.hostAgain_wf (l kept : List HostRequest) (s : State) (h : s.mem.wf = true) : (s.hostAgain l kept).mem.wf = true := by
  induction l generalizing s kept with
  | nil => simp [State.hostAgain, h]
  | cons r l ih =>
    unfold State.hostAgain
    have hp := State.perform_wf s r h
    split
    · exact ih _ _ h
    · split
      · rename_i u hu; rw [hu] at hp; exact ih _ _ hp
      · rename_i u hu; rw [hu] at hp; exact ih _ _ hp

@[simp] theorem State.dropSlice_mem (s : State) (id : Nat) : (State.dropSlice s id).mem = s.mem := by
  unfold State.dropSlice
  (repeat' split) <;> simp_all

/-! ### Package -/

@[simp] theorem State.validFrame_wf (s : State) (f : Nat) (h : s.mem.wf = true) : (State.validFrame s f).mem.wf = true := by
  unfold State.validFrame
  simp only []
  (repeat' split) <;> simp_all

@[simp] theorem State.loseFrames_mem (s : State) (first : Nat) (n : Nat) (lasting : Bool) : (State.loseFrames s first n lasting).mem = s.mem := by
  unfold State.loseFrames
  (repeat' split) <;> simp_all

@[simp] theorem State.throttle_mem (s : State) (bh : Nat) : (State.throttle s bh).mem = s.mem := (rfl)

@[simp] theorem State.answerMeasurement_mem (s : State) (index : Nat) (v : BitVec 512) : (State.answerMeasurement s index v).mem = s.mem := by
  unfold State.answerMeasurement
  simp only []
  (repeat' split) <;> simp_all

/-! ### Meter -/

@[simp] theorem State.decideAll_mem (s : State) (id : Nat) (high : Nat) (low : Nat) (l : List (Nat × Actor)) : (State.decideAll s id high low l).mem = s.mem := by
  induction l generalizing s id high low <;> (unfold State.decideAll; (repeat' split) <;> simp_all; done)

@[simp] theorem State.applyChange_wf (s : State) (id : Nat) (c : Change) (h : s.mem.wf = true) : (State.applyChange s id c).mem.wf = true := by
  unfold State.applyChange
  split <;> simp [h]

/-! ### Schedule -/

@[simp] theorem State.writeRank_wf (s : State) (id : Nat) (i : Inst) (r : BitVec 16) (h : s.mem.wf = true) : (State.writeRank s id i r).mem.wf = true := by
  unfold State.writeRank
  (repeat' split) <;> simp_all

@[simp] theorem State.placeSheet_mem (s : State) (x : Slice) (i : Inst) (rank : BitVec 16) (k : Nat) (sheet : Nat) : (State.placeSheet s x i rank k sheet).mem = s.mem := (rfl)

@[simp] theorem State.emptyStores_mem (s : State) (i : Inst) : (State.emptyStores s i).mem = s.mem := (rfl)

@[simp] theorem State.placePhase_wf (s : State) (slice : Nat) (x : Slice) (m : Image) (v : ImageVariant) (base : Nat) (ctx : Nat) (h : s.mem.wf = true) : (State.placePhase s slice x m v base ctx).mem.wf = true := by
  simp [State.placePhase, h]

@[simp] theorem State.frunAsk_mem (s : State) (x : Slice) (h n : Nat) (ps : List Word) : (s.frunAsk x h n ps).1.mem = s.mem := by
  unfold State.frunAsk
  (repeat' split) <;> rfl

@[simp] theorem State.nextPhaseOf_mem (s : State) (k : Nat) (x : Slice) (f : Option (Nat × Nat × List Word)) :
    (s.nextPhaseOf k x f).mem = s.mem := by
  unfold State.nextPhaseOf
  simp only []
  (repeat' split) <;> simp

@[simp] theorem State.writeRecordTo_wf (s : State) (vf : Nat) (va : Nat) (bs : List Byte) (h : s.mem.wf = true) : (State.writeRecordTo s vf va bs).1.mem.wf = true := by
  unfold State.writeRecordTo
  (repeat' split) <;> simp_all

/-! ### Recovery -/

@[simp] theorem State.withdrawPush_mem (s : State) (i : Inst) (sheet : Nat) : (State.withdrawPush s i sheet).mem = s.mem := (rfl)

@[simp] theorem State.markSaved_mem (s : State) (ctx : Nat) (l : List NodeId) : (State.markSaved s ctx l).mem = s.mem := by
  unfold State.markSaved
  refine foldl_mem _ (fun s x => ?_) _ _
  (repeat' split) <;> simp_all

@[simp] theorem State.saveGroup_mem (s : State) (id : Nat) (l : List NodeId) : (State.saveGroup s id l).mem = s.mem := by
  unfold State.saveGroup
  (repeat' split) <;> simp_all

@[simp] theorem State.publishThread_wf (s : State) (i : Inst) (sheet : Nat) (h : s.mem.wf = true) : (State.publishThread s i sheet).mem.wf = true := by
  unfold State.publishThread
  simp only []
  (repeat' split) <;> simp_all

@[simp] theorem State.commitNodes_mem (s : State) (i : Inst) : (State.commitNodes s i).mem = s.mem := (rfl)

@[simp] theorem State.trimPops_mem (s : State) (id : Nat) (area : Area) : (State.trimPops s id area).mem = s.mem := by
  unfold State.trimPops
  refine foldl_mem _ (fun s x => ?_) _ _
  (repeat' split) <;> simp_all

@[simp] theorem State.wantNext_mem (s : State) (id : Nat) (i : Inst) : (s.wantNext id i).mem = s.mem := by
  unfold State.wantNext
  split <;> simp

@[simp] theorem State.deviceWrite_wf (s : State) (l : List (Nat × Byte)) (h : s.mem.wf = true) : (s.deviceWrite l).mem.wf = true :=
  Memory.wf_scatter _ _ h

@[simp] theorem State.releaseOps_mem (s : State) (id : Nat) (cut : Nat) : (State.releaseOps s id cut).mem = s.mem := (rfl)

@[simp] theorem State.completeCut_wf (s : State) (id : Nat) (i : Inst) (a : Area) (locs : List Nat) (h : s.mem.wf = true) :
    (s.completeCut id i a locs).mem.wf = true := by
  unfold State.completeCut
  simp only [State.wantNext_mem, State.updInst_mem]
  refine State.deviceWrite_wf _ _ ?_
  simp only [State.updDrover_mem, State.trimPops_mem, State.releaseOps_mem]
  exact foldl_wf _ (fun s x h => by simp [h]) _ _ (by simp [h])

@[simp] theorem State.noteFault_mem (s : State) (site : FaultSite) (check : Bool) (l : List Nat) : (State.noteFault s site check l).mem = s.mem := (rfl)

@[simp] theorem State.machineFault_wf (s : State) (site : FaultSite) (check : Bool) (l : List Nat) (h : s.mem.wf = true) : (State.machineFault s site check l).mem.wf = true := by
  unfold State.machineFault
  simp only []
  (repeat' split) <;> simp_all

@[simp] theorem State.abandonCut_wf (s : State) (id : Nat) (i : Inst) (area : Area) (line : Nat) (locs : List Nat) (h : s.mem.wf = true) :
    (State.abandonCut s id i area line locs).mem.wf = true := by
  unfold State.abandonCut
  simp only []
  (repeat' split) <;> simp_all

@[simp] theorem State.clearNodes_mem (s : State) (i : Inst) : (State.clearNodes s i).mem = s.mem := (rfl)

@[simp] theorem State.clearFabric_mem (s : State) (id : Nat) (i : Inst) : (State.clearFabric s id i).mem = s.mem := (rfl)

@[simp] theorem State.reloadTile_mem (s : State) (i : Inst) (k : Nat) (tile : Nat) : (State.reloadTile s i k tile).mem = s.mem := by
  simp [State.reloadTile]

@[simp] theorem State.restoreNode_wf (s : State) (ctx : Nat) (v : NodeSave) (h : s.mem.wf = true) : (State.restoreNode s ctx v).mem.wf = true := by
  simp [State.restoreNode, h]

@[simp] theorem State.restoreRing_wf (s : State) (sheet : Nat) (g old : Galley) (ring : List Byte) (h : s.mem.wf = true) :
    (State.restoreRing s sheet g old ring).mem.wf = true := by
  unfold State.restoreRing
  simp only []
  split
  · exact Memory.wf_writeAll _ _ h
  · exact h

@[simp] theorem State.restoreQueue_wf (s : State) (id : Nat) (i : Inst) (sheet : Nat) (k : Nat) (saved : Queue) (ring : Option (List Byte)) (h : s.mem.wf = true) : (State.restoreQueue s id i sheet k saved ring).mem.wf = true := by
  unfold State.restoreQueue
  simp only []
  (repeat' split) <;> simp_all

@[simp] theorem State.restoreSheet_wf (s : State) (id : Nat) (i : Inst) (v : SheetSave) (h : s.mem.wf = true) : (State.restoreSheet s id i v).mem.wf = true := by
  unfold State.restoreSheet
  (repeat' split) <;> simp_all

@[simp] theorem State.restoreWide_mem (s : State) (ctx : Nat) (l : List (Nat × Nat × Token)) : (State.restoreWide s ctx l).mem = s.mem := by
  unfold State.restoreWide
  refine foldl_mem _ (fun s x => ?_) _ _
  (repeat' split) <;> simp_all

@[simp] theorem State.restoreArea_wf (s : State) (id : Nat) (i : Inst) (a : Area) (f : FormeState) (h : s.mem.wf = true) :
    (s.restoreArea id i a f).mem.wf = true := by
  unfold State.restoreArea
  simp only []
  refine State.writeRank_wf _ _ _ _ ?_
  simp only [State.setInst_mem]
  exact foldl_wf _ (fun s x h => by simp [h]) _ _ (foldl_wf _ (fun s x h => by simp [h]) _ _ (foldl_wf _ (fun s x h => by simp [h]) _ _ (by simp [h])))

/-! ### Shared -/

@[simp] theorem State.countCorrected_mem (s : State) (loc : Nat) : (State.countCorrected s loc).mem = s.mem := by
  unfold State.countCorrected
  (repeat' split) <;> simp_all

@[simp] theorem State.blankLine_wf (s : State) (line : Nat) (h : s.mem.wf = true) : (State.blankLine s line).mem.wf = true := by
  simp [State.blankLine, h]

@[simp] theorem State.loseScratch_wf (s : State) (b l : Nat) (r : Bool) (h : s.mem.wf = true) : (s.loseScratch b l r).mem.wf = true := by
  unfold State.loseScratch
  simp only []
  split
  · refine State.retireBh_wf _ _ (Memory.wf_clear _ _ ?_)
    split <;> simp [h]
  · refine Memory.wf_clear _ _ ?_
    split <;> simp [h]

@[simp] theorem State.losePhysical_mem (s : State) (p : Nat) : (State.losePhysical s p).mem = s.mem := by
  simp [State.losePhysical]

@[simp] theorem State.loseLine_wf (s : State) (loc : Nat) (readBackFails : Bool) (h : s.mem.wf = true) : (State.loseLine s loc readBackFails).mem.wf = true := by
  unfold State.loseLine
  (repeat' split) <;> simp_all

@[simp] theorem State.loseMet_wf (s : State) (h : s.mem.wf = true) : (State.loseMet s).mem.wf = true := by
  unfold State.loseMet
  (repeat' split) <;> simp_all

@[simp] theorem State.loseSlot_wf (s : State) (n : NodeId) (f : Firing) (l : List (Nat × Bool)) (h : s.mem.wf = true) :
    (s.loseSlot n f l).mem.wf = true := by
  unfold State.loseSlot
  have hf : (l.foldl (fun s p => s.blankLine p.1) s).mem.wf = true := foldl_wf _ (fun s x h => by simp [h]) _ _ h
  simp only []
  split
  · simp [hf]
  · split <;> simp [hf]

@[simp] theorem State.askReplace_mem (s : State) : (State.askReplace s).mem = s.mem := (rfl)

@[simp] theorem State.loseStack_mem (s : State) (stack : Nat) : (State.loseStack s stack).mem = s.mem := by
  simp [State.loseStack]

@[simp] theorem State.engineFault_mem (s : State) (e : Nat × Nat × Nat) (lasting : Bool) : (State.engineFault s e lasting).mem = s.mem := by
  unfold State.engineFault
  (repeat' split) <;> simp_all

@[simp] theorem State.loseDie_mem (s : State) (die : Nat) : (State.loseDie s die).mem = s.mem := by
  simp [State.loseDie]

@[simp] theorem State.loseExpanders_mem (s : State) (lost : Expander → Bool) : (State.loseExpanders s lost).mem = s.mem := by
  simp [State.loseExpanders]

@[simp] theorem State.faultTransient_mem (s : State) (u : SharedUnit) : (State.faultTransient s u).mem = s.mem := by
  unfold State.faultTransient
  (repeat' split) <;> simp_all

@[simp] theorem State.faultLasting_wf (s : State) (u : SharedUnit) (h : s.mem.wf = true) : (State.faultLasting s u).mem.wf = true := by
  unfold State.faultLasting
  (repeat' split) <;> simp_all

/-! ### Activity -/

@[simp] theorem State.countBy_mem (s : State) (a : Activity) : (State.countBy s a).mem = s.mem := by
  unfold State.countBy
  (repeat' split) <;> simp_all

@[simp] theorem State.counted_mem (s : State) (l : List Activity) : (State.counted s l).mem = s.mem := by
  simp [State.counted]

/-! ### Settle -/

@[simp] theorem State.serveAll_wf (s : State) (h : s.mem.wf = true) : (State.serveAll s).mem.wf = true := by
  unfold State.serveAll
  (repeat' split) <;> simp_all

@[simp] theorem State.serveRecords_mem (s : State) : (State.serveRecords s).mem = s.mem := by
  simp [State.serveRecords]

@[simp] theorem State.serveHost_wf (s : State) (h : s.mem.wf = true) : (State.serveHost s).mem.wf = true := by
  unfold State.serveHost
  (repeat' split) <;> simp_all

@[simp] theorem State.attestTenant_wf (old s : State) (t : Nat) (h : s.mem.wf = true) : (old.attestTenant s t).mem.wf = true := by
  unfold State.attestTenant
  split
  · exact foldl_wf _ (fun s x h => by simp [h]) _ _ (by simp [h])
  · exact h

@[simp] theorem State.attest_wf (old s : State) (h : s.mem.wf = true) : (old.attest s).mem.wf = true :=
  foldl_wf _ (fun s x h => by simp [h]) _ _ h

@[simp] theorem State.moveParks_wf (s : State) (h : s.mem.wf = true) : (State.moveParks s).mem.wf = true := by
  unfold State.moveParks
  split
  · exact h
  · exact Memory.wf_scatter _ _ (List.foldlRecOn (motive := fun m : Memory => m.wf = true) _ _ h fun m hm a _ => Memory.wf_clear _ _ hm)

@[simp] theorem State.admitNext_mem (s : State) (e : Nat × Nat × Nat) : (State.admitNext s e).mem = s.mem := by
  unfold State.admitNext
  split <;> rfl

@[simp] theorem State.admitMessages_mem (s : State) : (State.admitMessages s).mem = s.mem := by
  simp [State.admitMessages]

@[simp] theorem State.settle_wf (old s : State) (h : s.mem.wf = true) : (State.settle old s).mem.wf = true := by
  have ha := State.serveAll_wf _ (State.loseMet_wf _ h)
  rw [State.settle, State.admitMessages_mem]
  exact State.attest_wf _ _ (State.serveHost_wf _ (State.moveParks_wf _ (by simp [ha])))

/-! ### Tags -/

@[simp] theorem State.arrayEvent_mem (s : State) (x : SramLine) (sheet : Nat) (ctx : Nat) : (State.arrayEvent s x sheet ctx).mem = s.mem := by
  unfold State.arrayEvent
  simp only []
  (repeat' split) <;> simp_all

@[simp] theorem State.strayTrap_mem (s : State) (x : SramLine) : (State.strayTrap s x).mem = s.mem := by
  simp [State.strayTrap]

/-! ### Turn -/

@[simp] theorem State.placeWord_wf (s : State) (bs : List Byte) (h : s.mem.wf = true) : (State.placeWord s bs).mem.wf = true := by
  simp [State.placeWord, h]

@[simp] theorem State.placeOp_mem (s : State) (c : NodeClass) (bs : List Byte) : (State.placeOp s c bs).mem = s.mem := (rfl)

@[simp] theorem State.placeTableWord_wf (s : State) (nbits : Nat) (w : Nat) (h : s.mem.wf = true) : (State.placeTableWord s nbits w).mem.wf = true := by
  unfold State.placeTableWord
  simp only []
  (repeat' split) <;> simp_all

/-! ### Step -/

@[simp] theorem State.withFetchWord_wf (s : State) (nbits : Nat) (w : Nat) (h : s.mem.wf = true) : (State.withFetchWord s nbits w).mem.wf = true := by
  simp [State.withFetchWord, h]

end Sys2Proof.Machine
end

