-- ==== Sys2Proof/Laws/CanonicalExec.lean ====
section
/-! SUPPORT. Every meaning keeps the canonical form of memory: one lemma for each. -/

namespace Sys2Proof.Machine

set_option Elab.async false

/-- A next state has a canonical memory. -/
def Canonical (o : Host.Outcome State Fault Refusal) : Prop := ∀ t, o = .next t → t.mem.wf = true

theorem canonical_next {s : State} (h : s.mem.wf = true) : Canonical (.next s) := by
  intro t ht; cases ht; exact h

theorem canonical_fault (f : Fault) : Canonical (.fault f) := by intro t ht; cases ht

theorem canonical_refused (f : Refusal) : Canonical (.refused f) := by intro t ht; cases ht

theorem OpRes.wf_ite {c : Prop} [Decidable c] {x y : OpRes} (hx : x.Wf) (hy : y.Wf) : (if c then x else y).Wf := by
  split <;> assumption

/-! ### ElemLoop -/

theorem execPack_canonical (a : Src) (b : Src) (d : Dst) (n : BitVec 4) (e : Bool) (s : State) (h : s.mem.wf = true) :
    Canonical (execPack a b d n e s) := by
  unfold execPack
  refine canonical_next (State.opWith_wf _ _ _ _ _ h fun n f ts => ?_)
  simp only []
  (repeat' split) <;> simp [h]

theorem execUnpack_canonical (a : Src) (b : Src) (d : Dst) (n : BitVec 4) (e : Bool) (s : State) (h : s.mem.wf = true) :
    Canonical (execUnpack a b d n e s) := by
  unfold execUnpack
  refine canonical_next (State.opWith_wf _ _ _ _ _ h fun n f ts => ?_)
  simp only []
  (repeat' split) <;> simp [h]

theorem execCtxalloc_canonical (a : Src) (d : Dst) (n : BitVec 4) (e : Bool) (s : State) (h : s.mem.wf = true) :
    Canonical (execCtxalloc a d n e s) := by
  unfold execCtxalloc
  refine canonical_next (State.opWith_wf _ _ _ _ _ h fun n f ts => ?_)
  simp only []
  (repeat' split) <;> simp [h]

theorem execCtxfree_canonical (a : Src) (d : Dst) (n : BitVec 4) (e : Bool) (s : State) (h : s.mem.wf = true) :
    Canonical (execCtxfree a d n e s) := by
  unfold execCtxfree
  refine canonical_next (State.opWith_wf _ _ _ _ _ h fun n f ts => ?_)
  simp only []
  (repeat' split) <;> simp [h]

theorem execColourWidthChange_canonical (id : Nat) (colour : BitVec 8) (s : State) (h : s.mem.wf = true) :
    Canonical (execColourWidthChange id colour s) := by
  unfold execColourWidthChange
  apply canonical_next
  simp only []
  (repeat' split) <;> simp_all

theorem execItin_canonical (a : Src) (d : Dst) (n : BitVec 4) (e : Bool) (s : State) (h : s.mem.wf = true) :
    Canonical (execItin a d n e s) := by
  unfold execItin
  refine canonical_next (State.opWith_wf _ _ _ _ _ h fun n f ts => ?_)
  (repeat' split) <;> simp [h]

theorem execItnext_canonical (a : Src) (d : Dst) (n : BitVec 4) (e : Bool) (s : State) (h : s.mem.wf = true) :
    Canonical (execItnext a d n e s) := by
  unfold execItnext
  refine canonical_next (State.opWith_wf _ _ _ _ _ h fun n f ts => ?_)
  simp only []
  (repeat' split) <;> simp [h]

theorem execItout_canonical (a : Src) (d : Dst) (n : BitVec 4) (e : Bool) (s : State) (h : s.mem.wf = true) :
    Canonical (execItout a d n e s) := by
  unfold execItout
  refine canonical_next (State.opWith_wf _ _ _ _ _ h fun n f ts => ?_)
  simp only []
  (repeat' split) <;> simp [h]

theorem execLoUpdateArrival_canonical (sheet : Nat) (tile : Nat) (ctx : Nat) (colour : BitVec 8) (s : State) (h : s.mem.wf = true) :
    Canonical (execLoUpdateArrival sheet tile ctx colour s) := by
  exact canonical_next h

theorem execTcall_canonical (a : Src) (b : Src) (d : Dst) (n : BitVec 4) (e : Bool) (s : State) (h : s.mem.wf = true) :
    Canonical (execTcall a b d n e s) := by
  unfold execTcall
  refine canonical_next (State.opWith_wf _ _ _ _ _ h fun n f ts => ?_)
  simp only []
  (repeat' split) <;> simp [h]

theorem execTret_canonical (a : Src) (b : Src) (d : Dst) (n : BitVec 4) (e : Bool) (s : State) (h : s.mem.wf = true) :
    Canonical (execTret a b d n e s) := by
  unfold execTret
  refine canonical_next (State.opWith_wf _ _ _ _ _ h fun n f ts => ?_)
  simp only []
  (repeat' split) <;> simp [h]

theorem execSetslot_canonical (a : Src) (b : Src) (d : Dst) (e : Bool) (s : State) (h : s.mem.wf = true) :
    Canonical (execSetslot a b d e s) := by
  unfold execSetslot
  refine canonical_next (State.opWith_wf _ _ _ _ _ h fun n f ts => ?_)
  simp only []
  (repeat' split) <;> simp [h]

/-! ### Ag -/

theorem execLdt_canonical (a : Src) (d : Dst) (n : BitVec 4) (tag : BitVec 3) (e : Bool) (s : State) (h : s.mem.wf = true) :
    Canonical (execLdt a d n tag e s) := by
  refine canonical_next (State.opWith_wf _ _ _ _ _ h fun k f ts => ?_)
  split
  · trivial
  · exact State.tsAccess_wf h fun t l ht => by simp [ht]

theorem execStt_canonical (a : Src) (b : Src) (e : Bool) (s : State) (h : s.mem.wf = true) :
    Canonical (execStt a b e s) := by
  refine canonical_next (State.opWith_wf _ _ _ _ _ h fun k f ts => ?_)
  split
  · trivial
  · exact State.tsAccess_wf h fun t l ht => by simp [ht]

theorem execLdx_canonical (a : Src) (b : Src) (d : Dst) (n : BitVec 4) (tag : BitVec 3) (e : Bool) (s : State) (h : s.mem.wf = true) :
    Canonical (execLdx a b d n tag e s) := by
  refine canonical_next (State.opWith_wf _ _ _ _ _ h fun k f ts => ?_)
  split
  · trivial
  · exact State.vaAccess_wf h fun t l ht => by simp [ht]

theorem execStx_canonical (a : Src) (b : Src) (c : Src) (e : Bool) (s : State) (h : s.mem.wf = true) :
    Canonical (execStx a b c e s) := by
  refine canonical_next (State.opWith_wf _ _ _ _ _ h fun k f ts => ?_)
  split
  · trivial
  · exact State.vaAccess_wf h fun t l ht => by simp [ht]

theorem execAmox_canonical (a : Src) (b : Src) (c : Src) (d : Dst) (n : BitVec 4) (fn : AmoFn) (e : Bool) (s : State) (h : s.mem.wf = true) :
    Canonical (execAmox a b c d n fn e s) := by
  refine canonical_next (State.opWith_wf _ _ _ _ _ h fun k f ts => ?_)
  split
  · trivial
  · exact State.vaAccess_wf h fun t l ht => by simp [ht]

theorem execTmove_canonical (a : Src) (d : Dst) (n : BitVec 4) (e : Bool) (s : State) (h : s.mem.wf = true) :
    Canonical (execTmove a d n e s) := by
  refine canonical_next (State.opWith_wf _ _ _ _ _ h fun k f ts => ?_)
  simp only []
  generalize 0x200000 = top
  refine OpRes.wf_ite trivial (OpRes.wf_ite trivial (OpRes.wf_ite trivial (OpRes.wf_ite trivial (OpRes.wf_ite (by simp [h]) ?_))))
  refine State.agResolve_wf h fun t l ht => ?_
  split
  · exact OpRes.wf_ite trivial trivial
  · simp [ht]

theorem execBndry_canonical (a : Src) (d : Dst) (n : BitVec 4) (sc : Scope) (e : Bool) (s : State) (h : s.mem.wf = true) :
    Canonical (execBndry a d n sc e s) := by
  unfold execBndry
  refine canonical_next (State.opWith_wf _ _ _ _ _ h fun n f ts => ?_)
  (repeat' split) <;> simp [h]

/-! ### SeqEngine -/

theorem execAmsg_canonical (a : Reg) (f : BitVec 11) (s : State) (h : s.mem.wf = true) :
    Canonical (execAmsg a f s) := by
  apply canonical_next
  simp [h]

theorem execAwait_canonical (d : Reg) (a : Reg) (s : State) (h : s.mem.wf = true) :
    Canonical (execAwait d a s) := by
  apply canonical_next
  simp [h]

theorem execApoll_canonical (d : Reg) (a : Reg) (s : State) (h : s.mem.wf = true) :
    Canonical (execApoll d a s) := by
  apply canonical_next
  simp [h]

/-! ### SeqStream -/

theorem execDset_canonical (n : BitVec 5) (a : Reg) (s : State) (h : s.mem.wf = true) :
    Canonical (execDset n a s) := by
  apply canonical_next
  simp [h]

theorem execStrin_canonical (k : BitVec 5) (n : BitVec 5) (x : BitVec 5) (s : State) (h : s.mem.wf = true) :
    Canonical (execStrin k n x s) := by
  apply canonical_next
  simp [h]

theorem execStrout_canonical (k : BitVec 5) (n : BitVec 5) (x : BitVec 5) (s : State) (h : s.mem.wf = true) :
    Canonical (execStrout k n x s) := by
  apply canonical_next
  simp [h]

theorem execStbar_canonical (s : State) (h : s.mem.wf = true) :
    Canonical (execStbar s) := by
  unfold execStbar
  simp only []
  (repeat' split) <;> first
    | exact canonical_fault _
    | exact canonical_refused _
    | (apply canonical_next; simp [h]; done)
    | (apply canonical_next; simp only []; (repeat' split) <;> simp_all)

theorem execBsel_canonical (a : Reg) (s : State) (h : s.mem.wf = true) :
    Canonical (execBsel a s) := by
  exact canonical_next h

theorem execScancel_canonical (x : BitVec 5) (s : State) (h : s.mem.wf = true) :
    Canonical (execScancel x s) := by
  exact canonical_next h

/-! ### SeqForme -/

theorem execFload_canonical (d : Reg) (a : Reg) (s : State) (h : s.mem.wf = true) :
    Canonical (execFload d a s) := by
  apply canonical_next
  simp [h]

theorem execFplace_canonical (d : Reg) (a : Reg) (b : Reg) (s : State) (h : s.mem.wf = true) :
    Canonical (execFplace d a b s) := by
  unfold execFplace
  apply canonical_next
  simp only []
  (repeat' split) <;> simp_all

theorem execFrun_canonical (a : Reg) (s : State) (h : s.mem.wf = true) :
    Canonical (execFrun a s) := by
  apply canonical_next
  simp [h]

theorem execFhalt_canonical (s : State) (h : s.mem.wf = true) :
    Canonical (execFhalt s) := by
  unfold execFhalt
  simp only []
  (repeat' split) <;> first
    | exact canonical_fault _
    | exact canonical_refused _
    | (apply canonical_next; simp [h]; done)
    | (apply canonical_next; simp only []; (repeat' split) <;> simp_all)

theorem execBell_canonical (s : State) (h : s.mem.wf = true) :
    Canonical (execBell s) := by
  apply canonical_next
  simp [h]

theorem execFlay_canonical (d : Reg) (a : Reg) (s : State) (h : s.mem.wf = true) :
    Canonical (execFlay d a s) := by
  apply canonical_next
  simp [h]

/-! ### SeqQueue -/

theorem execQpush_canonical (k : BitVec 5) (a : Reg) (b : Reg) (s : State) (h : s.mem.wf = true) :
    Canonical (execQpush k a b s) := by
  apply canonical_next
  simp [h]

theorem execQpop_canonical (d : Reg) (k : BitVec 5) (s : State) (h : s.mem.wf = true) :
    Canonical (execQpop d k s) := by
  apply canonical_next
  simp [h]

theorem execQcnt_canonical (d : Reg) (k : BitVec 5) (s : State) (h : s.mem.wf = true) :
    Canonical (execQcnt d k s) := by
  exact canonical_next h

theorem execQctl_canonical (k : BitVec 5) (a : Reg) (b : Reg) (s : State) (h : s.mem.wf = true) :
    Canonical (execQctl k a b s) := by
  apply canonical_next
  simp [h]

theorem execQbind_canonical (k : BitVec 5) (o : BitVec 16) (s : State) (h : s.mem.wf = true) :
    Canonical (execQbind k o s) := by
  unfold execQbind
  simp only []
  (repeat' split) <;> first
    | exact canonical_fault _
    | exact canonical_refused _
    | (apply canonical_next; simp [h]; done)
    | (apply canonical_next; simp only []; (repeat' split) <;> simp_all)

theorem execXq_canonical (d : Reg) (a : Reg) (b : Reg) (s : State) (h : s.mem.wf = true) :
    Canonical (execXq d a b s) := by
  apply canonical_next
  simp [h]

/-! ### SeqSync -/

theorem execBar_canonical (a : Reg) (s : State) (h : s.mem.wf = true) :
    Canonical (execBar a s) := by
  unfold execBar
  apply canonical_next
  simp only []
  (repeat' split) <;> simp_all

theorem execEvsig_canonical (a : Reg) (b : Reg) (s : State) (h : s.mem.wf = true) :
    Canonical (execEvsig a b s) := by
  unfold execEvsig
  (repeat' split) <;> first
    | exact canonical_fault _
    | exact canonical_refused _
    | (apply canonical_next; simp [h]; done)
    | (apply canonical_next; simp only []; (repeat' split) <;> simp_all)

theorem execEvwait_canonical (d : Reg) (a : Reg) (s : State) (h : s.mem.wf = true) :
    Canonical (execEvwait d a s) := by
  unfold execEvwait
  simp only []
  (repeat' split) <;> first
    | exact canonical_fault _
    | exact canonical_refused _
    | (apply canonical_next; simp [h]; done)
    | (apply canonical_next; simp only []; (repeat' split) <;> simp_all)

/-! ### Engine -/

theorem execCeCopy_canonical (k : Nat) (units : Nat) (s : State) (h : s.mem.wf = true) :
    Canonical (execCeCopy k units s) := by
  refine canonical_next (State.runOp_wf h fun u o n hu => State.runUnits_wf hu fun v p hv => ?_)
  simp [hv]

theorem execCeCopyc_canonical (k : Nat) (units : Nat) (s : State) (h : s.mem.wf = true) :
    Canonical (execCeCopyc k units s) := by
  refine canonical_next (State.runOp_wf h fun u o n hu => State.runUnits_wf hu fun v p hv => ?_)
  split
  · exact Got.andThen_wf (by simp [hv]) fun w bs hw => hw
  · simp [hv]

theorem execCeFill_canonical (k : Nat) (units : Nat) (s : State) (h : s.mem.wf = true) :
    Canonical (execCeFill k units s) := by
  refine canonical_next (State.runOp_wf h fun u o n hu => State.runUnits_wf hu fun v p hv => ?_)
  split
  · exact hv
  · simp [hv]

theorem execCePlane_canonical (k : Nat) (units : Nat) (s : State) (h : s.mem.wf = true) :
    Canonical (execCePlane k units s) := by
  refine canonical_next (State.runOp_wf h fun u o n hu => State.runUnits_wf hu fun v p hv => ?_)
  exact State.planeStep_wf hv fun w q hw => by simp [hw]

theorem execCeGather_canonical (k : Nat) (units : Nat) (s : State) (h : s.mem.wf = true) :
    Canonical (execCeGather k units s) := by
  refine canonical_next (State.runOp_wf h fun u o n hu => State.runUnits_wf hu fun v p hv => ?_)
  simp [hv]

theorem execCeScatter_canonical (k : Nat) (units : Nat) (s : State) (h : s.mem.wf = true) :
    Canonical (execCeScatter k units s) := by
  refine canonical_next (State.runOp_wf h fun u o n hu => State.runUnits_wf hu fun v p hv => ?_)
  simp [hv]

theorem execCoCompose_canonical (k : Nat) (units : Nat) (s : State) (h : s.mem.wf = true) :
    Canonical (execCoCompose k units s) := by
  refine canonical_next (State.runOp_wf h fun u o n hu => ?_)
  split
  · simp [hu]
  · exact State.runUnits_wf hu fun v p hv => by simp [hv]

theorem execEngineCompletion_canonical (k : Nat) (s : State) (h : s.mem.wf = true) :
    Canonical (execEngineCompletion k s) := by
  refine canonical_next ?_
  split
  · exact h
  · split
    · exact h
    · rename_i o _ _ st _
      split
      · exact h
      · split
        · simp [h]
        · have hf := State.finalWrite_wf s o st h
          split
          all_goals
            rename_i u hu
            rw [hu] at hf
            simpa using hf

/-! ### Link -/

theorem execLePut_canonical (k : Nat) (units : Nat) (a : RemoteAnswer) (s : State) (h : s.mem.wf = true) :
    Canonical (execLePut k units a s) := by
  refine canonical_next (State.runLink_wf h fun u o rtag hu => ?_)
  dsimp only
  split
  · simp [hu]
  · split
    all_goals
      rename_i hv
      have hf := State.sendBlocks_wf k o rtag (bitsOf (o.flit 3) 0 32) (blockStarts o.progress (min (o.progress + min units (bitsOf (o.flit 3) 0 32 - o.progress) + if answerStatus a = none then 0 else 1) (bitsOf (o.flit 3) 0 32))) u hu
      rw [hv] at hf
      simpa using hf

theorem execLeGet_canonical (k : Nat) (data : List Byte) (a : RemoteAnswer) (s : State) (h : s.mem.wf = true) :
    Canonical (execLeGet k data a s) := by
  refine canonical_next (State.runLink_wf h fun u o rtag hu => ?_)
  dsimp only
  split
  · simp [hu]
  · generalize hs : (if decide (o.moved = 0) then u.sendSpan k o rtag (.get (o.remoteAddr 2 0) (bitsOf (o.flit 3) 0 32)) else u) = v
    have hw : v.mem.wf = true := by rw [← hs]; split <;> simp [hu]
    split
    all_goals
      rename_i hv
      have hf := (congrArg (fun r => r.1.mem.wf) hv).symm.trans (State.writeGot_wf _ _ _ _ hw)
      simpa using hf

theorem execLeLamo_canonical (k : Nat) (old : Word) (a : RemoteAnswer) (s : State) (h : s.mem.wf = true) :
    Canonical (execLeLamo k old a s) := by
  refine canonical_next (State.runLink_wf h fun u o rtag hu => ?_)
  have hm := State.resolve_mem u o.agent ((msgReply o.header).toNat + 8) 8 .write
  dsimp only
  split
  all_goals
    rename_i hv
    rw [hv] at hm
    simp only [] at hm
    repeat' split
    all_goals simp [hm, hu]

theorem execLeLsig_canonical (k : Nat) (a : RemoteAnswer) (s : State) (h : s.mem.wf = true) :
    Canonical (execLeLsig k a s) := by
  refine canonical_next (State.runLink_wf h fun u o rtag hu => ?_)
  dsimp only
  repeat' split
  all_goals simp [hu]

theorem execSpanRequestArrival_canonical (r : SpanRequest) (s : State) (h : s.mem.wf = true) :
    Canonical (execSpanRequestArrival r s) := by
  unfold execSpanRequestArrival
  (repeat' split) <;> first
    | exact canonical_fault _
    | exact canonical_refused _
    | (apply canonical_next; simp [h]; done)
    | (apply canonical_next; simp only []; (repeat' split) <;> simp_all)

theorem execSpanFlitError_canonical (port : Nat) (f : SpanFlit) (s : State) (h : s.mem.wf = true) :
    Canonical (execSpanFlitError port f s) := by
  refine canonical_next ?_
  have hn := State.noteRetry_mem s port f
  generalize s.noteRetry port f = r at hn ⊢
  obtain ⟨u, b⟩ := r
  have hu : u.mem.wf = true := by rw [hn]; exact h
  (repeat' split) <;> simp_all

theorem execSpanVcEscape_canonical (packet : Nat) (s : State) (h : s.mem.wf = true) :
    Canonical (execSpanVcEscape packet s) := by
  exact canonical_next h

/-! ### BulkheadOps -/

theorem execBulkheadReleaseDone_canonical (bh : Nat) (s : State) (h : s.mem.wf = true) :
    Canonical (execBulkheadReleaseDone bh s) := by
  refine canonical_next ?_
  dsimp only
  split
  · exact State.beginZeroise_wf _ _ _ _ _ (foldl_wf _ (fun s x h => by simp [h]) _ _ h)
  · exact h

theorem execPllRelockDone_canonical (bh : Nat) (s : State) (h : s.mem.wf = true) :
    Canonical (execPllRelockDone bh s) := by
  unfold execPllRelockDone
  simp only []
  (repeat' split) <;> first
    | exact canonical_fault _
    | exact canonical_refused _
    | (apply canonical_next; simp [h]; done)
    | (apply canonical_next; simp only []; (repeat' split) <;> simp_all)

theorem execBulkheadAssign_canonical (bh : Nat) (tag : Nat) (s : State) (h : s.mem.wf = true) :
    Canonical (execBulkheadAssign bh tag s) := by
  apply canonical_next
  simp [h]

theorem execBulkheadRelease_canonical (bh : Nat) (s : State) (h : s.mem.wf = true) :
    Canonical (execBulkheadRelease bh s) := by
  apply canonical_next
  simp [h]

theorem execBulkheadReset_canonical (bh : Nat) (release : Bool) (s : State) (h : s.mem.wf = true) :
    Canonical (execBulkheadReset bh release s) := by
  apply canonical_next
  simp [h]

theorem execResetLineRelease_canonical (bh : Nat) (s : State) (h : s.mem.wf = true) :
    Canonical (execResetLineRelease bh s) := by
  unfold execResetLineRelease
  simp only []
  (repeat' split) <;> first
    | exact canonical_fault _
    | exact canonical_refused _
    | (apply canonical_next; simp [h]; done)
    | (apply canonical_next; simp only []; (repeat' split) <;> simp_all)

theorem execInstructionFetchFault_canonical (s : State) (h : s.mem.wf = true) :
    Canonical (execInstructionFetchFault s) := by
  unfold execInstructionFetchFault
  apply canonical_next
  simp only []
  (repeat' split) <;> simp_all

theorem execZeroisationDone_canonical (bh : Nat) (readBackFails : Bool) (s : State) (h : s.mem.wf = true) :
    Canonical (execZeroisationDone bh readBackFails s) := by
  unfold execZeroisationDone
  simp only []
  (repeat' split) <;> first
    | exact canonical_fault _
    | exact canonical_refused _
    | (apply canonical_next; simp [h]; done)
    | (apply canonical_next; simp only []; (repeat' split) <;> simp_all)

theorem execTimeSliceExpiry_canonical (bh : Nat) (s : State) (h : s.mem.wf = true) :
    Canonical (execTimeSliceExpiry bh s) := by
  unfold execTimeSliceExpiry
  simp only []
  (repeat' split) <;> first
    | exact canonical_fault _
    | exact canonical_refused _
    | (apply canonical_next; simp [h]; done)
    | (apply canonical_next; simp only []; (repeat' split) <;> simp_all)

theorem execBulkheadSwitch_canonical (bh : Nat) (s : State) (h : s.mem.wf = true) :
    Canonical (execBulkheadSwitch bh s) := by
  unfold execBulkheadSwitch
  apply canonical_next
  simp only []
  (repeat' split) <;> simp_all

theorem execParkComplete_canonical (bh : Nat) (s : State) (h : s.mem.wf = true) :
    Canonical (execParkComplete bh s) := by
  unfold execParkComplete
  generalize hr : s.parkImage bh = r
  have hp : r.1.mem.wf = true := hr ▸ State.parkImage_wf s bh h
  obtain ⟨u, p⟩ := r
  refine canonical_next ?_
  dsimp only
  split
  · exact State.beginZeroise_wf _ _ _ _ _ (by simpa using hp)
  · exact h

theorem execRestoreComplete_canonical (bh : Nat) (s : State) (h : s.mem.wf = true) :
    Canonical (execRestoreComplete bh s) := by
  unfold execRestoreComplete
  apply canonical_next
  simp only []
  (repeat' split) <;> simp_all

/-! ### ElemFlow -/

theorem execSteer_canonical (a : Src) (b : Src) (d : Dst) (n : BitVec 4) (e : Bool) (s : State) (h : s.mem.wf = true) :
    Canonical (execSteer a b d n e s) := by
  unfold execSteer
  apply canonical_next
  simp only []
  (repeat' split) <;> simp_all

theorem execGate_canonical (a : Src) (b : Src) (d : Dst) (n : BitVec 4) (e : Bool) (s : State) (h : s.mem.wf = true) :
    Canonical (execGate a b d n e s) := by
  unfold execGate
  refine canonical_next (State.opWith_wf _ _ _ _ _ h fun n f ts => ?_)
  (repeat' split) <;> simp [h]

theorem execFan_canonical (a : Src) (n : BitVec 4) (e : Bool) (s : State) (h : s.mem.wf = true) :
    Canonical (execFan a n e s) := by
  refine canonical_next (State.opWith_wf _ _ _ _ _ h fun k f ts => ?_)
  dsimp only
  split
  · trivial
  · exact foldl_wf _ (fun s x h => by simp [h]) _ _ h

theorem execSink_canonical (a : Src) (e : Bool) (s : State) (h : s.mem.wf = true) :
    Canonical (execSink a e s) := by
  apply canonical_next
  simp [h]

theorem execMerge_canonical (a : Src) (b : Src) (d : Dst) (n : BitVec 4) (e : Bool) (s : State) (h : s.mem.wf = true) :
    Canonical (execMerge a b d n e s) := by
  refine canonical_next (State.opWith_wf _ _ _ _ _ h fun k f ts => ?_)
  unfold State.passOne
  split
  · trivial
  · split
    · trivial
    · simp [h]

theorem execOmerge_canonical (a : Src) (b : Src) (d : Dst) (n : BitVec 4) (e : Bool) (s : State) (h : s.mem.wf = true) :
    Canonical (execOmerge a b d n e s) := by
  refine canonical_next (State.opWith_wf _ _ _ _ _ h fun k f ts => ?_)
  unfold State.passOne
  split
  · trivial
  · split
    · trivial
    · simp [h]

/-! ### ElemState -/

theorem execAcc_canonical (a : Src) (b : Src) (d : Dst) (n : BitVec 4) (e : Bool) (s : State) (h : s.mem.wf = true) :
    Canonical (execAcc a b d n e s) := by
  refine canonical_next (State.opWith_wf _ _ _ _ _ h fun k f ts => OpRes.wf_ite trivial ?_)
  refine OpRes.wf_ite trivial (OpRes.wf_ite trivial (OpRes.wf_ite trivial ?_))
  simp [h]

theorem execScan_canonical (a : Src) (b : Src) (d : Dst) (n : BitVec 4) (e : Bool) (s : State) (h : s.mem.wf = true) :
    Canonical (execScan a b d n e s) := by
  refine canonical_next (State.opWith_wf _ _ _ _ _ h fun k f ts => OpRes.wf_ite trivial ?_)
  refine OpRes.wf_ite trivial (OpRes.wf_ite trivial (OpRes.wf_ite trivial ?_))
  dsimp only
  split
  · trivial
  · simp [h]

theorem execDelay_canonical (a : Src) (b : Src) (e : Bool) (s : State) (h : s.mem.wf = true) :
    Canonical (execDelay a b e s) := by
  unfold execDelay
  refine canonical_next (State.opWith_wf _ _ _ _ _ h fun n f ts => ?_)
  simp only []
  (repeat' split) <;> simp [h]

theorem execRowms_canonical (a : Src) (b : Src) (c : Src) (d : Dst) (n : BitVec 4) (e : Bool) (s : State) (h : s.mem.wf = true) :
    Canonical (execRowms a b c d n e s) := by
  unfold execRowms
  refine canonical_next (State.opWith_wf _ _ _ _ _ h fun n f ts => ?_)
  simp only []
  (repeat' split) <;> simp [h]

theorem execRowfin_canonical (a : Src) (b : Src) (d : Dst) (n : BitVec 4) (e : Bool) (s : State) (h : s.mem.wf = true) :
    Canonical (execRowfin a b d n e s) := by
  unfold execRowfin
  refine canonical_next (State.opWith_wf _ _ _ _ _ h fun n f ts => ?_)
  simp only []
  (repeat' split) <;> simp [h]

theorem execRowscl_canonical (a : Src) (b : Src) (c : Src) (d : Dst) (n : BitVec 4) (e : Bool) (s : State) (h : s.mem.wf = true) :
    Canonical (execRowscl a b c d n e s) := by
  unfold execRowscl
  refine canonical_next (State.opWith_wf _ _ _ _ _ h fun n f ts => ?_)
  simp only []
  (repeat' split) <;> simp [h]

/-! ### Cv -/

theorem execCvt_canonical (a : Src) (d : Dst) (n : BitVec 4) (sat : Bool) (tag : BitVec 3) (e : Bool) (s : State) (h : s.mem.wf = true) :
    Canonical (execCvt a d n sat tag e s) := by
  unfold execCvt State.convertWith
  refine canonical_next (State.opWith_wf _ _ _ _ _ h fun k f ts => ?_)
  have he : ∀ (u : State) l, u.mem.wf = true → (u.emitAll k f l).Wf := by
    intro u l hu
    unfold State.emitAll
    dsimp only
    split <;> simp [hu]
  dsimp only
  split
  · trivial
  · split
    · exact he _ _ h
    · split
      · rename_i r hr
        revert hr
        repeat' split
        all_goals (intro hr; cases hr)
      · exact he _ _ (by simp [h])

theorem execCvtq_canonical (a : Src) (d : Dst) (n : BitVec 4) (target : BitVec 3) (e : Bool) (s : State) (h : s.mem.wf = true) :
    Canonical (execCvtq a d n target e s) := by
  unfold execCvtq State.convertWith
  refine canonical_next (State.opWith_wf _ _ _ _ _ h fun k f ts => ?_)
  have he : ∀ (u : State) l, u.mem.wf = true → (u.emitAll k f l).Wf := by
    intro u l hu
    unfold State.emitAll
    dsimp only
    split <;> simp [hu]
  dsimp only
  split
  · trivial
  · split
    · exact he _ _ h
    · split
      · rename_i r hr
        revert hr
        repeat' split
        all_goals (intro hr; cases hr; try trivial)
      · exact he _ _ (by simp [h])

theorem execCvts_canonical (a : Src) (d : Dst) (n : BitVec 4) (sat : Bool) (tag : BitVec 3) (e : Bool) (s : State) (h : s.mem.wf = true) :
    Canonical (execCvts a d n sat tag e s) := by
  unfold execCvts State.convertWith
  refine canonical_next (State.opWith_wf _ _ _ _ _ h fun k f ts => ?_)
  have he : ∀ (u : State) l, u.mem.wf = true → (u.emitAll k f l).Wf := by
    intro u l hu
    unfold State.emitAll
    dsimp only
    split <;> simp [hu]
  dsimp only
  split
  · trivial
  · split
    · exact he _ _ h
    · split
      · rename_i r hr
        revert hr
        repeat' split
        all_goals (intro hr; cases hr; try trivial)
      · exact he _ _ (by simp [h])

/-! ### ElemArith -/

theorem execElemAdd_canonical (a : Src) (b : Src) (d : Dst) (n : BitVec 4) (sat : Bool) (e : Bool) (s : State) (h : s.mem.wf = true) :
    Canonical (execElemAdd a b d n sat e s) := by
  apply canonical_next
  simp [h]

theorem execElemSub_canonical (a : Src) (b : Src) (d : Dst) (n : BitVec 4) (sat : Bool) (e : Bool) (s : State) (h : s.mem.wf = true) :
    Canonical (execElemSub a b d n sat e s) := by
  apply canonical_next
  simp [h]

theorem execElemMul_canonical (a : Src) (b : Src) (d : Dst) (n : BitVec 4) (sat : Bool) (e : Bool) (s : State) (h : s.mem.wf = true) :
    Canonical (execElemMul a b d n sat e s) := by
  apply canonical_next
  simp [h]

theorem execFma_canonical (a : Src) (b : Src) (c : Src) (d : Dst) (n : BitVec 4) (sat : Bool) (e : Bool) (s : State) (h : s.mem.wf = true) :
    Canonical (execFma a b c d n sat e s) := by
  apply canonical_next
  simp [h]

theorem execElemMin_canonical (a : Src) (b : Src) (d : Dst) (n : BitVec 4) (e : Bool) (s : State) (h : s.mem.wf = true) :
    Canonical (execElemMin a b d n e s) := by
  apply canonical_next
  simp [h]

theorem execElemMax_canonical (a : Src) (b : Src) (d : Dst) (n : BitVec 4) (e : Bool) (s : State) (h : s.mem.wf = true) :
    Canonical (execElemMax a b d n e s) := by
  apply canonical_next
  simp [h]

theorem execAbs_canonical (a : Src) (d : Dst) (n : BitVec 4) (e : Bool) (s : State) (h : s.mem.wf = true) :
    Canonical (execAbs a d n e s) := by
  apply canonical_next
  simp [h]

theorem execNeg_canonical (a : Src) (d : Dst) (n : BitVec 4) (e : Bool) (s : State) (h : s.mem.wf = true) :
    Canonical (execNeg a d n e s) := by
  apply canonical_next
  simp [h]

theorem execElemShl_canonical (a : Src) (b : Src) (d : Dst) (n : BitVec 4) (sat : Bool) (e : Bool) (s : State) (h : s.mem.wf = true) :
    Canonical (execElemShl a b d n sat e s) := by
  apply canonical_next
  simp [h]

theorem execElemShr_canonical (a : Src) (b : Src) (d : Dst) (n : BitVec 4) (e : Bool) (s : State) (h : s.mem.wf = true) :
    Canonical (execElemShr a b d n e s) := by
  apply canonical_next
  simp [h]

theorem execElemSra_canonical (a : Src) (b : Src) (d : Dst) (n : BitVec 4) (e : Bool) (s : State) (h : s.mem.wf = true) :
    Canonical (execElemSra a b d n e s) := by
  apply canonical_next
  simp [h]

theorem execElemAnd_canonical (a : Src) (b : Src) (d : Dst) (n : BitVec 4) (e : Bool) (s : State) (h : s.mem.wf = true) :
    Canonical (execElemAnd a b d n e s) := by
  apply canonical_next
  simp [h]

theorem execElemOr_canonical (a : Src) (b : Src) (d : Dst) (n : BitVec 4) (e : Bool) (s : State) (h : s.mem.wf = true) :
    Canonical (execElemOr a b d n e s) := by
  apply canonical_next
  simp [h]

theorem execElemXor_canonical (a : Src) (b : Src) (d : Dst) (n : BitVec 4) (e : Bool) (s : State) (h : s.mem.wf = true) :
    Canonical (execElemXor a b d n e s) := by
  apply canonical_next
  simp [h]

theorem execNot_canonical (a : Src) (d : Dst) (n : BitVec 4) (e : Bool) (s : State) (h : s.mem.wf = true) :
    Canonical (execNot a d n e s) := by
  apply canonical_next
  simp [h]

theorem execCmp_canonical (a : Src) (b : Src) (d : Dst) (n : BitVec 4) (cc : BitVec 3) (e : Bool) (s : State) (h : s.mem.wf = true) :
    Canonical (execCmp a b d n cc e s) := by
  apply canonical_next
  simp [h]

theorem execSel_canonical (a : Src) (b : Src) (c : Src) (d : Dst) (n : BitVec 4) (e : Bool) (s : State) (h : s.mem.wf = true) :
    Canonical (execSel a b c d n e s) := by
  unfold execSel
  refine canonical_next (State.opWith_wf _ _ _ _ _ h fun n f ts => ?_)
  simp only []
  (repeat' split) <;> simp [h]

theorem execMov_canonical (a : Src) (d : Dst) (n : BitVec 4) (e : Bool) (s : State) (h : s.mem.wf = true) :
    Canonical (execMov a d n e s) := by
  apply canonical_next
  simp [h]

theorem execConst_canonical (d : Dst) (n : BitVec 4) (tag : BitVec 3) (e : Bool) (imm : W32) (s : State) (h : s.mem.wf = true) :
    Canonical (execConst d n tag e imm s) := by
  apply canonical_next
  simp [h]

theorem execExp2_canonical (a : Src) (d : Dst) (n : BitVec 4) (e : Bool) (s : State) (h : s.mem.wf = true) :
    Canonical (execExp2 a d n e s) := by
  apply canonical_next
  simp [h]

theorem execLog2_canonical (a : Src) (d : Dst) (n : BitVec 4) (e : Bool) (s : State) (h : s.mem.wf = true) :
    Canonical (execLog2 a d n e s) := by
  apply canonical_next
  simp [h]

theorem execRcp_canonical (a : Src) (d : Dst) (n : BitVec 4) (e : Bool) (s : State) (h : s.mem.wf = true) :
    Canonical (execRcp a d n e s) := by
  apply canonical_next
  simp [h]

theorem execRsq_canonical (a : Src) (d : Dst) (n : BitVec 4) (e : Bool) (s : State) (h : s.mem.wf = true) :
    Canonical (execRsq a d n e s) := by
  apply canonical_next
  simp [h]

theorem execSqrt_canonical (a : Src) (d : Dst) (n : BitVec 4) (e : Bool) (s : State) (h : s.mem.wf = true) :
    Canonical (execSqrt a d n e s) := by
  apply canonical_next
  simp [h]

theorem execLane_canonical (a : Src) (d : Dst) (n : BitVec 4) (l : BitVec 2) (e : Bool) (s : State) (h : s.mem.wf = true) :
    Canonical (execLane a d n l e s) := by
  apply canonical_next
  simp [h]

theorem execBcast_canonical (a : Src) (d : Dst) (n : BitVec 4) (e : Bool) (s : State) (h : s.mem.wf = true) :
    Canonical (execBcast a d n e s) := by
  apply canonical_next
  simp [h]

/-! ### Pa -/

theorem execWsload_canonical (a : Src) (e : Bool) (s : State) (h : s.mem.wf = true) :
    Canonical (execWsload a e s) := by
  refine canonical_next (State.opWith_wf _ _ _ _ _ h fun k f ts => ?_)
  simp only []
  generalize 0x200000 = top
  refine OpRes.wf_ite trivial (OpRes.wf_ite trivial (OpRes.wf_ite trivial (OpRes.wf_ite trivial ?_)))
  split
  · exact h
  · trivial
  · simp [h]

theorem execAcczero_canonical (a : Src) (e : Bool) (s : State) (h : s.mem.wf = true) :
    Canonical (execAcczero a e s) := by
  refine canonical_next (State.opWith_wf _ _ _ _ _ h fun k f ts => ?_)
  simp only []
  generalize 0x200000 = top
  exact OpRes.wf_ite trivial (OpRes.wf_ite trivial (OpRes.wf_ite trivial (OpRes.wf_ite h (by simp [h]))))

theorem execMm_canonical (a : Src) (b : Src) (d : Dst) (n : BitVec 4) (e : Bool) (s : State) (h : s.mem.wf = true) :
    Canonical (execMm a b d n e s) := by
  refine canonical_next (State.opWith_wf _ _ _ _ _ h fun k f ts => ?_)
  have hb : ∀ c, match s.mmBegin k f c b with
      | .error r => r.Wf
      | .ok u => u.mem.wf = true := by
    intro c
    unfold State.mmBegin
    dsimp only
    repeat' split
    all_goals first
      | trivial
      | (simp_all; done)
      | skip
    all_goals (rename_i hr; revert hr; repeat' split)
    all_goals (intro hr; cases hr)
    all_goals simp [h]
  dsimp only
  split
  · trivial
  · split
    · trivial
    · split
      · have hb' := hb (mmCtl (operandAt ts 0).value)
        split
        · rename_i r hr; rw [hr] at hb'; exact hb'
        · rename_i u hr
          rw [hr] at hb'
          split
          · trivial
          · simp [show u.mem.wf = true from hb']
      · split
        · simp [h]
        · split
          · rename_i ws t u hs hd
            have : u.mem = s.mem := by
              unfold State.drawToken at hd
              simp at hd
              obtain ⟨a, c, _, _, rfl⟩ := hd
              simp
            simp [this, h]
          · exact h

theorem execAccrd_canonical (a : Src) (d : Dst) (n : BitVec 4) (sat : Bool) (e : Bool) (s : State) (h : s.mem.wf = true) :
    Canonical (execAccrd a d n sat e s) := by
  unfold execAccrd
  refine canonical_next (State.opWith_wf _ _ _ _ _ h fun n f ts => ?_)
  simp only []
  (repeat' split) <;> simp [h]

/-! ### Fe -/

theorem execFcfg_canonical (a : Src) (e : Bool) (s : State) (h : s.mem.wf = true) :
    Canonical (execFcfg a e s) := by
  unfold execFcfg
  refine canonical_next (State.opWith_wf _ _ _ _ _ h fun n f ts => ?_)
  simp only []
  (repeat' split) <;> simp [h]

theorem execFins_canonical (a : Src) (b : Src) (c : Src) (e : Bool) (s : State) (h : s.mem.wf = true) :
    Canonical (execFins a b c e s) := by
  refine canonical_next (State.opWith_wf _ _ _ _ _ h fun k f ts => ?_)
  split
  · trivial
  · have hi : ∀ c bld x, (s.insertFront k f c bld x).Wf := by
      intro c bld x
      unfold State.insertFront
      dsimp only
      split
      · exact h
      · split <;> simp [h]
    try dsimp only
    repeat' split
    all_goals first | trivial | exact hi _ _ _ | simp [h]

theorem execFprobe_canonical (a : Src) (b : Src) (c : Src) (d : Dst) (n : BitVec 4) (e : Bool) (s : State) (h : s.mem.wf = true) :
    Canonical (execFprobe a b c d n e s) := by
  unfold execFprobe
  refine canonical_next (State.opWith_wf _ _ _ _ _ h fun n f ts => ?_)
  (repeat' split) <;> simp [h]

theorem execFmrg_canonical (a : Src) (e : Bool) (s : State) (h : s.mem.wf = true) :
    Canonical (execFmrg a e s) := by
  refine canonical_next (State.opWith_wf _ _ _ _ _ h fun k f ts => ?_)
  split
  · trivial
  · have hi : ∀ c bld x, (s.insertFront k f c bld x).Wf := by
      intro c bld x
      unfold State.insertFront
      dsimp only
      split
      · exact h
      · split <;> simp [h]
    try dsimp only
    repeat' split
    all_goals first | trivial | exact hi _ _ _ | simp [h]

theorem execFdrain_canonical (a : Src) (d : Dst) (n : BitVec 4) (e : Bool) (s : State) (h : s.mem.wf = true) :
    Canonical (execFdrain a d n e s) := by
  unfold execFdrain
  refine canonical_next (State.opWith_wf _ _ _ _ _ h fun n f ts => ?_)
  simp only []
  (repeat' split) <;> simp [h]

theorem execFcnt_canonical (d : Dst) (n : BitVec 4) (e : Bool) (s : State) (h : s.mem.wf = true) :
    Canonical (execFcnt d n e s) := by
  apply canonical_next
  simp [h]

theorem execFclr_canonical (e : Bool) (s : State) (h : s.mem.wf = true) :
    Canonical (execFclr e s) := by
  apply canonical_next
  simp [h]

/-! ### SeqSystem -/

theorem execCsrr_canonical (d : Reg) (c : BitVec 16) (s : State) (h : s.mem.wf = true) :
    Canonical (execCsrr d c s) := by
  unfold execCsrr
  (repeat' split) <;> first
    | exact canonical_fault _
    | exact canonical_refused _
    | (apply canonical_next; simp [h]; done)
    | (apply canonical_next; simp only []; (repeat' split) <;> simp_all)

theorem execCsrw_canonical (a : Reg) (c : BitVec 16) (s : State) (h : s.mem.wf = true) :
    Canonical (execCsrw a c s) := by
  unfold execCsrw
  simp only []
  (repeat' split) <;> first
    | exact canonical_fault _
    | exact canonical_refused _
    | (apply canonical_next; simp [h]; done)
    | (apply canonical_next; simp only []; (repeat' split) <;> simp_all)

theorem execTrap_canonical (c : BitVec 16) (s : State) (h : s.mem.wf = true) :
    Canonical (execTrap c s) := by
  apply canonical_next
  simp [h]

theorem execBrk_canonical (s : State) (h : s.mem.wf = true) :
    Canonical (execBrk s) := by
  apply canonical_next
  simp [h]

theorem execEret_canonical (s : State) (h : s.mem.wf = true) :
    Canonical (execEret s) := by
  apply canonical_next
  simp [h]

theorem execNop_canonical (s : State) (h : s.mem.wf = true) :
    Canonical (execNop s) := by
  exact canonical_next h

theorem execWfi_canonical (s : State) (h : s.mem.wf = true) :
    Canonical (execWfi s) := by
  apply canonical_next
  simp [h]

theorem execYield_canonical (s : State) (h : s.mem.wf = true) :
    Canonical (execYield s) := by
  unfold execYield
  apply canonical_next
  simp only []
  (repeat' split) <;> simp_all

theorem execIllegalInstruction_canonical (w : Word) (s : State) (h : s.mem.wf = true) :
    Canonical (execIllegalInstruction w s) := by
  apply canonical_next
  simp [h]

/-! ### SeqMem -/

theorem execLd_canonical (d : Reg) (a : Reg) (off : BitVec 16) (wd : Width) (ord : MemOrd) (sc : Scope) (s : State) (h : s.mem.wf = true) :
    Canonical (execLd d a off wd ord sc s) := by
  apply canonical_next
  simp [h]

theorem execSt_canonical (d : Reg) (a : Reg) (off : BitVec 16) (wd : Width) (ord : MemOrd) (sc : Scope) (s : State) (h : s.mem.wf = true) :
    Canonical (execSt d a off wd ord sc s) := by
  apply canonical_next
  simp [h]

theorem execAmo_canonical (d : Reg) (a : Reg) (b : Reg) (off : BitVec 16) (wd : Width) (ord : MemOrd) (sc : Scope) (fn : AmoFn) (s : State) (h : s.mem.wf = true) :
    Canonical (execAmo d a b off wd ord sc fn s) := by
  apply canonical_next
  simp [h]

theorem execCas_canonical (d : Reg) (a : Reg) (b : Reg) (off : BitVec 16) (wd : Width) (ord : MemOrd) (sc : Scope) (s : State) (h : s.mem.wf = true) :
    Canonical (execCas d a b off wd ord sc s) := by
  apply canonical_next
  simp [h]

theorem execFence_canonical (sc : Scope) (s : State) (h : s.mem.wf = true) :
    Canonical (execFence sc s) := by
  apply canonical_next
  simp [h]

/-! ### SeqBranch -/

theorem execBeq_canonical (a : Reg) (b : Reg) (o : BitVec 16) (s : State) (h : s.mem.wf = true) :
    Canonical (execBeq a b o s) := by
  apply canonical_next
  simp [h]

theorem execBne_canonical (a : Reg) (b : Reg) (o : BitVec 16) (s : State) (h : s.mem.wf = true) :
    Canonical (execBne a b o s) := by
  apply canonical_next
  simp [h]

theorem execBlt_canonical (a : Reg) (b : Reg) (o : BitVec 16) (s : State) (h : s.mem.wf = true) :
    Canonical (execBlt a b o s) := by
  apply canonical_next
  simp [h]

theorem execBge_canonical (a : Reg) (b : Reg) (o : BitVec 16) (s : State) (h : s.mem.wf = true) :
    Canonical (execBge a b o s) := by
  apply canonical_next
  simp [h]

theorem execBltu_canonical (a : Reg) (b : Reg) (o : BitVec 16) (s : State) (h : s.mem.wf = true) :
    Canonical (execBltu a b o s) := by
  apply canonical_next
  simp [h]

theorem execBgeu_canonical (a : Reg) (b : Reg) (o : BitVec 16) (s : State) (h : s.mem.wf = true) :
    Canonical (execBgeu a b o s) := by
  apply canonical_next
  simp [h]

theorem execJmp_canonical (o : BitVec 26) (s : State) (h : s.mem.wf = true) :
    Canonical (execJmp o s) := by
  exact canonical_next h

theorem execJr_canonical (a : Reg) (s : State) (h : s.mem.wf = true) :
    Canonical (execJr a s) := by
  unfold execJr
  (repeat' split) <;> first
    | exact canonical_fault _
    | exact canonical_refused _
    | (apply canonical_next; simp [h]; done)
    | (apply canonical_next; simp only []; (repeat' split) <;> simp_all)

theorem execCall_canonical (o : BitVec 26) (s : State) (h : s.mem.wf = true) :
    Canonical (execCall o s) := by
  apply canonical_next
  simp [h]

theorem execCallr_canonical (a : Reg) (s : State) (h : s.mem.wf = true) :
    Canonical (execCallr a s) := by
  apply canonical_next
  simp [h]

theorem execRet_canonical (s : State) (h : s.mem.wf = true) :
    Canonical (execRet s) := by
  apply canonical_next
  simp [h]

theorem execLoop_canonical (a : Reg) (o : BitVec 16) (s : State) (h : s.mem.wf = true) :
    Canonical (execLoop a o s) := by
  apply canonical_next
  simp [h]

/-! ### SeqEvents -/

theorem execWaitingInstructionRetire_canonical (sheet : Nat) (ctx : Nat) (s : State) (h : s.mem.wf = true) :
    Canonical (execWaitingInstructionRetire sheet ctx s) := by
  unfold execWaitingInstructionRetire
  apply canonical_next
  simp only []
  (repeat' split) <;> simp_all

theorem execHandlerInvocation_canonical (sheet : Nat) (ctx : Nat) (s : State) (h : s.mem.wf = true) :
    Canonical (execHandlerInvocation sheet ctx s) := by
  unfold execHandlerInvocation
  (repeat' split) <;> first
    | exact canonical_fault _
    | exact canonical_refused _
    | (apply canonical_next; simp [h]; done)
    | (apply canonical_next; simp only []; (repeat' split) <;> simp_all)

theorem execQueuePushAccept_canonical (sheet : Nat) (q : Nat) (s : State) (h : s.mem.wf = true) :
    Canonical (execQueuePushAccept sheet q s) := by
  apply canonical_next
  simp [h]

theorem execGalleyRefill_canonical (sheet : Nat) (q : Nat) (s : State) (h : s.mem.wf = true) :
    Canonical (execGalleyRefill sheet q s) := by
  apply canonical_next
  simp [h]

/-! ### FabricEvents -/

theorem execTokenArrival_canonical (id : Nat) (edge : Nat) (s : State) (h : s.mem.wf = true) :
    Canonical (execTokenArrival id edge s) := by
  unfold execTokenArrival
  (repeat' split) <;> first
    | exact canonical_fault _
    | exact canonical_refused _
    | (apply canonical_next; simp [h]; done)
    | (apply canonical_next; simp only []; (repeat' split) <;> simp_all)

theorem execMatchingStoreAdmit_canonical (n : NodeId) (ctx : Nat) (port : Nat) (place : Nat) (s : State) (h : s.mem.wf = true) :
    Canonical (execMatchingStoreAdmit n ctx port place s) := by
  unfold execMatchingStoreAdmit
  apply canonical_next
  simp only []
  (repeat' split) <;> simp_all

theorem execFiringStart_canonical (n : NodeId) (s : State) (h : s.mem.wf = true) :
    Canonical (execFiringStart n s) := by
  unfold execFiringStart
  apply canonical_next
  simp only []
  (repeat' split) <;> simp_all

theorem execMmInterrupt_canonical (n : NodeId) (s : State) (h : s.mem.wf = true) :
    Canonical (execMmInterrupt n s) := by
  unfold execMmInterrupt
  apply canonical_next
  simp only []
  (repeat' split) <;> simp_all

theorem execStreamPoint_canonical (k : Nat) (s : State) (h : s.mem.wf = true) :
    Canonical (execStreamPoint k s) := by
  unfold execStreamPoint
  (repeat' split) <;> first
    | exact canonical_fault _
    | exact canonical_refused _
    | (apply canonical_next; simp [h]; done)
    | (apply canonical_next; simp only []; (repeat' split) <;> simp_all)

theorem execWakeTokenArrival_canonical (tag : BitVec 16) (s : State) (h : s.mem.wf = true) :
    Canonical (execWakeTokenArrival tag s) := by
  unfold execWakeTokenArrival
  apply canonical_next
  simp only []
  (repeat' split) <;> simp_all

/-! ### Launch -/

theorem execKick_canonical (vf : Nat) (v : Word) (s : State) (h : s.mem.wf = true) :
    Canonical (execKick vf v s) := by
  unfold execKick
  apply canonical_next
  simp only []
  (repeat' split) <;> simp_all

theorem execLaunchSlotReread_canonical (vf : Nat) (s : State) (h : s.mem.wf = true) :
    Canonical (execLaunchSlotReread vf s) := by
  refine canonical_next ?_
  split
  · exact h
  · simp [h]

theorem execWakeMapped_canonical (vf : Nat) (tag : BitVec 16) (s : State) (h : s.mem.wf = true) :
    Canonical (execWakeMapped vf tag s) := by
  apply canonical_next
  simp [h]

theorem execWakeInvalid_canonical (vf : Nat) (tag : BitVec 16) (s : State) (h : s.mem.wf = true) :
    Canonical (execWakeInvalid vf tag s) := by
  apply canonical_next
  simp [h]

theorem execSuperGrant_canonical (vf : Nat) (stamp : BitVec 16) (units : BitVec 47) (s : State) (h : s.mem.wf = true) :
    Canonical (execSuperGrant vf stamp units s) := by
  apply canonical_next
  simp [h]

theorem execSuperEnd_canonical (vf : Nat) (stamp : BitVec 16) (units : BitVec 47) (s : State) (h : s.mem.wf = true) :
    Canonical (execSuperEnd vf stamp units s) := by
  unfold execSuperEnd
  simp only []
  (repeat' split) <;> first
    | exact canonical_fault _
    | exact canonical_refused _
    | (apply canonical_next; simp [h]; done)
    | (apply canonical_next; simp only []; (repeat' split) <;> simp_all)

theorem execTlbinvVa_canonical (vf : Nat) (v : Word) (s : State) (h : s.mem.wf = true) :
    Canonical (execTlbinvVa vf v s) := by
  exact canonical_next h

theorem execTlbinvAll_canonical (vf : Nat) (s : State) (h : s.mem.wf = true) :
    Canonical (execTlbinvAll vf s) := by
  exact canonical_next h

theorem execTlbinvDone_canonical (vf : Nat) (s : State) (h : s.mem.wf = true) :
    Canonical (execTlbinvDone vf s) := by
  unfold execTlbinvDone
  apply canonical_next
  simp only []
  (repeat' split) <;> simp_all

theorem execLrbaseWrite_canonical (vf : Nat) (v : Word) (s : State) (h : s.mem.wf = true) :
    Canonical (execLrbaseWrite vf v s) := by
  apply canonical_next
  simp [h]

theorem execCrbaseWrite_canonical (vf : Nat) (v : Word) (s : State) (h : s.mem.wf = true) :
    Canonical (execCrbaseWrite vf v s) := by
  apply canonical_next
  simp [h]

theorem execErbaseWrite_canonical (vf : Nat) (v : Word) (s : State) (h : s.mem.wf = true) :
    Canonical (execErbaseWrite vf v s) := by
  apply canonical_next
  simp [h]

/-! ### Registers -/

theorem execStatusRead_canonical (vf : Nat) (s : State) (h : s.mem.wf = true) :
    Canonical (execStatusRead vf s) := by
  exact canonical_next h

theorem execPferrRead_canonical (s : State) (h : s.mem.wf = true) :
    Canonical (execPferrRead s) := by
  exact canonical_next h

theorem execTenantRecordWrite_canonical (tag : Nat) (r : BitVec 512) (s : State) (h : s.mem.wf = true) :
    Canonical (execTenantRecordWrite tag r s) := by
  apply canonical_next
  simp [h]

theorem execWindowEntryWrite_canonical (bank : Nat) (entry : Nat) (v : BitVec 16) (s : State) (h : s.mem.wf = true) :
    Canonical (execWindowEntryWrite bank entry v s) := by
  apply canonical_next
  simp [h]

theorem execFilterEntryWrite_canonical (entry : Nat) (v : BitVec 128) (s : State) (h : s.mem.wf = true) :
    Canonical (execFilterEntryWrite entry v s) := by
  apply canonical_next
  simp [h]

theorem execFrameTableWrite_canonical (frame : Nat) (v : Byte) (s : State) (h : s.mem.wf = true) :
    Canonical (execFrameTableWrite frame v s) := by
  apply canonical_next
  simp [h]

theorem execRegisterWrite_canonical (fn : Nat) (off : Nat) (v : Word) (s : State) (h : s.mem.wf = true) :
    Canonical (execRegisterWrite fn off v s) := by
  unfold execRegisterWrite
  (repeat' split) <;> first
    | exact canonical_fault _
    | exact canonical_refused _
    | (apply canonical_next; simp [h]; done)
    | (apply canonical_next; simp only []; (repeat' split) <;> simp_all)

/-! ### HostAccess -/

theorem execHostRead_canonical (fn : Nat) (bar : Nat) (off : Nat) (size : Nat) (path : HostPath) (s : State) (h : s.mem.wf = true) :
    Canonical (execHostRead fn bar off size path s) := by
  apply canonical_next
  simp [h]

theorem execHostWrite_canonical (fn : Nat) (bar : Nat) (off : Nat) (data : List Byte) (path : HostPath) (s : State) (h : s.mem.wf = true) :
    Canonical (execHostWrite fn bar off data path s) := by
  apply canonical_next
  simp [h]

theorem execHostAtomic_canonical (fn : Nat) (bar : Nat) (off : Nat) (size : Nat) (op : HostAtomicOp) (v : Word) (c : Word) (path : HostPath) (s : State) (h : s.mem.wf = true) :
    Canonical (execHostAtomic fn bar off size op v c path s) := by
  apply canonical_next
  simp [h]

theorem execVfFlr_canonical (vf : Nat) (s : State) (h : s.mem.wf = true) :
    Canonical (execVfFlr vf s) := by
  apply canonical_next
  simp [h]

theorem execHostLinkRetrain_canonical (link : Nat) (up : Bool) (s : State) (h : s.mem.wf = true) :
    Canonical (execHostLinkRetrain link up s) :=
  canonical_next (by simp [h])

/-! ### Package -/

theorem execPowerGood_canonical (images : List FirmwareImage) (s : State) (h : s.mem.wf = true) :
    Canonical (execPowerGood images s) := by
  refine canonical_next ?_
  dsimp only
  split <;> rfl

theorem execPerstDeassert_canonical (s : State) (h : s.mem.wf = true) :
    Canonical (execPerstDeassert s) :=
  canonical_next (by simp [h])

theorem execConfigurationRequest_canonical (s : State) (h : s.mem.wf = true) :
    Canonical (execConfigurationRequest s) := by
  exact canonical_next h

theorem execMemoryTrained_canonical (u : TrainedUnit) (s : State) (h : s.mem.wf = true) :
    Canonical (execMemoryTrained u s) := by
  unfold execMemoryTrained
  apply canonical_next
  simp only []
  (repeat' split) <;> simp_all

theorem execBulkheadBringup_canonical (bh : Nat) (s : State) (h : s.mem.wf = true) :
    Canonical (execBulkheadBringup bh s) := by
  unfold execBulkheadBringup
  simp only []
  (repeat' split) <;> first
    | exact canonical_fault _
    | exact canonical_refused _
    | (apply canonical_next; simp [h]; done)
    | (apply canonical_next; simp only []; (repeat' split) <;> simp_all)

theorem execCxlFrameResident_canonical (frame : Nat) (s : State) (h : s.mem.wf = true) :
    Canonical (execCxlFrameResident frame s) := by
  unfold execCxlFrameResident
  (repeat' split) <;> first
    | exact canonical_fault _
    | exact canonical_refused _
    | (apply canonical_next; simp [h]; done)
    | (apply canonical_next; simp only []; (repeat' split) <;> simp_all)

theorem execCxlFrameLost_canonical (first : Nat) (n : Nat) (lasting : Bool) (s : State) (h : s.mem.wf = true) :
    Canonical (execCxlFrameLost first n lasting s) := by
  apply canonical_next
  simp [h]

theorem execCapMessage_canonical (m : Word) (s : State) (h : s.mem.wf = true) :
    Canonical (execCapMessage m s) := by
  unfold execCapMessage
  simp only []
  (repeat' split) <;> first
    | exact canonical_fault _
    | exact canonical_refused _
    | (apply canonical_next; simp [h]; done)
    | (apply canonical_next; simp only []; (repeat' split) <;> simp_all)

theorem execCapHorizonExpiry_canonical (s : State) (h : s.mem.wf = true) :
    Canonical (execCapHorizonExpiry s) := by
  unfold execCapHorizonExpiry
  (repeat' split) <;> first
    | exact canonical_fault _
    | exact canonical_refused _
    | (apply canonical_next; simp [h]; done)
    | (apply canonical_next; simp only []; (repeat' split) <;> simp_all)

theorem execCapScaleTick_canonical (millivolts : List Nat) (s : State) (h : s.mem.wf = true) :
    Canonical (execCapScaleTick millivolts s) := by
  refine canonical_next ?_
  dsimp only
  exact foldl_wf _ (fun s x h => by simp [h]) _ _ h

theorem execSensorSample_canonical (bh : Nat) (temps : List Int) (currents : List Int) (s : State) (h : s.mem.wf = true) :
    Canonical (execSensorSample bh temps currents s) := by
  unfold execSensorSample
  simp only []
  (repeat' split) <;> first
    | exact canonical_fault _
    | exact canonical_refused _
    | (apply canonical_next; simp [h]; done)
    | (apply canonical_next; simp only []; (repeat' split) <;> simp_all)

theorem execSpdmGetMeasurements_canonical (vf : Nat) (index : Nat) (s : State) (h : s.mem.wf = true) :
    Canonical (execSpdmGetMeasurements vf index s) := by
  unfold execSpdmGetMeasurements
  apply canonical_next
  simp only []
  (repeat' split) <;> simp_all

theorem execPldmBaseDiscovery_canonical (s : State) (h : s.mem.wf = true) :
    Canonical (execPldmBaseDiscovery s) := by
  exact canonical_next h

theorem execPldmSensorRead_canonical (k : Nat) (s : State) (h : s.mem.wf = true) :
    Canonical (execPldmSensorRead k s) := by
  unfold execPldmSensorRead
  (repeat' split) <;> first
    | exact canonical_fault _
    | exact canonical_refused _
    | (apply canonical_next; simp [h]; done)
    | (apply canonical_next; simp only []; (repeat' split) <;> simp_all)

theorem execPldmFirmwareUpdate_canonical (m : FirmwareImage) (s : State) (h : s.mem.wf = true) :
    Canonical (execPldmFirmwareUpdate m s) := by
  unfold execPldmFirmwareUpdate
  (repeat' split) <;> first
    | exact canonical_fault _
    | exact canonical_refused _
    | (apply canonical_next; simp [h]; done)
    | (apply canonical_next; simp only []; (repeat' split) <;> simp_all)

theorem execTdispRequest_canonical (vf : Nat) (m : TdispMsg) (s : State) (h : s.mem.wf = true) :
    Canonical (execTdispRequest vf m s) := by
  unfold execTdispRequest
  (repeat' split) <;> first
    | exact canonical_fault _
    | exact canonical_refused _
    | (apply canonical_next; simp [h]; done)
    | (apply canonical_next; simp only []; (repeat' split) <;> simp_all)

/-! ### Meter -/

theorem execAllowanceWindow_canonical (sheet : Nat) (s : State) (h : s.mem.wf = true) :
    Canonical (execAllowanceWindow sheet s) := by
  exact canonical_next h

theorem execRateWindowEnd_canonical (id : Nat) (s : State) (h : s.mem.wf = true) :
    Canonical (execRateWindowEnd id s) := by
  unfold execRateWindowEnd
  apply canonical_next
  simp only []
  (repeat' split) <;> simp_all

theorem execSlugTaken_canonical (id : Nat) (change : Nat) (s : State) (h : s.mem.wf = true) :
    Canonical (execSlugTaken id change s) := by
  unfold execSlugTaken
  apply canonical_next
  simp only []
  (repeat' split) <;> simp_all

/-! ### Schedule -/

theorem execRankRefresh_canonical (id : Nat) (s : State) (h : s.mem.wf = true) :
    Canonical (execRankRefresh id s) := by
  unfold execRankRefresh
  apply canonical_next
  simp only []
  (repeat' split) <;> simp_all

theorem execPhasePlace_canonical (die : Nat) (s : State) (h : s.mem.wf = true) :
    Canonical (execPhasePlace die s) := by
  unfold execPhasePlace
  (repeat' split) <;> first
    | exact canonical_fault _
    | exact canonical_refused _
    | (apply canonical_next; simp [h]; done)
    | (apply canonical_next; simp only []; (repeat' split) <;> simp_all)

theorem execTileConfigComplete_canonical (id : Nat) (sheet : Nat) (tile : Nat) (s : State) (h : s.mem.wf = true) :
    Canonical (execTileConfigComplete id sheet tile s) := by
  unfold execTileConfigComplete
  apply canonical_next
  simp only []
  (repeat' split) <;> simp_all

theorem execPhaseEnd_canonical (id : Nat) (s : State) (h : s.mem.wf = true) :
    Canonical (execPhaseEnd id s) := by
  unfold execPhaseEnd
  apply canonical_next
  simp only []
  (repeat' split) <;> simp_all

theorem execBackfillLimit_canonical (die : Nat) (s : State) (h : s.mem.wf = true) :
    Canonical (execBackfillLimit die s) := by
  unfold execBackfillLimit
  (repeat' split) <;> first
    | exact canonical_fault _
    | exact canonical_refused _
    | (apply canonical_next; simp [h]; done)
    | (apply canonical_next; simp only []; (repeat' split) <;> simp_all)

theorem execQuantumExhausted_canonical (slice : Nat) (s : State) (h : s.mem.wf = true) :
    Canonical (execQuantumExhausted slice s) := by
  unfold execQuantumExhausted
  (repeat' split) <;> first
    | exact canonical_fault _
    | exact canonical_refused _
    | (apply canonical_next; simp [h]; done)
    | (apply canonical_next; simp only []; (repeat' split) <;> simp_all)

theorem execWorkAllowanceDraw_canonical (sheet : Nat) (ctx : Nat) (s : State) (h : s.mem.wf = true) :
    Canonical (execWorkAllowanceDraw sheet ctx s) := by
  unfold execWorkAllowanceDraw
  apply canonical_next
  simp only []
  (repeat' split) <;> simp_all

theorem execBudgetReport_canonical (id : Nat) (s : State) (h : s.mem.wf = true) :
    Canonical (execBudgetReport id s) := by
  unfold execBudgetReport
  (repeat' split) <;> first
    | exact canonical_fault _
    | exact canonical_refused _
    | (apply canonical_next; simp [h]; done)
    | (apply canonical_next; simp only []; (repeat' split) <;> simp_all)

theorem execEnergyRefresh_canonical (id : Nat) (s : State) (h : s.mem.wf = true) :
    Canonical (execEnergyRefresh id s) := by
  unfold execEnergyRefresh
  apply canonical_next
  simp only []
  (repeat' split) <;> simp_all

theorem execCompletionRecordPost_canonical (vf : Nat) (s : State) (h : s.mem.wf = true) :
    Canonical (execCompletionRecordPost vf s) := by
  refine canonical_next ?_
  dsimp only
  split
  · exact h
  · rename_i c _ _
    have hw := State.writeRecordTo_wf s vf ((s.vf vf).crBase.toNat + 64 * (s.vf vf).crTail.toNat) (c.bytes (s.vf vf).crPhase) h
    generalize s.writeRecordTo vf ((s.vf vf).crBase.toNat + 64 * (s.vf vf).crTail.toNat) (c.bytes (s.vf vf).crPhase) = r at hw ⊢
    obtain ⟨u, b⟩ := r
    have hn : ∀ x (v : Vf), ((u.setVf vf v).signalVector vf x).mem.wf = true := fun x v => by simpa using hw
    cases b
    all_goals
      dsimp only
      repeat' split
      all_goals first | exact h | exact hw | exact hn _ _

theorem execEventRecordPost_canonical (vf : Nat) (s : State) (h : s.mem.wf = true) :
    Canonical (execEventRecordPost vf s) := by
  refine canonical_next ?_
  dsimp only
  split
  · exact h
  · rename_i c _ _
    have hw := State.writeRecordTo_wf s vf ((s.vf vf).erBase.toNat + 32 * (s.vf vf).erTail.toNat) (c.bytes (s.vf vf).erPhase s.time) h
    generalize s.writeRecordTo vf ((s.vf vf).erBase.toNat + 32 * (s.vf vf).erTail.toNat) (c.bytes (s.vf vf).erPhase s.time) = r at hw ⊢
    obtain ⟨u, b⟩ := r
    have hn : ∀ x (v : Vf), ((u.setVf vf v).signalVector vf x).mem.wf = true := fun x v => by simpa using hw
    cases b
    all_goals
      dsimp only
      repeat' split
      all_goals first | exact h | exact hw | exact hn _ _

/-! ### Recovery -/

theorem execWatchdogExpiry_canonical (id : Nat) (s : State) (h : s.mem.wf = true) :
    Canonical (execWatchdogExpiry id s) := by
  unfold execWatchdogExpiry
  apply canonical_next
  simp only []
  (repeat' split) <;> simp_all

theorem execReportDelivery_canonical (id : Nat) (s : State) (h : s.mem.wf = true) :
    Canonical (execReportDelivery id s) := by
  unfold execReportDelivery
  apply canonical_next
  simp only []
  (repeat' split) <;> simp_all

theorem execThawArrival_canonical (id : Nat) (sheet : Nat) (s : State) (h : s.mem.wf = true) :
    Canonical (execThawArrival id sheet s) := by
  apply canonical_next
  simp [h]

theorem execCutTimer_canonical (id : Nat) (s : State) (h : s.mem.wf = true) :
    Canonical (execCutTimer id s) := by
  unfold execCutTimer
  (repeat' split) <;> first
    | exact canonical_fault _
    | exact canonical_refused _
    | (apply canonical_next; simp [h]; done)
    | (apply canonical_next; simp only []; (repeat' split) <;> simp_all)

theorem execNodeSave_canonical (id : Nat) (n : NodeId) (s : State) (h : s.mem.wf = true) :
    Canonical (execNodeSave id n s) := by
  unfold execNodeSave
  apply canonical_next
  simp only []
  (repeat' split) <;> simp_all

theorem execTokenParityError_canonical (id : Nat) (site : FaultSite) (s : State) (h : s.mem.wf = true) :
    Canonical (execTokenParityError id site s) := by
  unfold execTokenParityError
  (repeat' split) <;> first
    | exact canonical_fault _
    | exact canonical_refused _
    | (apply canonical_next; simp [h]; done)
    | (apply canonical_next; simp only []; (repeat' split) <;> simp_all)

theorem execNodeMachineCheck_canonical (site : FaultSite) (s : State) (h : s.mem.wf = true) :
    Canonical (execNodeMachineCheck site s) := by
  apply canonical_next
  simp [h]

theorem execCutComplete_canonical (id : Nat) (failingLine : Option Nat) (s : State) (h : s.mem.wf = true) :
    Canonical (execCutComplete id failingLine s) := by
  unfold execCutComplete
  (repeat' split) <;> first
    | exact canonical_fault _
    | exact canonical_refused _
    | (apply canonical_next; simp [h]; done)
    | (apply canonical_next; simp only []; (repeat' split) <;> simp_all)

theorem execRollbackRestoreDone_canonical (id : Nat) (areaFails : Bool) (s : State) (h : s.mem.wf = true) :
    Canonical (execRollbackRestoreDone id areaFails s) := by
  unfold execRollbackRestoreDone
  (repeat' split) <;> first
    | exact canonical_fault _
    | exact canonical_refused _
    | (apply canonical_next; simp [h]; done)
    | (apply canonical_next; simp only []; (repeat' split) <;> simp_all)

/-! ### SeqAlu -/

theorem execAdd_canonical (d : Reg) (a : Reg) (b : Reg) (s : State) (h : s.mem.wf = true) :
    Canonical (execAdd d a b s) := by
  exact canonical_next h

theorem execSub_canonical (d : Reg) (a : Reg) (b : Reg) (s : State) (h : s.mem.wf = true) :
    Canonical (execSub d a b s) := by
  exact canonical_next h

theorem execAnd_canonical (d : Reg) (a : Reg) (b : Reg) (s : State) (h : s.mem.wf = true) :
    Canonical (execAnd d a b s) := by
  exact canonical_next h

theorem execOr_canonical (d : Reg) (a : Reg) (b : Reg) (s : State) (h : s.mem.wf = true) :
    Canonical (execOr d a b s) := by
  exact canonical_next h

theorem execXor_canonical (d : Reg) (a : Reg) (b : Reg) (s : State) (h : s.mem.wf = true) :
    Canonical (execXor d a b s) := by
  exact canonical_next h

theorem execShl_canonical (d : Reg) (a : Reg) (b : Reg) (s : State) (h : s.mem.wf = true) :
    Canonical (execShl d a b s) := by
  exact canonical_next h

theorem execShr_canonical (d : Reg) (a : Reg) (b : Reg) (s : State) (h : s.mem.wf = true) :
    Canonical (execShr d a b s) := by
  exact canonical_next h

theorem execSra_canonical (d : Reg) (a : Reg) (b : Reg) (s : State) (h : s.mem.wf = true) :
    Canonical (execSra d a b s) := by
  exact canonical_next h

theorem execMul_canonical (d : Reg) (a : Reg) (b : Reg) (s : State) (h : s.mem.wf = true) :
    Canonical (execMul d a b s) := by
  exact canonical_next h

theorem execMulh_canonical (d : Reg) (a : Reg) (b : Reg) (s : State) (h : s.mem.wf = true) :
    Canonical (execMulh d a b s) := by
  exact canonical_next h

theorem execMulhu_canonical (d : Reg) (a : Reg) (b : Reg) (s : State) (h : s.mem.wf = true) :
    Canonical (execMulhu d a b s) := by
  exact canonical_next h

theorem execDiv_canonical (d : Reg) (a : Reg) (b : Reg) (s : State) (h : s.mem.wf = true) :
    Canonical (execDiv d a b s) := by
  exact canonical_next h

theorem execDivu_canonical (d : Reg) (a : Reg) (b : Reg) (s : State) (h : s.mem.wf = true) :
    Canonical (execDivu d a b s) := by
  exact canonical_next h

theorem execRem_canonical (d : Reg) (a : Reg) (b : Reg) (s : State) (h : s.mem.wf = true) :
    Canonical (execRem d a b s) := by
  exact canonical_next h

theorem execRemu_canonical (d : Reg) (a : Reg) (b : Reg) (s : State) (h : s.mem.wf = true) :
    Canonical (execRemu d a b s) := by
  exact canonical_next h

theorem execMin_canonical (d : Reg) (a : Reg) (b : Reg) (s : State) (h : s.mem.wf = true) :
    Canonical (execMin d a b s) := by
  exact canonical_next h

theorem execMax_canonical (d : Reg) (a : Reg) (b : Reg) (s : State) (h : s.mem.wf = true) :
    Canonical (execMax d a b s) := by
  exact canonical_next h

theorem execMinu_canonical (d : Reg) (a : Reg) (b : Reg) (s : State) (h : s.mem.wf = true) :
    Canonical (execMinu d a b s) := by
  exact canonical_next h

theorem execMaxu_canonical (d : Reg) (a : Reg) (b : Reg) (s : State) (h : s.mem.wf = true) :
    Canonical (execMaxu d a b s) := by
  exact canonical_next h

theorem execSlt_canonical (d : Reg) (a : Reg) (b : Reg) (s : State) (h : s.mem.wf = true) :
    Canonical (execSlt d a b s) := by
  exact canonical_next h

theorem execSltu_canonical (d : Reg) (a : Reg) (b : Reg) (s : State) (h : s.mem.wf = true) :
    Canonical (execSltu d a b s) := by
  exact canonical_next h

theorem execClz_canonical (d : Reg) (a : Reg) (s : State) (h : s.mem.wf = true) :
    Canonical (execClz d a s) := by
  exact canonical_next h

theorem execPopc_canonical (d : Reg) (a : Reg) (s : State) (h : s.mem.wf = true) :
    Canonical (execPopc d a s) := by
  exact canonical_next h

theorem execAddi_canonical (d : Reg) (a : Reg) (i : BitVec 16) (s : State) (h : s.mem.wf = true) :
    Canonical (execAddi d a i s) := by
  exact canonical_next h

theorem execAndi_canonical (d : Reg) (a : Reg) (i : BitVec 16) (s : State) (h : s.mem.wf = true) :
    Canonical (execAndi d a i s) := by
  exact canonical_next h

theorem execOri_canonical (d : Reg) (a : Reg) (i : BitVec 16) (s : State) (h : s.mem.wf = true) :
    Canonical (execOri d a i s) := by
  exact canonical_next h

theorem execXori_canonical (d : Reg) (a : Reg) (i : BitVec 16) (s : State) (h : s.mem.wf = true) :
    Canonical (execXori d a i s) := by
  exact canonical_next h

theorem execSlti_canonical (d : Reg) (a : Reg) (i : BitVec 16) (s : State) (h : s.mem.wf = true) :
    Canonical (execSlti d a i s) := by
  exact canonical_next h

theorem execShli_canonical (d : Reg) (a : Reg) (sh : BitVec 6) (s : State) (h : s.mem.wf = true) :
    Canonical (execShli d a sh s) := by
  exact canonical_next h

theorem execShri_canonical (d : Reg) (a : Reg) (sh : BitVec 6) (s : State) (h : s.mem.wf = true) :
    Canonical (execShri d a sh s) := by
  exact canonical_next h

theorem execSrai_canonical (d : Reg) (a : Reg) (sh : BitVec 6) (s : State) (h : s.mem.wf = true) :
    Canonical (execSrai d a sh s) := by
  exact canonical_next h

theorem execLui_canonical (d : Reg) (i : BitVec 16) (s : State) (h : s.mem.wf = true) :
    Canonical (execLui d i s) := by
  exact canonical_next h

/-! ### Shared -/

theorem execScrubLine_canonical (loc : Nat) (find : ScrubFind) (s : State) (h : s.mem.wf = true) :
    Canonical (execScrubLine loc find s) := by
  unfold execScrubLine
  (repeat' split) <;> first
    | exact canonical_fault _
    | exact canonical_refused _
    | (apply canonical_next; simp [h]; done)
    | (apply canonical_next; simp only []; (repeat' split) <;> simp_all)

theorem execMmResume_canonical (n : NodeId) (s : State) (h : s.mem.wf = true) :
    Canonical (execMmResume n s) := by
  unfold execMmResume
  apply canonical_next
  simp only []
  (repeat' split) <;> simp_all

theorem execSharedUnitFault_canonical (u : SharedUnit) (again : Bool) (s : State) (h : s.mem.wf = true) :
    Canonical (execSharedUnitFault u again s) := by
  unfold execSharedUnitFault
  apply canonical_next
  simp only []
  (repeat' split) <;> simp_all

end Sys2Proof.Machine
end

