-- ==== Sys2Proof/Laws/Encoding.lean ====
section
/-! SUPPORT. The fields of the words the encoder builds: what each decoder reads back from them (R57, R58, R62, R65, R67). -/

namespace Sys2Proof

set_option Elab.async false

/-! ### Bytes -/

/-- The word of a word's bytes. -/
@[simp] theorem wordOfBytes_bytesOfWord (w : W32) :
    wordOfBytes (w.extractLsb' 0 8) (w.extractLsb' 8 8) (w.extractLsb' 16 8) (w.extractLsb' 24 8) = w := by
  unfold wordOfBytes
  apply BitVec.eq_of_getLsbD_eq
  intro i hi
  simp only [BitVec.getLsbD_extractLsb', BitVec.getLsbD_append]
  repeat' split
  · simp [*]
  · rw [show 8 + (i - 8) = i by omega]; simp; omega
  · rw [show 16 + (i - 8 - 8) = i by omega]; simp; omega
  · rw [show 24 + (i - 8 - 8 - 8) = i by omega]; simp; omega

/-- The word a list of bytes begins with. -/
@[simp] theorem takeWord_bytesOfWord (w : W32) (rest : List Byte) : takeWord (bytesOfWord w ++ rest) = some (w, rest) := by
  simp [bytesOfWord, takeWord]

/-! ### Sequencer words -/

@[simp] theorem fieldFn_encSR (op : BitVec 6) (d a b : Reg) (fn : BitVec 11) : fieldFn (encSR op d a b fn) = fn := by
  unfold fieldFn encSR
  apply BitVec.eq_of_getLsbD_eq
  intro i hi
  simp only [BitVec.getLsbD_extractLsb', BitVec.getLsbD_append, hi, decide_true, Bool.true_and]
  rw [if_pos (by omega), show 0 + i = i by omega]

@[simp] theorem fieldB_encSR (op : BitVec 6) (d a b : Reg) (fn : BitVec 11) : fieldB (encSR op d a b fn) = b := by
  unfold fieldB encSR
  apply BitVec.eq_of_getLsbD_eq
  intro i hi
  simp only [BitVec.getLsbD_extractLsb', BitVec.getLsbD_append, hi, decide_true, Bool.true_and]
  rw [if_neg (by omega), if_pos (by omega), show 11 + i - 11 = i by omega]

@[simp] theorem fieldA_encSR (op : BitVec 6) (d a b : Reg) (fn : BitVec 11) : fieldA (encSR op d a b fn) = a := by
  unfold fieldA encSR
  apply BitVec.eq_of_getLsbD_eq
  intro i hi
  simp only [BitVec.getLsbD_extractLsb', BitVec.getLsbD_append, hi, decide_true, Bool.true_and]
  rw [if_neg (by omega), if_neg (by omega), if_pos (by omega), show 16 + i - 11 - 5 = i by omega]

@[simp] theorem fieldD_encSR (op : BitVec 6) (d a b : Reg) (fn : BitVec 11) : fieldD (encSR op d a b fn) = d := by
  unfold fieldD encSR
  apply BitVec.eq_of_getLsbD_eq
  intro i hi
  simp only [BitVec.getLsbD_extractLsb', BitVec.getLsbD_append, hi, decide_true, Bool.true_and]
  repeat rw [if_neg (by omega)]
  rw [if_pos (by omega), show 21 + i - 11 - 5 - 5 = i by omega]

@[simp] theorem opField_encSR (op : BitVec 6) (d a b : Reg) (fn : BitVec 11) : (encSR op d a b fn).extractLsb' 26 6 = op := by
  unfold encSR
  apply BitVec.eq_of_getLsbD_eq
  intro i hi
  simp only [BitVec.getLsbD_extractLsb', BitVec.getLsbD_append, hi, decide_true, Bool.true_and]
  repeat rw [if_neg (by omega)]
  rw [show 26 + i - 11 - 5 - 5 - 5 = i by omega]

@[simp] theorem majorOf_encSR (op : BitVec 6) (d a b : Reg) (fn : BitVec 11) : majorOf (encSR op d a b fn) = op.toNat := by
  simp [majorOf]

@[simp] theorem fieldImm_encSR (op : BitVec 6) (d a b : Reg) (fn : BitVec 11) : fieldImm (encSR op d a b fn) = b ++ fn := by
  unfold fieldImm encSR
  apply BitVec.eq_of_getLsbD_eq
  intro i hi
  simp only [BitVec.getLsbD_extractLsb', BitVec.getLsbD_append, hi, decide_true, Bool.true_and, Nat.zero_add]
  split
  · rfl
  · rw [if_pos (by omega)]

@[simp] theorem fieldImm_encSI (op : BitVec 6) (d a : Reg) (x : BitVec 16) : fieldImm (encSI op d a x) = x := by
  unfold fieldImm encSI
  apply BitVec.eq_of_getLsbD_eq
  intro i hi
  simp only [BitVec.getLsbD_extractLsb', BitVec.getLsbD_append, hi, decide_true, Bool.true_and]
  rw [if_pos (by omega), show 0 + i = i by omega]

@[simp] theorem fieldA_encSI (op : BitVec 6) (d a : Reg) (x : BitVec 16) : fieldA (encSI op d a x) = a := by
  unfold fieldA encSI
  apply BitVec.eq_of_getLsbD_eq
  intro i hi
  simp only [BitVec.getLsbD_extractLsb', BitVec.getLsbD_append, hi, decide_true, Bool.true_and]
  rw [if_neg (by omega), if_pos (by omega), show 16 + i - 16 = i by omega]

@[simp] theorem fieldD_encSI (op : BitVec 6) (d a : Reg) (x : BitVec 16) : fieldD (encSI op d a x) = d := by
  unfold fieldD encSI
  apply BitVec.eq_of_getLsbD_eq
  intro i hi
  simp only [BitVec.getLsbD_extractLsb', BitVec.getLsbD_append, hi, decide_true, Bool.true_and]
  rw [if_neg (by omega), if_neg (by omega), if_pos (by omega), show 21 + i - 16 - 5 = i by omega]

@[simp] theorem opField_encSI (op : BitVec 6) (d a : Reg) (x : BitVec 16) : (encSI op d a x).extractLsb' 26 6 = op := by
  unfold encSI
  apply BitVec.eq_of_getLsbD_eq
  intro i hi
  simp only [BitVec.getLsbD_extractLsb', BitVec.getLsbD_append, hi, decide_true, Bool.true_and]
  repeat rw [if_neg (by omega)]
  rw [show 26 + i - 16 - 5 - 5 = i by omega]

@[simp] theorem majorOf_encSI (op : BitVec 6) (d a : Reg) (x : BitVec 16) : majorOf (encSI op d a x) = op.toNat := by
  simp [majorOf]

@[simp] theorem shiftLow_encSI (op : BitVec 6) (d a : Reg) (sh : BitVec 6) : (encSI op d a (0#10 ++ sh)).extractLsb' 0 6 = sh := by
  unfold encSI
  apply BitVec.eq_of_getLsbD_eq
  intro i hi
  simp only [BitVec.getLsbD_extractLsb', BitVec.getLsbD_append, hi, decide_true, Bool.true_and]
  rw [if_pos (by omega), if_pos (by omega), show 0 + i = i by omega]

@[simp] theorem shiftHigh_encSI (op : BitVec 6) (d a : Reg) (sh : BitVec 6) : (encSI op d a (0#10 ++ sh)).extractLsb' 6 10 = 0#10 := by
  unfold encSI
  apply BitVec.eq_of_getLsbD_eq
  intro i hi
  simp only [BitVec.getLsbD_extractLsb', BitVec.getLsbD_append, hi, decide_true, Bool.true_and]
  rw [if_pos (by omega), if_neg (by omega), show 6 + i - 6 = i by omega]

@[simp] theorem fieldOff26_encSJ (op : BitVec 6) (o : BitVec 26) : fieldOff26 (encSJ op o) = o := by
  unfold fieldOff26 encSJ
  apply BitVec.eq_of_getLsbD_eq
  intro i hi
  simp only [BitVec.getLsbD_extractLsb', BitVec.getLsbD_append, hi, decide_true, Bool.true_and]
  rw [if_pos (by omega), show 0 + i = i by omega]

@[simp] theorem opField_encSJ (op : BitVec 6) (o : BitVec 26) : (encSJ op o).extractLsb' 26 6 = op := by
  unfold encSJ
  apply BitVec.eq_of_getLsbD_eq
  intro i hi
  simp only [BitVec.getLsbD_extractLsb', BitVec.getLsbD_append, hi, decide_true, Bool.true_and]
  rw [if_neg (by omega), show 26 + i - 26 = i by omega]

@[simp] theorem majorOf_encSJ (op : BitVec 6) (o : BitVec 26) : majorOf (encSJ op o) = op.toNat := by
  simp [majorOf]

@[simp] theorem fieldB_encSX (op : BitVec 6) (d a b : Reg) (sub : BitVec 3) : fieldB (encSX op d a b sub) = b := by
  unfold fieldB encSX
  apply BitVec.eq_of_getLsbD_eq
  intro i hi
  simp only [BitVec.getLsbD_extractLsb', BitVec.getLsbD_append, hi, decide_true, Bool.true_and]
  rw [if_neg (by omega), if_neg (by omega), if_pos (by omega), show 11 + i - 3 - 8 = i by omega]

@[simp] theorem fieldA_encSX (op : BitVec 6) (d a b : Reg) (sub : BitVec 3) : fieldA (encSX op d a b sub) = a := by
  unfold fieldA encSX
  apply BitVec.eq_of_getLsbD_eq
  intro i hi
  simp only [BitVec.getLsbD_extractLsb', BitVec.getLsbD_append, hi, decide_true, Bool.true_and]
  repeat rw [if_neg (by omega)]
  rw [if_pos (by omega), show 16 + i - 3 - 8 - 5 = i by omega]

@[simp] theorem fieldD_encSX (op : BitVec 6) (d a b : Reg) (sub : BitVec 3) : fieldD (encSX op d a b sub) = d := by
  unfold fieldD encSX
  apply BitVec.eq_of_getLsbD_eq
  intro i hi
  simp only [BitVec.getLsbD_extractLsb', BitVec.getLsbD_append, hi, decide_true, Bool.true_and]
  repeat rw [if_neg (by omega)]
  rw [if_pos (by omega), show 21 + i - 3 - 8 - 5 - 5 = i by omega]

@[simp] theorem subField_encSX (op : BitVec 6) (d a b : Reg) (sub : BitVec 3) : (encSX op d a b sub).extractLsb' 0 3 = sub := by
  unfold encSX
  apply BitVec.eq_of_getLsbD_eq
  intro i hi
  simp only [BitVec.getLsbD_extractLsb', BitVec.getLsbD_append, hi, decide_true, Bool.true_and]
  rw [if_pos (by omega), show 0 + i = i by omega]

@[simp] theorem fieldSub_encSX (op : BitVec 6) (d a b : Reg) (sub : BitVec 3) : fieldSub (encSX op d a b sub) = sub.toNat := by
  simp [fieldSub]

@[simp] theorem zero_encSX (op : BitVec 6) (d a b : Reg) (sub : BitVec 3) : (encSX op d a b sub).extractLsb' 3 8 = 0#8 := by
  unfold encSX
  apply BitVec.eq_of_getLsbD_eq
  intro i hi
  simp only [BitVec.getLsbD_extractLsb', BitVec.getLsbD_append, hi, decide_true, Bool.true_and]
  rw [if_neg (by omega), if_pos (by omega), show 3 + i - 3 = i by omega]

@[simp] theorem opField_encSX (op : BitVec 6) (d a b : Reg) (sub : BitVec 3) : (encSX op d a b sub).extractLsb' 26 6 = op := by
  unfold encSX
  apply BitVec.eq_of_getLsbD_eq
  intro i hi
  simp only [BitVec.getLsbD_extractLsb', BitVec.getLsbD_append, hi, decide_true, Bool.true_and]
  repeat rw [if_neg (by omega)]
  rw [show 26 + i - 3 - 8 - 5 - 5 - 5 = i by omega]

@[simp] theorem majorOf_encSX (op : BitVec 6) (d a b : Reg) (sub : BitVec 3) : majorOf (encSX op d a b sub) = op.toNat := by
  simp [majorOf]

/-! ### Words with layouts of their own -/

/-- The word of a control-register instruction (R64). -/
def csrWord (w : BitVec 1) (r : Reg) (c : BitVec 16) : W32 := 0x3E#6 ++ w ++ r ++ 0#4 ++ c

/-- The word of a program trap (R65). -/
def trapWord (c : BitVec 16) : W32 := 0x3F#6 ++ c ++ 0#7 ++ 0#3

/-- The attribute word of a memory pair (R62). -/
def attrWord (wd : Width) (ord : MemOrd) (sc : Scope) (afn : BitVec 3) (gb : Reg) : W32 :=
  0#16 ++ wd.code ++ ord.code ++ sc.code ++ afn ++ 0#1 ++ gb

@[simp] theorem csrField_csrWord (w : BitVec 1) (r : Reg) (c : BitVec 16) : (csrWord w r c).extractLsb' 0 16 = c := by
  unfold csrWord
  apply BitVec.eq_of_getLsbD_eq
  intro i hi
  simp only [BitVec.getLsbD_extractLsb', BitVec.getLsbD_append, hi, decide_true, Bool.true_and]
  rw [if_pos (by omega), show 0 + i = i by omega]

@[simp] theorem zero_csrWord (w : BitVec 1) (r : Reg) (c : BitVec 16) : (csrWord w r c).extractLsb' 16 4 = 0#4 := by
  unfold csrWord
  apply BitVec.eq_of_getLsbD_eq
  intro i hi
  simp only [BitVec.getLsbD_extractLsb', BitVec.getLsbD_append, hi, decide_true, Bool.true_and]
  rw [if_neg (by omega), if_pos (by omega), show 16 + i - 16 = i by omega]

@[simp] theorem reg_csrWord (w : BitVec 1) (r : Reg) (c : BitVec 16) : (csrWord w r c).extractLsb' 20 5 = r := by
  unfold csrWord
  apply BitVec.eq_of_getLsbD_eq
  intro i hi
  simp only [BitVec.getLsbD_extractLsb', BitVec.getLsbD_append, hi, decide_true, Bool.true_and]
  rw [if_neg (by omega), if_neg (by omega), if_pos (by omega), show 20 + i - 16 - 4 = i by omega]

@[simp] theorem write_csrWord (w : BitVec 1) (r : Reg) (c : BitVec 16) : (csrWord w r c).extractLsb' 25 1 = w := by
  unfold csrWord
  apply BitVec.eq_of_getLsbD_eq
  intro i hi
  simp only [BitVec.getLsbD_extractLsb', BitVec.getLsbD_append, hi, decide_true, Bool.true_and]
  repeat rw [if_neg (by omega)]
  rw [if_pos (by omega), show 25 + i - 16 - 4 - 5 = i by omega]

@[simp] theorem opField_csrWord (w : BitVec 1) (r : Reg) (c : BitVec 16) : (csrWord w r c).extractLsb' 26 6 = 0x3E#6 := by
  unfold csrWord
  apply BitVec.eq_of_getLsbD_eq
  intro i hi
  simp only [BitVec.getLsbD_extractLsb', BitVec.getLsbD_append, hi, decide_true, Bool.true_and]
  repeat rw [if_neg (by omega)]
  rw [show 26 + i - 16 - 4 - 5 - 1 = i by omega]

@[simp] theorem majorOf_csrWord (w : BitVec 1) (r : Reg) (c : BitVec 16) : majorOf (csrWord w r c) = 0x3E := by
  simp [majorOf]

@[simp] theorem fieldImm_csrWord (w : BitVec 1) (r : Reg) (c : BitVec 16) : fieldImm (csrWord w r c) = c := by
  simp [fieldImm]

theorem flag_csrWord (w : BitVec 1) (r : Reg) (c : BitVec 16) : (csrWord w r c).getLsbD 25 = w.getLsbD 0 := by
  unfold csrWord
  simp only [BitVec.getLsbD_append]
  repeat rw [if_neg (by omega)]
  rw [if_pos (by omega)]

@[simp] theorem sub_trapWord (c : BitVec 16) : (trapWord c).extractLsb' 0 3 = 0#3 := by
  unfold trapWord
  apply BitVec.eq_of_getLsbD_eq
  intro i hi
  simp only [BitVec.getLsbD_extractLsb', BitVec.getLsbD_append, hi, decide_true, Bool.true_and]
  rw [if_pos (by omega), show 0 + i = i by omega]

@[simp] theorem zero_trapWord (c : BitVec 16) : (trapWord c).extractLsb' 3 7 = 0#7 := by
  unfold trapWord
  apply BitVec.eq_of_getLsbD_eq
  intro i hi
  simp only [BitVec.getLsbD_extractLsb', BitVec.getLsbD_append, hi, decide_true, Bool.true_and]
  rw [if_neg (by omega), if_pos (by omega), show 3 + i - 3 = i by omega]

@[simp] theorem code_trapWord (c : BitVec 16) : (trapWord c).extractLsb' 10 16 = c := by
  unfold trapWord
  apply BitVec.eq_of_getLsbD_eq
  intro i hi
  simp only [BitVec.getLsbD_extractLsb', BitVec.getLsbD_append, hi, decide_true, Bool.true_and]
  rw [if_neg (by omega), if_neg (by omega), if_pos (by omega), show 10 + i - 3 - 7 = i by omega]

@[simp] theorem opField_trapWord (c : BitVec 16) : (trapWord c).extractLsb' 26 6 = 0x3F#6 := by
  unfold trapWord
  apply BitVec.eq_of_getLsbD_eq
  intro i hi
  simp only [BitVec.getLsbD_extractLsb', BitVec.getLsbD_append, hi, decide_true, Bool.true_and]
  repeat rw [if_neg (by omega)]
  rw [show 26 + i - 3 - 7 - 16 = i by omega]

@[simp] theorem majorOf_trapWord (c : BitVec 16) : majorOf (trapWord c) = 0x3F := by
  simp [majorOf]

@[simp] theorem fieldSub_trapWord (c : BitVec 16) : fieldSub (trapWord c) = 0 := by
  simp [fieldSub]

@[simp] theorem gb_attrWord (wd : Width) (ord : MemOrd) (sc : Scope) (afn : BitVec 3) (gb : Reg) : (attrWord wd ord sc afn gb).extractLsb' 0 5 = gb := by
  unfold attrWord
  apply BitVec.eq_of_getLsbD_eq
  intro i hi
  simp only [BitVec.getLsbD_extractLsb', BitVec.getLsbD_append, hi, decide_true, Bool.true_and]
  rw [if_pos (by omega), show 0 + i = i by omega]

@[simp] theorem bit5_attrWord (wd : Width) (ord : MemOrd) (sc : Scope) (afn : BitVec 3) (gb : Reg) : (attrWord wd ord sc afn gb).extractLsb' 5 1 = 0#1 := by
  unfold attrWord
  apply BitVec.eq_of_getLsbD_eq
  intro i hi
  simp only [BitVec.getLsbD_extractLsb', BitVec.getLsbD_append, hi, decide_true, Bool.true_and]
  rw [if_neg (by omega), if_pos (by omega), show 5 + i - 5 = i by omega]

@[simp] theorem afn_attrWord (wd : Width) (ord : MemOrd) (sc : Scope) (afn : BitVec 3) (gb : Reg) : (attrWord wd ord sc afn gb).extractLsb' 6 3 = afn := by
  unfold attrWord
  apply BitVec.eq_of_getLsbD_eq
  intro i hi
  simp only [BitVec.getLsbD_extractLsb', BitVec.getLsbD_append, hi, decide_true, Bool.true_and]
  rw [if_neg (by omega), if_neg (by omega), if_pos (by omega), show 6 + i - 5 - 1 = i by omega]

@[simp] theorem scope_attrWord (wd : Width) (ord : MemOrd) (sc : Scope) (afn : BitVec 3) (gb : Reg) : (attrWord wd ord sc afn gb).extractLsb' 9 3 = sc.code := by
  unfold attrWord
  apply BitVec.eq_of_getLsbD_eq
  intro i hi
  simp only [BitVec.getLsbD_extractLsb', BitVec.getLsbD_append, hi, decide_true, Bool.true_and]
  repeat rw [if_neg (by omega)]
  rw [if_pos (by omega), show 9 + i - 5 - 1 - 3 = i by omega]

@[simp] theorem ord_attrWord (wd : Width) (ord : MemOrd) (sc : Scope) (afn : BitVec 3) (gb : Reg) : (attrWord wd ord sc afn gb).extractLsb' 12 2 = ord.code := by
  unfold attrWord
  apply BitVec.eq_of_getLsbD_eq
  intro i hi
  simp only [BitVec.getLsbD_extractLsb', BitVec.getLsbD_append, hi, decide_true, Bool.true_and]
  repeat rw [if_neg (by omega)]
  rw [if_pos (by omega), show 12 + i - 5 - 1 - 3 - 3 = i by omega]

@[simp] theorem width_attrWord (wd : Width) (ord : MemOrd) (sc : Scope) (afn : BitVec 3) (gb : Reg) : (attrWord wd ord sc afn gb).extractLsb' 14 2 = wd.code := by
  unfold attrWord
  apply BitVec.eq_of_getLsbD_eq
  intro i hi
  simp only [BitVec.getLsbD_extractLsb', BitVec.getLsbD_append, hi, decide_true, Bool.true_and]
  repeat rw [if_neg (by omega)]
  rw [if_pos (by omega), show 14 + i - 5 - 1 - 3 - 3 - 2 = i by omega]

@[simp] theorem high_attrWord (wd : Width) (ord : MemOrd) (sc : Scope) (afn : BitVec 3) (gb : Reg) : (attrWord wd ord sc afn gb).extractLsb' 16 16 = 0#16 := by
  unfold attrWord
  apply BitVec.eq_of_getLsbD_eq
  intro i hi
  simp only [BitVec.getLsbD_extractLsb', BitVec.getLsbD_append, hi, decide_true, Bool.true_and]
  repeat rw [if_neg (by omega)]
  rw [show 16 + i - 5 - 1 - 3 - 3 - 2 - 2 = i by omega]

@[simp] theorem widthOf_code (wd : Width) : widthOf wd.code = wd := by cases wd <;> rfl

@[simp] theorem ordOf_code (o : MemOrd) : ordOf o.code = some o := by cases o <;> rfl

@[simp] theorem scopeOf_code (s : Scope) : scopeOf s.code = some s := by cases s <;> rfl

@[simp] theorem amoFnOf_code (f : AmoFn) : amoFnOf f.code = some f := by cases f <;> rfl

@[simp] theorem amoFnOf_zero : amoFnOf 0#3 = some .add := rfl

/-! ### Modifier fields -/

@[simp] theorem mod3_low (v : BitVec 3) : (mod3 v).extractLsb' 0 3 = v := by
  unfold mod3
  apply BitVec.eq_of_getLsbD_eq
  intro i hi
  simp only [BitVec.getLsbD_extractLsb', BitVec.getLsbD_append, hi, decide_true, Bool.true_and]
  rw [if_pos (by omega), show 0 + i = i by omega]

@[simp] theorem mod3_toNat (v : BitVec 3) : (mod3 v).toNat = v.toNat := by
  revert v
  decide

@[simp] theorem bits3_lt (v : BitVec 3) : (8 ≤ v.toNat) = False := by
  have h := v.isLt
  simp only [eq_iff_iff, iff_false]
  omega

/-- The modifier of a lane choice (R69). -/
def mod2 (v : BitVec 2) : BitVec 5 := 0#3 ++ v

@[simp] theorem mod2_low (v : BitVec 2) : (mod2 v).extractLsb' 0 2 = v := by
  revert v
  decide

@[simp] theorem mod2_lt (v : BitVec 2) : (4 ≤ (mod2 v).toNat) = False := by
  revert v
  decide

/-- The modifier of a conversion: the saturation flag over the tag (R69). -/
def modSat (sat : Bool) (tag : BitVec 3) : BitVec 5 := 0#1 ++ bit1 sat ++ tag

@[simp] theorem modSat_tag (sat : Bool) (tag : BitVec 3) : (modSat sat tag).extractLsb' 0 3 = tag := by
  unfold modSat
  apply BitVec.eq_of_getLsbD_eq
  intro i hi
  simp only [BitVec.getLsbD_extractLsb', BitVec.getLsbD_append, hi, decide_true, Bool.true_and]
  rw [if_pos (by omega), show 0 + i = i by omega]

theorem modSat_flag (sat : Bool) (tag : BitVec 3) : (modSat sat tag).getLsbD 3 = sat := by
  unfold modSat bit1
  simp only [BitVec.getLsbD_append]
  rw [if_neg (by omega), if_pos (by omega)]
  cases sat <;> rfl

@[simp] theorem modSat_lt (sat : Bool) (tag : BitVec 3) : (16 ≤ (modSat sat tag).toNat) = False := by
  revert sat tag
  decide

/-! ### Op words -/

@[simp] theorem z_encOp (op : BitVec 6) (a b c : Src) (d : Dst) (n : BitVec 4) (m : BitVec 5) (e : Bool) : (encOp op a b c d n m e).extractLsb' 0 4 = 0#4 := by
  unfold encOp
  apply BitVec.eq_of_getLsbD_eq
  intro i hi
  simp only [BitVec.getLsbD_extractLsb', BitVec.getLsbD_append, hi, decide_true, Bool.true_and]
  rw [if_pos (by omega), show 0 + i = i by omega]

@[simp] theorem m_encOp (op : BitVec 6) (a b c : Src) (d : Dst) (n : BitVec 4) (m : BitVec 5) (e : Bool) : (encOp op a b c d n m e).extractLsb' 5 5 = m := by
  unfold encOp
  apply BitVec.eq_of_getLsbD_eq
  intro i hi
  simp only [BitVec.getLsbD_extractLsb', BitVec.getLsbD_append, hi, decide_true, Bool.true_and]
  rw [if_neg (by omega), if_neg (by omega), if_pos (by omega), show 5 + i - 4 - 1 = i by omega]

@[simp] theorem n_encOp (op : BitVec 6) (a b c : Src) (d : Dst) (n : BitVec 4) (m : BitVec 5) (e : Bool) : (encOp op a b c d n m e).extractLsb' 10 4 = n := by
  unfold encOp
  apply BitVec.eq_of_getLsbD_eq
  intro i hi
  simp only [BitVec.getLsbD_extractLsb', BitVec.getLsbD_append, hi, decide_true, Bool.true_and]
  repeat rw [if_neg (by omega)]
  rw [if_pos (by omega), show 10 + i - 4 - 1 - 5 = i by omega]

@[simp] theorem d_encOp (op : BitVec 6) (a b c : Src) (d : Dst) (n : BitVec 4) (m : BitVec 5) (e : Bool) : (encOp op a b c d n m e).extractLsb' 14 3 = d := by
  unfold encOp
  apply BitVec.eq_of_getLsbD_eq
  intro i hi
  simp only [BitVec.getLsbD_extractLsb', BitVec.getLsbD_append, hi, decide_true, Bool.true_and]
  repeat rw [if_neg (by omega)]
  rw [if_pos (by omega), show 14 + i - 4 - 1 - 5 - 4 = i by omega]

@[simp] theorem c_encOp (op : BitVec 6) (a b c : Src) (d : Dst) (n : BitVec 4) (m : BitVec 5) (e : Bool) : (encOp op a b c d n m e).extractLsb' 17 3 = c := by
  unfold encOp
  apply BitVec.eq_of_getLsbD_eq
  intro i hi
  simp only [BitVec.getLsbD_extractLsb', BitVec.getLsbD_append, hi, decide_true, Bool.true_and]
  repeat rw [if_neg (by omega)]
  rw [if_pos (by omega), show 17 + i - 4 - 1 - 5 - 4 - 3 = i by omega]

@[simp] theorem b_encOp (op : BitVec 6) (a b c : Src) (d : Dst) (n : BitVec 4) (m : BitVec 5) (e : Bool) : (encOp op a b c d n m e).extractLsb' 20 3 = b := by
  unfold encOp
  apply BitVec.eq_of_getLsbD_eq
  intro i hi
  simp only [BitVec.getLsbD_extractLsb', BitVec.getLsbD_append, hi, decide_true, Bool.true_and]
  repeat rw [if_neg (by omega)]
  rw [if_pos (by omega), show 20 + i - 4 - 1 - 5 - 4 - 3 - 3 = i by omega]

@[simp] theorem a_encOp (op : BitVec 6) (a b c : Src) (d : Dst) (n : BitVec 4) (m : BitVec 5) (e : Bool) : (encOp op a b c d n m e).extractLsb' 23 3 = a := by
  unfold encOp
  apply BitVec.eq_of_getLsbD_eq
  intro i hi
  simp only [BitVec.getLsbD_extractLsb', BitVec.getLsbD_append, hi, decide_true, Bool.true_and]
  repeat rw [if_neg (by omega)]
  rw [if_pos (by omega), show 23 + i - 4 - 1 - 5 - 4 - 3 - 3 - 3 = i by omega]

@[simp] theorem op_encOp (op : BitVec 6) (a b c : Src) (d : Dst) (n : BitVec 4) (m : BitVec 5) (e : Bool) : (encOp op a b c d n m e).extractLsb' 26 6 = op := by
  unfold encOp
  apply BitVec.eq_of_getLsbD_eq
  intro i hi
  simp only [BitVec.getLsbD_extractLsb', BitVec.getLsbD_append, hi, decide_true, Bool.true_and]
  repeat rw [if_neg (by omega)]
  rw [show 26 + i - 4 - 1 - 5 - 4 - 3 - 3 - 3 - 3 = i by omega]

theorem e_encOp (op : BitVec 6) (a b c : Src) (d : Dst) (n : BitVec 4) (m : BitVec 5) (e : Bool) : (encOp op a b c d n m e).getLsbD 4 = e := by
  unfold encOp bit1
  simp only [BitVec.getLsbD_append]
  rw [if_neg (by omega), if_pos (by omega)]
  cases e <;> rfl

@[simp] theorem of_encOp (op : BitVec 6) (a b c : Src) (d : Dst) (n : BitVec 4) (m : BitVec 5) (e : Bool) :
    OpWord.of (encOp op a b c d n m e) = ⟨op, a, b, c, d, n, m, e, 0⟩ := by
  unfold OpWord.of
  rw [e_encOp]
  simp

end Sys2Proof
end

