-- ==== Sys2Proof/Laws/Operands.lean ====
section
/-! SUPPORT. How an op word runs, said once: the firing's operands, then what its body comes to. A proof about an op word
needs the running firing, its operands and the value of the body, and no unfolding. -/

namespace Sys2Proof.Machine

set_option Elab.async false

variable {s u : State} {f : Firing} {uses : List Src} {ts : List Token} {size : Nat} {e : Bool} {body : NodeId → Firing → List Token → OpRes}

theorem State.opWith_done (hr : (s.node s.curNode).running = some f) (ho : s.readOnce s.curNode f uses = some ts)
    (hb : body s.curNode f ts = .done u) : s.opWith uses size e body = u.opDone s.curNode uses size e := by
  simp [State.opWith, hr, ho, hb]

theorem State.opWith_hold (hr : (s.node s.curNode).running = some f) (ho : s.readOnce s.curNode f uses = some ts)
    (hb : body s.curNode f ts = .hold u) : s.opWith uses size e body = u.latch s.curNode f ts := by
  simp [State.opWith, hr, ho, hb]

theorem State.opWith_fmt {t : Word} (hr : (s.node s.curNode).running = some f) (ho : s.readOnce s.curNode f uses = some ts)
    (hb : body s.curNode f ts = .fmt t) : s.opWith uses size e body = s.opFault s.curNode f kFmt 0 t := by
  simp [State.opWith, hr, ho, hb]

theorem State.opWith_illegal {sub : BitVec 8} (hr : (s.node s.curNode).running = some f) (ho : s.readOnce s.curNode f uses = some ts)
    (hb : body s.curNode f ts = .illegal sub) : s.opWith uses size e body = s.opIllegal s.curNode f sub := by
  simp [State.opWith, hr, ho, hb]

theorem State.opWith_fault {kind : BitVec 8} {tval : Word} (hr : (s.node s.curNode).running = some f)
    (ho : s.readOnce s.curNode f uses = some ts) (hb : body s.curNode f ts = .fault kind tval) :
    s.opWith uses size e body = s.opFault s.curNode f kind 0 tval := by
  simp [State.opWith, hr, ho, hb]

/-- An op word that begins reads its operands; one that has read them keeps what it read. -/
theorem State.readOnce_first (s : State) (n : NodeId) (f : Firing) (uses : List Src) (h : f.latched = []) :
    s.readOnce n f uses = s.operands n f uses := by
  simp [State.readOnce, h]

theorem State.readOnce_kept (s : State) (n : NodeId) (f : Firing) (uses : List Src) (h : f.latched ≠ []) :
    s.readOnce n f uses = some f.latched := by
  simp [State.readOnce, h]

/-- Operands one by one. -/
theorem State.operands_cons (s : State) (n : NodeId) (f : Firing) (x : Src) (r : List Src) :
    s.operands n f (x :: r) = (s.operand n f x).bind fun t => (s.operands n f r).map fun l => t :: l := by
  cases h : s.operand n f x <;> cases h' : s.operands n f r <;> simp [State.operands, h, h']

end Sys2Proof.Machine
end

