-- ==== Sys2Proof/Laws/Ops.lean ====
section
/-! SUPPORT. What the shared operations of a thread do, said once each: the register writes, the jumps, taking an exception
and returning from it. -/

namespace Sys2Proof.Machine

set_option Elab.async false

/-! ### A register, and on to the next word (R29) -/

theorem State.cur_writeNext (s : State) (d : Reg) (v : Word) : (s.writeNext d v).cur = (s.cur.setReg d v).advance 4 := by
  simp [State.writeNext]

theorem State.writeNext_pc (s : State) (d : Reg) (v : Word) : (s.writeNext d v).cur.pc = s.cur.pc + 4 := by
  simp [State.cur_writeNext, Thread.advance]

theorem State.writeNext_reg_same (s : State) {d : Reg} (v : Word) (h : d ≠ 0#5) : (s.writeNext d v).reg d = v := by
  rw [State.reg, State.cur_writeNext]
  exact Thread.reg_setReg_same _ v h

theorem State.writeNext_reg_other (s : State) {d r : Reg} (v : Word) (h : r ≠ d) : (s.writeNext d v).reg r = s.reg r := by
  rw [State.reg, State.cur_writeNext]
  exact Thread.reg_setReg_other _ v h

/-- A write to g0 only moves on (R29). -/
theorem State.writeNext_zero (s : State) (v : Word) : s.writeNext 0#5 v = s.advance := rfl

/-- Of the acting thread, `writeNext` changes the general registers and the pc only. -/
theorem State.writeNext_frame (s : State) (d : Reg) (v : Word) :
    (s.writeNext d v).cur = { s.cur with regs := (s.writeNext d v).cur.regs, pc := s.cur.pc + 4 } := by
  simp only [State.cur_writeNext, Thread.advance, Thread.setReg]
  split <;> rfl

/-- Another thread is left alone. -/
theorem State.writeNext_thread (s : State) (d : Reg) (v : Word) {sheet ctx : Nat} (h : sheet ≠ s.curSheet) :
    (s.writeNext d v).thread sheet ctx = s.thread sheet ctx := by
  simp [State.writeNext, State.setCur, State.setThread, State.thread, State.sheet_setSheet_other _ _ h]

theorem State.cur_goto (s : State) (pc : Word) : (s.goto pc).cur = { s.cur with pc := pc } := by simp [State.goto]

theorem State.cur_waitFor (s : State) (w : Wait) : (s.waitFor w).cur = { s.cur with wait := some w } := by
  simp [State.waitFor]

/-! ### Taking an exception (R85, R303) -/

/-- The end of an issue group touches of its thread only the group and the held set. -/
theorem State.thread_endGroupOf (s : State) (sheet ctx : Nat) :
    (s.endGroupOf sheet ctx).thread sheet ctx = { s.thread sheet ctx with
      group := ((s.endGroupOf sheet ctx).thread sheet ctx).group, held := ((s.endGroupOf sheet ctx).thread sheet ctx).held } := by
  unfold State.endGroupOf
  simp only []
  split
  · rfl
  · have h : ∀ (x : State) (st : Assoc Nat Stream), ({ x with streams := st }).thread sheet ctx = x.thread sheet ctx :=
      fun _ _ => rfl
    simp only [h, State.thread_setThread]

theorem State.giveBack_cur (s : State) : s.giveBack.cur = s.cur := by
  simp [State.giveBack, State.cur, State.thread, Sheet.giveBack]

/-- With a handler, EPC, CAUSE and TVAL are written, the pc goes to TVEC, and no general register changes. -/
theorem State.trapCode_handled (s : State) (kind : BitVec 8) (tval : Word) (code : BitVec 16) (h : s.cur.tvec ≠ 0) :
    let t := (s.trapCode kind tval code).cur
    t.epc = s.cur.pc ∧ t.cause = syncCause kind ∧ t.tval = tval ∧ t.pc = s.cur.tvec ∧ t.tvec = s.cur.tvec ∧
      t.regs = s.cur.regs ∧ t.wait = none := by
  have hc : (s.giveBack.endGroupOf s.curSheet s.curCtx).cur = { s.cur with
      group := (s.giveBack.endGroupOf s.curSheet s.curCtx).cur.group, held := (s.giveBack.endGroupOf s.curSheet s.curCtx).cur.held } := by
    have e := State.thread_endGroupOf s.giveBack s.curSheet s.curCtx
    rw [show s.giveBack.thread s.curSheet s.curCtx = s.cur from s.giveBack_cur] at e
    have hs : (s.giveBack.endGroupOf s.curSheet s.curCtx).curSheet = s.curSheet := by
      unfold State.endGroupOf; simp only []; split <;> rfl
    have hx : (s.giveBack.endGroupOf s.curSheet s.curCtx).curCtx = s.curCtx := by
      unfold State.endGroupOf; simp only []; split <;> rfl
    simp only [State.cur, hs, hx]
    exact e
  have ht : (s.giveBack.endGroupOf s.curSheet s.curCtx).cur.tvec ≠ 0 := by rw [hc]; exact h
  simp only [State.trapCode, ht, if_false, State.cur_setCur, Thread.enter]
  rw [hc]
  simp

/-! ### Returning from an exception (R114, R305) -/

/-- The thread goes to EPC; nothing else of it changes. -/
theorem State.cur_exceptionReturn (s : State) : s.exceptionReturn.cur = { s.cur with pc := s.cur.epc } := by
  have h : ∀ x : State, x.closeReport.cur = x.cur := by
    intro x
    unfold State.closeReport
    (repeat' split) <;> rfl
  rw [State.exceptionReturn, h, State.cur_goto]

/-! ### Fresh numbers -/

theorem State.fresh_number (s : State) : s.fresh.1 = s.nextId := rfl

theorem State.fresh_next (s : State) : s.fresh.2.nextId = s.nextId + 1 := rfl

end Sys2Proof.Machine
end

