-- ==== Sys2Proof/Laws/PerInstr.lean ====
section
/-! SUPPORT. Statements made per instruction. Encoding: the decoder of an instruction's class reads a well-formed instruction
back from its words, whatever follows them. -/

namespace Sys2Proof.Laws.Encoding

set_option Elab.async false

/-- The decoder of its class reads the instruction back from its words, every operand at its value, and leaves what follows. -/
def Statement (i : Instr) : Prop :=
  ∀ c, i.wordClass = some c → i.wf = true → ∀ rest, decodeAs c (encodeBytes i ++ rest) = .ok (i, rest)

/-- A sequencer instruction of one word. -/
theorem of_single {i : Instr} {w : W32} (he : encode i = [w]) (hp : isPairWord w = false) (hd : decodeSingle w = .ok i) (rest : List Byte) :
    decodeAs .sequencer (encodeBytes i ++ rest) = .ok (i, rest) := by
  simp [decodeAs, decodeSeq, encodeBytes, he, hp, hd, Except.map]

/-- A sequencer instruction of two words. -/
theorem of_pair {i : Instr} {w v : W32} (he : encode i = [w, v]) (hp : isPairWord w = true) (hd : decodePair w v = .ok i) (rest : List Byte) :
    decodeAs .sequencer (encodeBytes i ++ rest) = .ok (i, rest) := by
  simp [decodeAs, decodeSeq, encodeBytes, he, hp, hd, Except.map]

/-- An op word. -/
theorem of_op {i : Instr} {k : NodeClass} {w : W32} (he : encode i = [w]) (hp : isConstWord k w = false) (hd : decodeOp k w none = .ok i)
    (rest : List Byte) : decodeAs (.op k) (encodeBytes i ++ rest) = .ok (i, rest) := by
  simp [decodeAs, encodeBytes, he, hp, hd, Except.map]

theorem add (d a b : Reg) : Statement (.add d a b) := by
  intro _ hc hw rest
  cases hc
  exact of_single rfl (by simp [isPairWord]) (by simp [decodeSingle, decodeAlu, decodeSx, orReject, hw]) rest

theorem sub (d a b : Reg) : Statement (.sub d a b) := by
  intro _ hc hw rest
  cases hc
  exact of_single rfl (by simp [isPairWord]) (by simp [decodeSingle, decodeAlu, decodeSx, orReject, hw]) rest

theorem and (d a b : Reg) : Statement (.and d a b) := by
  intro _ hc hw rest
  cases hc
  exact of_single rfl (by simp [isPairWord]) (by simp [decodeSingle, decodeAlu, decodeSx, orReject, hw]) rest

theorem or (d a b : Reg) : Statement (.or d a b) := by
  intro _ hc hw rest
  cases hc
  exact of_single rfl (by simp [isPairWord]) (by simp [decodeSingle, decodeAlu, decodeSx, orReject, hw]) rest

theorem xor (d a b : Reg) : Statement (.xor d a b) := by
  intro _ hc hw rest
  cases hc
  exact of_single rfl (by simp [isPairWord]) (by simp [decodeSingle, decodeAlu, decodeSx, orReject, hw]) rest

theorem shl (d a b : Reg) : Statement (.shl d a b) := by
  intro _ hc hw rest
  cases hc
  exact of_single rfl (by simp [isPairWord]) (by simp [decodeSingle, decodeAlu, decodeSx, orReject, hw]) rest

theorem shr (d a b : Reg) : Statement (.shr d a b) := by
  intro _ hc hw rest
  cases hc
  exact of_single rfl (by simp [isPairWord]) (by simp [decodeSingle, decodeAlu, decodeSx, orReject, hw]) rest

theorem sra (d a b : Reg) : Statement (.sra d a b) := by
  intro _ hc hw rest
  cases hc
  exact of_single rfl (by simp [isPairWord]) (by simp [decodeSingle, decodeAlu, decodeSx, orReject, hw]) rest

theorem mul (d a b : Reg) : Statement (.mul d a b) := by
  intro _ hc hw rest
  cases hc
  exact of_single rfl (by simp [isPairWord]) (by simp [decodeSingle, decodeAlu, decodeSx, orReject, hw]) rest

theorem mulh (d a b : Reg) : Statement (.mulh d a b) := by
  intro _ hc hw rest
  cases hc
  exact of_single rfl (by simp [isPairWord]) (by simp [decodeSingle, decodeAlu, decodeSx, orReject, hw]) rest

theorem mulhu (d a b : Reg) : Statement (.mulhu d a b) := by
  intro _ hc hw rest
  cases hc
  exact of_single rfl (by simp [isPairWord]) (by simp [decodeSingle, decodeAlu, decodeSx, orReject, hw]) rest

theorem div (d a b : Reg) : Statement (.div d a b) := by
  intro _ hc hw rest
  cases hc
  exact of_single rfl (by simp [isPairWord]) (by simp [decodeSingle, decodeAlu, decodeSx, orReject, hw]) rest

theorem divu (d a b : Reg) : Statement (.divu d a b) := by
  intro _ hc hw rest
  cases hc
  exact of_single rfl (by simp [isPairWord]) (by simp [decodeSingle, decodeAlu, decodeSx, orReject, hw]) rest

theorem rem (d a b : Reg) : Statement (.rem d a b) := by
  intro _ hc hw rest
  cases hc
  exact of_single rfl (by simp [isPairWord]) (by simp [decodeSingle, decodeAlu, decodeSx, orReject, hw]) rest

theorem remu (d a b : Reg) : Statement (.remu d a b) := by
  intro _ hc hw rest
  cases hc
  exact of_single rfl (by simp [isPairWord]) (by simp [decodeSingle, decodeAlu, decodeSx, orReject, hw]) rest

theorem min (d a b : Reg) : Statement (.min d a b) := by
  intro _ hc hw rest
  cases hc
  exact of_single rfl (by simp [isPairWord]) (by simp [decodeSingle, decodeAlu, decodeSx, orReject, hw]) rest

theorem max (d a b : Reg) : Statement (.max d a b) := by
  intro _ hc hw rest
  cases hc
  exact of_single rfl (by simp [isPairWord]) (by simp [decodeSingle, decodeAlu, decodeSx, orReject, hw]) rest

theorem minu (d a b : Reg) : Statement (.minu d a b) := by
  intro _ hc hw rest
  cases hc
  exact of_single rfl (by simp [isPairWord]) (by simp [decodeSingle, decodeAlu, decodeSx, orReject, hw]) rest

theorem maxu (d a b : Reg) : Statement (.maxu d a b) := by
  intro _ hc hw rest
  cases hc
  exact of_single rfl (by simp [isPairWord]) (by simp [decodeSingle, decodeAlu, decodeSx, orReject, hw]) rest

theorem slt (d a b : Reg) : Statement (.slt d a b) := by
  intro _ hc hw rest
  cases hc
  exact of_single rfl (by simp [isPairWord]) (by simp [decodeSingle, decodeAlu, decodeSx, orReject, hw]) rest

theorem sltu (d a b : Reg) : Statement (.sltu d a b) := by
  intro _ hc hw rest
  cases hc
  exact of_single rfl (by simp [isPairWord]) (by simp [decodeSingle, decodeAlu, decodeSx, orReject, hw]) rest

theorem clz (d a : Reg) : Statement (.clz d a) := by
  intro _ hc hw rest
  cases hc
  exact of_single rfl (by simp [isPairWord]) (by simp [decodeSingle, decodeAlu, decodeSx, orReject, hw]) rest

theorem popc (d a : Reg) : Statement (.popc d a) := by
  intro _ hc hw rest
  cases hc
  exact of_single rfl (by simp [isPairWord]) (by simp [decodeSingle, decodeAlu, decodeSx, orReject, hw]) rest

theorem addi (d a : Reg) (i : BitVec 16) : Statement (.addi d a i) := by
  intro _ hc hw rest
  cases hc
  exact of_single rfl (by simp [isPairWord]) (by simp [decodeSingle, decodeAlu, decodeSx, orReject, hw]) rest

theorem andi (d a : Reg) (i : BitVec 16) : Statement (.andi d a i) := by
  intro _ hc hw rest
  cases hc
  exact of_single rfl (by simp [isPairWord]) (by simp [decodeSingle, decodeAlu, decodeSx, orReject, hw]) rest

theorem ori (d a : Reg) (i : BitVec 16) : Statement (.ori d a i) := by
  intro _ hc hw rest
  cases hc
  exact of_single rfl (by simp [isPairWord]) (by simp [decodeSingle, decodeAlu, decodeSx, orReject, hw]) rest

theorem xori (d a : Reg) (i : BitVec 16) : Statement (.xori d a i) := by
  intro _ hc hw rest
  cases hc
  exact of_single rfl (by simp [isPairWord]) (by simp [decodeSingle, decodeAlu, decodeSx, orReject, hw]) rest

theorem slti (d a : Reg) (i : BitVec 16) : Statement (.slti d a i) := by
  intro _ hc hw rest
  cases hc
  exact of_single rfl (by simp [isPairWord]) (by simp [decodeSingle, decodeAlu, decodeSx, orReject, hw]) rest

theorem shli (d a : Reg) (sh : BitVec 6) : Statement (.shli d a sh) := by
  intro _ hc hw rest
  cases hc
  exact of_single rfl (by simp [isPairWord]) (by simp [decodeSingle, decodeAlu, decodeSx, orReject, hw]) rest

theorem shri (d a : Reg) (sh : BitVec 6) : Statement (.shri d a sh) := by
  intro _ hc hw rest
  cases hc
  exact of_single rfl (by simp [isPairWord]) (by simp [decodeSingle, decodeAlu, decodeSx, orReject, hw]) rest

theorem srai (d a : Reg) (sh : BitVec 6) : Statement (.srai d a sh) := by
  intro _ hc hw rest
  cases hc
  exact of_single rfl (by simp [isPairWord]) (by simp [decodeSingle, decodeAlu, decodeSx, orReject, hw]) rest

theorem lui (d : Reg) (i : BitVec 16) : Statement (.lui d i) := by
  intro _ hc hw rest
  cases hc
  exact of_single rfl (by simp [isPairWord]) (by simp [decodeSingle, decodeAlu, decodeSx, orReject, hw]) rest

theorem beq (a b : Reg) (o : BitVec 16) : Statement (.beq a b o) := by
  intro _ hc hw rest
  cases hc
  exact of_single rfl (by simp [isPairWord]) (by simp [decodeSingle, decodeAlu, decodeSx, orReject, hw]) rest

theorem bne (a b : Reg) (o : BitVec 16) : Statement (.bne a b o) := by
  intro _ hc hw rest
  cases hc
  exact of_single rfl (by simp [isPairWord]) (by simp [decodeSingle, decodeAlu, decodeSx, orReject, hw]) rest

theorem blt (a b : Reg) (o : BitVec 16) : Statement (.blt a b o) := by
  intro _ hc hw rest
  cases hc
  exact of_single rfl (by simp [isPairWord]) (by simp [decodeSingle, decodeAlu, decodeSx, orReject, hw]) rest

theorem bge (a b : Reg) (o : BitVec 16) : Statement (.bge a b o) := by
  intro _ hc hw rest
  cases hc
  exact of_single rfl (by simp [isPairWord]) (by simp [decodeSingle, decodeAlu, decodeSx, orReject, hw]) rest

theorem bltu (a b : Reg) (o : BitVec 16) : Statement (.bltu a b o) := by
  intro _ hc hw rest
  cases hc
  exact of_single rfl (by simp [isPairWord]) (by simp [decodeSingle, decodeAlu, decodeSx, orReject, hw]) rest

theorem bgeu (a b : Reg) (o : BitVec 16) : Statement (.bgeu a b o) := by
  intro _ hc hw rest
  cases hc
  exact of_single rfl (by simp [isPairWord]) (by simp [decodeSingle, decodeAlu, decodeSx, orReject, hw]) rest

theorem jmp (o : BitVec 26) : Statement (.jmp o) := by
  intro _ hc hw rest
  cases hc
  exact of_single rfl (by simp [isPairWord]) (by simp [decodeSingle, decodeAlu, decodeSx, orReject, hw]) rest

theorem jr (a : Reg) : Statement (.jr a) := by
  intro _ hc hw rest
  cases hc
  exact of_single rfl (by simp [isPairWord]) (by simp [decodeSingle, decodeAlu, decodeSx, orReject, hw]) rest

theorem call (o : BitVec 26) : Statement (.call o) := by
  intro _ hc hw rest
  cases hc
  exact of_single rfl (by simp [isPairWord]) (by simp [decodeSingle, decodeAlu, decodeSx, orReject, hw]) rest

theorem callr (a : Reg) : Statement (.callr a) := by
  intro _ hc hw rest
  cases hc
  exact of_single rfl (by simp [isPairWord]) (by simp [decodeSingle, decodeAlu, decodeSx, orReject, hw]) rest

theorem loop (a : Reg) (o : BitVec 16) : Statement (.loop a o) := by
  intro _ hc hw rest
  cases hc
  exact of_single rfl (by simp [isPairWord]) (by simp [decodeSingle, decodeAlu, decodeSx, orReject, hw]) rest

theorem ld (d a : Reg) (off : BitVec 16) (wd : Width) (ord : MemOrd) (sc : Scope) : Statement (.ld d a off wd ord sc) := by
  intro _ hc hw rest
  cases hc
  refine of_pair (w := encSI 0x20 d a off) (v := attrWord wd ord sc 0 0) rfl (by simp [isPairWord]) ?_ rest
  simp [decodePair, orReject, hw]

theorem st (d a : Reg) (off : BitVec 16) (wd : Width) (ord : MemOrd) (sc : Scope) : Statement (.st d a off wd ord sc) := by
  intro _ hc hw rest
  cases hc
  refine of_pair (w := encSI 0x21 d a off) (v := attrWord wd ord sc 0 0) rfl (by simp [isPairWord]) ?_ rest
  simp [decodePair, orReject, hw]

theorem amo (d a b : Reg) (off : BitVec 16) (wd : Width) (ord : MemOrd) (sc : Scope) (fn : AmoFn) : Statement (.amo d a b off wd ord sc fn) := by
  intro _ hc hw rest
  cases hc
  refine of_pair (w := encSI 0x22 d a off) (v := attrWord wd ord sc fn.code b) rfl (by simp [isPairWord]) ?_ rest
  simp [decodePair, orReject, hw]

theorem cas (d a b : Reg) (off : BitVec 16) (wd : Width) (ord : MemOrd) (sc : Scope) : Statement (.cas d a b off wd ord sc) := by
  intro _ hc hw rest
  cases hc
  refine of_pair (w := encSI 0x23 d a off) (v := attrWord wd ord sc 0 b) rfl (by simp [isPairWord]) ?_ rest
  simp [decodePair, orReject, hw]

theorem fence (sc : Scope) : Statement (.fence sc) := by
  intro _ hc _ rest
  cases hc
  exact of_single rfl (by cases sc <;> rfl) (by cases sc <;> rfl) rest

theorem dset (n : BitVec 5) (a : Reg) : Statement (.dset n a) := by
  intro _ hc hw rest
  cases hc
  exact of_single rfl (by simp [isPairWord]) (by simp [decodeSingle, decodeAlu, decodeSx, orReject, hw]) rest

theorem strin (k n x : BitVec 5) : Statement (.strin k n x) := by
  intro _ hc hw rest
  cases hc
  exact of_single rfl (by simp [isPairWord]) (by simp [decodeSingle, decodeAlu, decodeSx, orReject, hw]) rest

theorem strout (k n x : BitVec 5) : Statement (.strout k n x) := by
  intro _ hc hw rest
  cases hc
  exact of_single rfl (by simp [isPairWord]) (by simp [decodeSingle, decodeAlu, decodeSx, orReject, hw]) rest

theorem bsel (a : Reg) : Statement (.bsel a) := by
  intro _ hc hw rest
  cases hc
  exact of_single rfl (by simp [isPairWord]) (by simp [decodeSingle, decodeAlu, decodeSx, orReject, hw]) rest

theorem scancel (x : BitVec 5) : Statement (.scancel x) := by
  intro _ hc hw rest
  cases hc
  exact of_single rfl (by simp [isPairWord]) (by simp [decodeSingle, decodeAlu, decodeSx, orReject, hw]) rest

theorem amsg (a : Reg) (f : BitVec 11) : Statement (.amsg a f) := by
  intro _ hc hw rest
  cases hc
  exact of_single rfl (by simp [isPairWord]) (by simp [decodeSingle, decodeAlu, decodeSx, orReject, hw]) rest

theorem await (d a : Reg) : Statement (.await d a) := by
  intro _ hc hw rest
  cases hc
  exact of_single rfl (by simp [isPairWord]) (by simp [decodeSingle, decodeAlu, decodeSx, orReject, hw]) rest

theorem apoll (d a : Reg) : Statement (.apoll d a) := by
  intro _ hc hw rest
  cases hc
  exact of_single rfl (by simp [isPairWord]) (by simp [decodeSingle, decodeAlu, decodeSx, orReject, hw]) rest

theorem qpush (k : BitVec 5) (a b : Reg) : Statement (.qpush k a b) := by
  intro _ hc hw rest
  cases hc
  exact of_single rfl (by simp [isPairWord]) (by simp [decodeSingle, decodeAlu, decodeSx, orReject, hw]) rest

theorem qpop (d : Reg) (k : BitVec 5) : Statement (.qpop d k) := by
  intro _ hc hw rest
  cases hc
  exact of_single rfl (by simp [isPairWord]) (by simp [decodeSingle, decodeAlu, decodeSx, orReject, hw]) rest

theorem qcnt (d : Reg) (k : BitVec 5) : Statement (.qcnt d k) := by
  intro _ hc hw rest
  cases hc
  exact of_single rfl (by simp [isPairWord]) (by simp [decodeSingle, decodeAlu, decodeSx, orReject, hw]) rest

theorem qctl (k : BitVec 5) (a b : Reg) : Statement (.qctl k a b) := by
  intro _ hc hw rest
  cases hc
  exact of_single rfl (by simp [isPairWord]) (by simp [decodeSingle, decodeAlu, decodeSx, orReject, hw]) rest

theorem qbind (k : BitVec 5) (o : BitVec 16) : Statement (.qbind k o) := by
  intro _ hc hw rest
  cases hc
  exact of_single rfl (by simp [isPairWord]) (by simp [decodeSingle, decodeAlu, decodeSx, orReject, hw]) rest

theorem xq (d a b : Reg) : Statement (.xq d a b) := by
  intro _ hc hw rest
  cases hc
  exact of_single rfl (by simp [isPairWord]) (by simp [decodeSingle, decodeAlu, decodeSx, orReject, hw]) rest

theorem fload (d a : Reg) : Statement (.fload d a) := by
  intro _ hc hw rest
  cases hc
  exact of_single rfl (by simp [isPairWord]) (by simp [decodeSingle, decodeAlu, decodeSx, orReject, hw]) rest

theorem fplace (d a b : Reg) : Statement (.fplace d a b) := by
  intro _ hc hw rest
  cases hc
  exact of_single rfl (by simp [isPairWord]) (by simp [decodeSingle, decodeAlu, decodeSx, orReject, hw]) rest

theorem frun (a : Reg) : Statement (.frun a) := by
  intro _ hc hw rest
  cases hc
  exact of_single rfl (by simp [isPairWord]) (by simp [decodeSingle, decodeAlu, decodeSx, orReject, hw]) rest

theorem flay (d a : Reg) : Statement (.flay d a) := by
  intro _ hc hw rest
  cases hc
  exact of_single rfl (by simp [isPairWord]) (by simp [decodeSingle, decodeAlu, decodeSx, orReject, hw]) rest

theorem bar (a : Reg) : Statement (.bar a) := by
  intro _ hc hw rest
  cases hc
  exact of_single rfl (by simp [isPairWord]) (by simp [decodeSingle, decodeAlu, decodeSx, orReject, hw]) rest

theorem evsig (a b : Reg) : Statement (.evsig a b) := by
  intro _ hc hw rest
  cases hc
  exact of_single rfl (by simp [isPairWord]) (by simp [decodeSingle, decodeAlu, decodeSx, orReject, hw]) rest

theorem evwait (d a : Reg) : Statement (.evwait d a) := by
  intro _ hc hw rest
  cases hc
  exact of_single rfl (by simp [isPairWord]) (by simp [decodeSingle, decodeAlu, decodeSx, orReject, hw]) rest

theorem csrr (d : Reg) (c : BitVec 16) : Statement (.csrr d c) := by
  intro _ hc _ rest
  cases hc
  refine of_single (w := csrWord 0 d c) rfl (by simp [isPairWord]) ?_ rest
  simp only [decodeSingle, majorOf_csrWord, flag_csrWord]
  simp

theorem csrw (a : Reg) (c : BitVec 16) : Statement (.csrw a c) := by
  intro _ hc _ rest
  cases hc
  refine of_single (w := csrWord 1 a c) rfl (by simp [isPairWord]) ?_ rest
  simp only [decodeSingle, majorOf_csrWord, flag_csrWord]
  simp

theorem trap (c : BitVec 16) : Statement (.trap c) := by
  intro _ hc _ rest
  cases hc
  refine of_single (w := trapWord c) rfl (by simp [isPairWord]) ?_ rest
  simp [decodeSingle, decodeSx, orReject]

theorem waitingInstructionRetire (sheet ctx : Nat) : Statement (.waitingInstructionRetire sheet ctx) := by
  intro _ hc
  cases hc

theorem handlerInvocation (sheet ctx : Nat) : Statement (.handlerInvocation sheet ctx) := by
  intro _ hc
  cases hc

theorem queuePushAccept (sheet q : Nat) : Statement (.queuePushAccept sheet q) := by
  intro _ hc
  cases hc

theorem galleyRefill (sheet q : Nat) : Statement (.galleyRefill sheet q) := by
  intro _ hc
  cases hc

theorem elemAdd (a b : Src) (d : Dst) (n : BitVec 4) (sat e : Bool) : Statement (.elemAdd a b d n sat e) := by
  intro _ hc hw rest
  cases hc
  simp only [Instr.wf, Bool.and_eq_true, decide_eq_true_eq] at hw
  refine of_op rfl (by simp [isConstWord]) ?_ rest
  cases sat <;> simp [decodeOp, decodeElement, OpWord.as, OpWord.fault, formA, formAB, formABC, formNone, modBit, bit1, hw]

theorem elemSub (a b : Src) (d : Dst) (n : BitVec 4) (sat e : Bool) : Statement (.elemSub a b d n sat e) := by
  intro _ hc hw rest
  cases hc
  simp only [Instr.wf, Bool.and_eq_true, decide_eq_true_eq] at hw
  refine of_op rfl (by simp [isConstWord]) ?_ rest
  cases sat <;> simp [decodeOp, decodeElement, OpWord.as, OpWord.fault, formA, formAB, formABC, formNone, modBit, bit1, hw]

theorem elemMul (a b : Src) (d : Dst) (n : BitVec 4) (sat e : Bool) : Statement (.elemMul a b d n sat e) := by
  intro _ hc hw rest
  cases hc
  simp only [Instr.wf, Bool.and_eq_true, decide_eq_true_eq] at hw
  refine of_op rfl (by simp [isConstWord]) ?_ rest
  cases sat <;> simp [decodeOp, decodeElement, OpWord.as, OpWord.fault, formA, formAB, formABC, formNone, modBit, bit1, hw]

theorem fma (a b c : Src) (d : Dst) (n : BitVec 4) (sat e : Bool) : Statement (.fma a b c d n sat e) := by
  intro _ hc hw rest
  cases hc
  simp only [Instr.wf, Bool.and_eq_true, decide_eq_true_eq] at hw
  refine of_op rfl (by simp [isConstWord]) ?_ rest
  cases sat <;> simp [decodeOp, decodeElement, OpWord.as, OpWord.fault, formA, formAB, formABC, formNone, modBit, bit1, hw]

theorem elemMin (a b : Src) (d : Dst) (n : BitVec 4) (e : Bool) : Statement (.elemMin a b d n e) := by
  intro _ hc hw rest
  cases hc
  simp only [Instr.wf, Bool.and_eq_true, decide_eq_true_eq] at hw
  refine of_op rfl (by simp [isConstWord]) ?_ rest
  simp [decodeOp, decodeElement, OpWord.as, OpWord.fault, formA, formAB, formABC, formNone, modBit, bit1, hw]

theorem elemMax (a b : Src) (d : Dst) (n : BitVec 4) (e : Bool) : Statement (.elemMax a b d n e) := by
  intro _ hc hw rest
  cases hc
  simp only [Instr.wf, Bool.and_eq_true, decide_eq_true_eq] at hw
  refine of_op rfl (by simp [isConstWord]) ?_ rest
  simp [decodeOp, decodeElement, OpWord.as, OpWord.fault, formA, formAB, formABC, formNone, modBit, bit1, hw]

theorem abs (a : Src) (d : Dst) (n : BitVec 4) (e : Bool) : Statement (.abs a d n e) := by
  intro _ hc hw rest
  cases hc
  simp only [Instr.wf, Bool.and_eq_true, decide_eq_true_eq] at hw
  refine of_op rfl (by simp [isConstWord]) ?_ rest
  simp [decodeOp, decodeElement, OpWord.as, OpWord.fault, formA, formAB, formABC, formNone, modBit, bit1, hw]

theorem neg (a : Src) (d : Dst) (n : BitVec 4) (e : Bool) : Statement (.neg a d n e) := by
  intro _ hc hw rest
  cases hc
  simp only [Instr.wf, Bool.and_eq_true, decide_eq_true_eq] at hw
  refine of_op rfl (by simp [isConstWord]) ?_ rest
  simp [decodeOp, decodeElement, OpWord.as, OpWord.fault, formA, formAB, formABC, formNone, modBit, bit1, hw]

theorem elemShl (a b : Src) (d : Dst) (n : BitVec 4) (sat e : Bool) : Statement (.elemShl a b d n sat e) := by
  intro _ hc hw rest
  cases hc
  simp only [Instr.wf, Bool.and_eq_true, decide_eq_true_eq] at hw
  refine of_op rfl (by simp [isConstWord]) ?_ rest
  cases sat <;> simp [decodeOp, decodeElement, OpWord.as, OpWord.fault, formA, formAB, formABC, formNone, modBit, bit1, hw]

theorem elemShr (a b : Src) (d : Dst) (n : BitVec 4) (e : Bool) : Statement (.elemShr a b d n e) := by
  intro _ hc hw rest
  cases hc
  simp only [Instr.wf, Bool.and_eq_true, decide_eq_true_eq] at hw
  refine of_op rfl (by simp [isConstWord]) ?_ rest
  simp [decodeOp, decodeElement, OpWord.as, OpWord.fault, formA, formAB, formABC, formNone, modBit, bit1, hw]

theorem elemSra (a b : Src) (d : Dst) (n : BitVec 4) (e : Bool) : Statement (.elemSra a b d n e) := by
  intro _ hc hw rest
  cases hc
  simp only [Instr.wf, Bool.and_eq_true, decide_eq_true_eq] at hw
  refine of_op rfl (by simp [isConstWord]) ?_ rest
  simp [decodeOp, decodeElement, OpWord.as, OpWord.fault, formA, formAB, formABC, formNone, modBit, bit1, hw]

theorem elemAnd (a b : Src) (d : Dst) (n : BitVec 4) (e : Bool) : Statement (.elemAnd a b d n e) := by
  intro _ hc hw rest
  cases hc
  simp only [Instr.wf, Bool.and_eq_true, decide_eq_true_eq] at hw
  refine of_op rfl (by simp [isConstWord]) ?_ rest
  simp [decodeOp, decodeElement, OpWord.as, OpWord.fault, formA, formAB, formABC, formNone, modBit, bit1, hw]

theorem elemOr (a b : Src) (d : Dst) (n : BitVec 4) (e : Bool) : Statement (.elemOr a b d n e) := by
  intro _ hc hw rest
  cases hc
  simp only [Instr.wf, Bool.and_eq_true, decide_eq_true_eq] at hw
  refine of_op rfl (by simp [isConstWord]) ?_ rest
  simp [decodeOp, decodeElement, OpWord.as, OpWord.fault, formA, formAB, formABC, formNone, modBit, bit1, hw]

theorem elemXor (a b : Src) (d : Dst) (n : BitVec 4) (e : Bool) : Statement (.elemXor a b d n e) := by
  intro _ hc hw rest
  cases hc
  simp only [Instr.wf, Bool.and_eq_true, decide_eq_true_eq] at hw
  refine of_op rfl (by simp [isConstWord]) ?_ rest
  simp [decodeOp, decodeElement, OpWord.as, OpWord.fault, formA, formAB, formABC, formNone, modBit, bit1, hw]

theorem not (a : Src) (d : Dst) (n : BitVec 4) (e : Bool) : Statement (.not a d n e) := by
  intro _ hc hw rest
  cases hc
  simp only [Instr.wf, Bool.and_eq_true, decide_eq_true_eq] at hw
  refine of_op rfl (by simp [isConstWord]) ?_ rest
  simp [decodeOp, decodeElement, OpWord.as, OpWord.fault, formA, formAB, formABC, formNone, modBit, bit1, hw]

theorem cmp (a b : Src) (d : Dst) (n : BitVec 4) (cc : BitVec 3) (e : Bool) : Statement (.cmp a b d n cc e) := by
  intro _ hc hw rest
  cases hc
  simp only [Instr.wf, Bool.and_eq_true, decide_eq_true_eq] at hw
  refine of_op rfl (by simp [isConstWord]) ?_ rest
  have hc : ¬ 6 ≤ cc.toNat := by omega
  simp [decodeOp, decodeElement, OpWord.as, OpWord.fault, formAB, hc, hw.2]

theorem sel (a b c : Src) (d : Dst) (n : BitVec 4) (e : Bool) : Statement (.sel a b c d n e) := by
  intro _ hc hw rest
  cases hc
  simp only [Instr.wf, Bool.and_eq_true, decide_eq_true_eq] at hw
  refine of_op rfl (by simp [isConstWord]) ?_ rest
  simp [decodeOp, decodeElement, OpWord.as, OpWord.fault, formA, formAB, formABC, formNone, modBit, bit1, hw]

theorem mov (a : Src) (d : Dst) (n : BitVec 4) (e : Bool) : Statement (.mov a d n e) := by
  intro _ hc hw rest
  cases hc
  simp only [Instr.wf, Bool.and_eq_true, decide_eq_true_eq] at hw
  refine of_op rfl (by simp [isConstWord]) ?_ rest
  simp [decodeOp, decodeElement, OpWord.as, OpWord.fault, formA, formAB, formABC, formNone, modBit, bit1, hw]

theorem const (d : Dst) (n : BitVec 4) (tag : BitVec 3) (e : Bool) (imm : W32) : Statement (.const d n tag e imm) := by
  intro _ hc hw rest
  cases hc
  have hk : keepSlot d n = true := hw
  simp [decodeAs, encodeBytes, encode, isConstWord, Except.map, decodeOp, decodeElement, OpWord.as, OpWord.fault, hk]

theorem exp2 (a : Src) (d : Dst) (n : BitVec 4) (e : Bool) : Statement (.exp2 a d n e) := by
  intro _ hc hw rest
  cases hc
  simp only [Instr.wf, Bool.and_eq_true, decide_eq_true_eq] at hw
  refine of_op rfl (by simp [isConstWord]) ?_ rest
  simp [decodeOp, decodeElement, OpWord.as, OpWord.fault, formA, formAB, formABC, formNone, modBit, bit1, hw]

theorem log2 (a : Src) (d : Dst) (n : BitVec 4) (e : Bool) : Statement (.log2 a d n e) := by
  intro _ hc hw rest
  cases hc
  simp only [Instr.wf, Bool.and_eq_true, decide_eq_true_eq] at hw
  refine of_op rfl (by simp [isConstWord]) ?_ rest
  simp [decodeOp, decodeElement, OpWord.as, OpWord.fault, formA, formAB, formABC, formNone, modBit, bit1, hw]

theorem rcp (a : Src) (d : Dst) (n : BitVec 4) (e : Bool) : Statement (.rcp a d n e) := by
  intro _ hc hw rest
  cases hc
  simp only [Instr.wf, Bool.and_eq_true, decide_eq_true_eq] at hw
  refine of_op rfl (by simp [isConstWord]) ?_ rest
  simp [decodeOp, decodeElement, OpWord.as, OpWord.fault, formA, formAB, formABC, formNone, modBit, bit1, hw]

theorem rsq (a : Src) (d : Dst) (n : BitVec 4) (e : Bool) : Statement (.rsq a d n e) := by
  intro _ hc hw rest
  cases hc
  simp only [Instr.wf, Bool.and_eq_true, decide_eq_true_eq] at hw
  refine of_op rfl (by simp [isConstWord]) ?_ rest
  simp [decodeOp, decodeElement, OpWord.as, OpWord.fault, formA, formAB, formABC, formNone, modBit, bit1, hw]

theorem sqrt (a : Src) (d : Dst) (n : BitVec 4) (e : Bool) : Statement (.sqrt a d n e) := by
  intro _ hc hw rest
  cases hc
  simp only [Instr.wf, Bool.and_eq_true, decide_eq_true_eq] at hw
  refine of_op rfl (by simp [isConstWord]) ?_ rest
  simp [decodeOp, decodeElement, OpWord.as, OpWord.fault, formA, formAB, formABC, formNone, modBit, bit1, hw]

theorem pack (a b : Src) (d : Dst) (n : BitVec 4) (e : Bool) : Statement (.pack a b d n e) := by
  intro _ hc hw rest
  cases hc
  simp only [Instr.wf, Bool.and_eq_true, decide_eq_true_eq] at hw
  refine of_op rfl (by simp [isConstWord]) ?_ rest
  simp [decodeOp, decodeElement, OpWord.as, OpWord.fault, formA, formAB, formABC, formNone, modBit, bit1, hw]

theorem unpack (a b : Src) (d : Dst) (n : BitVec 4) (e : Bool) : Statement (.unpack a b d n e) := by
  intro _ hc hw rest
  cases hc
  simp only [Instr.wf, Bool.and_eq_true, decide_eq_true_eq] at hw
  refine of_op rfl (by simp [isConstWord]) ?_ rest
  simp [decodeOp, decodeElement, OpWord.as, OpWord.fault, formA, formAB, formABC, formNone, modBit, bit1, hw]

theorem lane (a : Src) (d : Dst) (n : BitVec 4) (l : BitVec 2) (e : Bool) : Statement (.lane a d n l e) := by
  intro _ hc hw rest
  cases hc
  simp only [Instr.wf] at hw
  refine of_op (w := encOp 0x1A a 0 0 d n (mod2 l) e) rfl (by simp [isConstWord]) ?_ rest
  simp [decodeOp, decodeElement, OpWord.as, OpWord.fault, formA, hw]

theorem bcast (a : Src) (d : Dst) (n : BitVec 4) (e : Bool) : Statement (.bcast a d n e) := by
  intro _ hc hw rest
  cases hc
  simp only [Instr.wf, Bool.and_eq_true, decide_eq_true_eq] at hw
  refine of_op rfl (by simp [isConstWord]) ?_ rest
  simp [decodeOp, decodeElement, OpWord.as, OpWord.fault, formA, formAB, formABC, formNone, modBit, bit1, hw]

theorem ctxalloc (a : Src) (d : Dst) (n : BitVec 4) (e : Bool) : Statement (.ctxalloc a d n e) := by
  intro _ hc hw rest
  cases hc
  simp only [Instr.wf, Bool.and_eq_true, decide_eq_true_eq] at hw
  refine of_op rfl (by simp [isConstWord]) ?_ rest
  simp [decodeOp, decodeElement, OpWord.as, OpWord.fault, formA, formAB, formABC, formNone, modBit, bit1, hw]

theorem ctxfree (a : Src) (d : Dst) (n : BitVec 4) (e : Bool) : Statement (.ctxfree a d n e) := by
  intro _ hc hw rest
  cases hc
  simp only [Instr.wf, Bool.and_eq_true, decide_eq_true_eq] at hw
  refine of_op rfl (by simp [isConstWord]) ?_ rest
  simp [decodeOp, decodeElement, OpWord.as, OpWord.fault, formA, formAB, formABC, formNone, modBit, bit1, hw]

theorem colourWidthChange (inst : Nat) (colour : BitVec 8) : Statement (.colourWidthChange inst colour) := by
  intro _ hc
  cases hc

theorem itin (a : Src) (d : Dst) (n : BitVec 4) (e : Bool) : Statement (.itin a d n e) := by
  intro _ hc hw rest
  cases hc
  simp only [Instr.wf, Bool.and_eq_true, decide_eq_true_eq] at hw
  refine of_op rfl (by simp [isConstWord]) ?_ rest
  simp [decodeOp, decodeElement, OpWord.as, OpWord.fault, formA, formAB, formABC, formNone, modBit, bit1, hw]

theorem itnext (a : Src) (d : Dst) (n : BitVec 4) (e : Bool) : Statement (.itnext a d n e) := by
  intro _ hc hw rest
  cases hc
  simp only [Instr.wf, Bool.and_eq_true, decide_eq_true_eq] at hw
  refine of_op rfl (by simp [isConstWord]) ?_ rest
  simp [decodeOp, decodeElement, OpWord.as, OpWord.fault, formA, formAB, formABC, formNone, modBit, bit1, hw]

theorem itout (a : Src) (d : Dst) (n : BitVec 4) (e : Bool) : Statement (.itout a d n e) := by
  intro _ hc hw rest
  cases hc
  simp only [Instr.wf, Bool.and_eq_true, decide_eq_true_eq] at hw
  refine of_op rfl (by simp [isConstWord]) ?_ rest
  simp [decodeOp, decodeElement, OpWord.as, OpWord.fault, formA, formAB, formABC, formNone, modBit, bit1, hw]

theorem loUpdateArrival (sheet tile ctx : Nat) (colour : BitVec 8) : Statement (.loUpdateArrival sheet tile ctx colour) := by
  intro _ hc
  cases hc

theorem tcall (a b : Src) (d : Dst) (n : BitVec 4) (e : Bool) : Statement (.tcall a b d n e) := by
  intro _ hc hw rest
  cases hc
  simp only [Instr.wf, Bool.and_eq_true, decide_eq_true_eq] at hw
  refine of_op rfl (by simp [isConstWord]) ?_ rest
  simp [decodeOp, decodeElement, OpWord.as, OpWord.fault, formA, formAB, formABC, formNone, modBit, bit1, hw]

theorem tret (a b : Src) (d : Dst) (n : BitVec 4) (e : Bool) : Statement (.tret a b d n e) := by
  intro _ hc hw rest
  cases hc
  simp only [Instr.wf, Bool.and_eq_true, decide_eq_true_eq] at hw
  refine of_op rfl (by simp [isConstWord]) ?_ rest
  simp [decodeOp, decodeElement, OpWord.as, OpWord.fault, formA, formAB, formABC, formNone, modBit, bit1, hw]

theorem setslot (a b : Src) (d : Dst) (e : Bool) : Statement (.setslot a b d e) := by
  intro _ hc hw rest
  cases hc
  refine of_op rfl (by simp [isConstWord]) ?_ rest
  simp [decodeOp, decodeElement, OpWord.as, OpWord.fault, formA, formAB, formABC, formNone, modBit, bit1, keepSlot, hw]

theorem steer (a b : Src) (d : Dst) (n : BitVec 4) (e : Bool) : Statement (.steer a b d n e) := by
  intro _ hc hw rest
  cases hc
  simp only [Instr.wf, Bool.and_eq_true, decide_eq_true_eq] at hw
  refine of_op rfl (by simp [isConstWord]) ?_ rest
  simp [decodeOp, decodeElement, OpWord.as, OpWord.fault, formA, formAB, formABC, formNone, modBit, bit1, hw]

theorem merge (a b : Src) (d : Dst) (n : BitVec 4) (e : Bool) : Statement (.merge a b d n e) := by
  intro _ hc hw rest
  cases hc
  simp only [Instr.wf, Bool.and_eq_true, decide_eq_true_eq] at hw
  refine of_op rfl (by simp [isConstWord]) ?_ rest
  simp [decodeOp, decodeElement, OpWord.as, OpWord.fault, formA, formAB, formABC, formNone, modBit, bit1, hw]

theorem omerge (a b : Src) (d : Dst) (n : BitVec 4) (e : Bool) : Statement (.omerge a b d n e) := by
  intro _ hc hw rest
  cases hc
  simp only [Instr.wf, Bool.and_eq_true, decide_eq_true_eq] at hw
  refine of_op rfl (by simp [isConstWord]) ?_ rest
  simp [decodeOp, decodeElement, OpWord.as, OpWord.fault, formA, formAB, formABC, formNone, modBit, bit1, hw]

theorem gate (a b : Src) (d : Dst) (n : BitVec 4) (e : Bool) : Statement (.gate a b d n e) := by
  intro _ hc hw rest
  cases hc
  simp only [Instr.wf, Bool.and_eq_true, decide_eq_true_eq] at hw
  refine of_op rfl (by simp [isConstWord]) ?_ rest
  simp [decodeOp, decodeElement, OpWord.as, OpWord.fault, formA, formAB, formABC, formNone, modBit, bit1, hw]

theorem fan (a : Src) (n : BitVec 4) (e : Bool) : Statement (.fan a n e) := by
  intro _ hc hw rest
  cases hc
  refine of_op rfl (by simp [isConstWord]) ?_ rest
  simp [decodeOp, decodeElement, OpWord.as, OpWord.fault, formA, formAB, formABC, formNone, modBit, bit1, keepSlot, hw]

theorem sink (a : Src) (e : Bool) : Statement (.sink a e) := by
  intro _ hc hw rest
  cases hc
  refine of_op rfl (by simp [isConstWord]) ?_ rest
  simp [decodeOp, decodeElement, OpWord.as, OpWord.fault, formA, formAB, formABC, formNone, modBit, bit1, keepSlot, hw]

theorem acc (a b : Src) (d : Dst) (n : BitVec 4) (e : Bool) : Statement (.acc a b d n e) := by
  intro _ hc hw rest
  cases hc
  simp only [Instr.wf, Bool.and_eq_true, decide_eq_true_eq] at hw
  refine of_op rfl (by simp [isConstWord]) ?_ rest
  simp [decodeOp, decodeElement, OpWord.as, OpWord.fault, formA, formAB, formABC, formNone, modBit, bit1, hw]

theorem scan (a b : Src) (d : Dst) (n : BitVec 4) (e : Bool) : Statement (.scan a b d n e) := by
  intro _ hc hw rest
  cases hc
  simp only [Instr.wf, Bool.and_eq_true, decide_eq_true_eq] at hw
  refine of_op rfl (by simp [isConstWord]) ?_ rest
  simp [decodeOp, decodeElement, OpWord.as, OpWord.fault, formA, formAB, formABC, formNone, modBit, bit1, hw]

theorem delay (a b : Src) (e : Bool) : Statement (.delay a b e) := by
  intro _ hc hw rest
  cases hc
  refine of_op rfl (by simp [isConstWord]) ?_ rest
  simp [decodeOp, decodeElement, OpWord.as, OpWord.fault, formA, formAB, formABC, formNone, modBit, bit1, keepSlot, hw]

theorem rowms (a b c : Src) (d : Dst) (n : BitVec 4) (e : Bool) : Statement (.rowms a b c d n e) := by
  intro _ hc hw rest
  cases hc
  simp only [Instr.wf, Bool.and_eq_true, decide_eq_true_eq] at hw
  refine of_op rfl (by simp [isConstWord]) ?_ rest
  simp [decodeOp, decodeElement, OpWord.as, OpWord.fault, formA, formAB, formABC, formNone, modBit, bit1, hw]

theorem rowfin (a b : Src) (d : Dst) (n : BitVec 4) (e : Bool) : Statement (.rowfin a b d n e) := by
  intro _ hc hw rest
  cases hc
  simp only [Instr.wf, Bool.and_eq_true, decide_eq_true_eq] at hw
  refine of_op rfl (by simp [isConstWord]) ?_ rest
  simp [decodeOp, decodeElement, OpWord.as, OpWord.fault, formA, formAB, formABC, formNone, modBit, bit1, hw]

theorem rowscl (a b c : Src) (d : Dst) (n : BitVec 4) (e : Bool) : Statement (.rowscl a b c d n e) := by
  intro _ hc hw rest
  cases hc
  simp only [Instr.wf, Bool.and_eq_true, decide_eq_true_eq] at hw
  refine of_op rfl (by simp [isConstWord]) ?_ rest
  simp [decodeOp, decodeElement, OpWord.as, OpWord.fault, formA, formAB, formABC, formNone, modBit, bit1, hw]

theorem ldt (a : Src) (d : Dst) (n : BitVec 4) (tag : BitVec 3) (e : Bool) : Statement (.ldt a d n tag e) := by
  intro _ hc hw rest
  cases hc
  simp only [Instr.wf, Bool.and_eq_true, decide_eq_true_eq] at hw
  refine of_op rfl (by simp [isConstWord]) ?_ rest
  simp [decodeOp, decodeAg, OpWord.as, OpWord.fault, formA, formAB, formABC, formNone, modBit, bit1, hw]

theorem stt (a b : Src) (e : Bool) : Statement (.stt a b e) := by
  intro _ hc hw rest
  cases hc
  refine of_op rfl (by simp [isConstWord]) ?_ rest
  simp [decodeOp, decodeAg, OpWord.as, OpWord.fault, formA, formAB, formABC, formNone, modBit, bit1, keepSlot, hw]

theorem ldx (a b : Src) (d : Dst) (n : BitVec 4) (tag : BitVec 3) (e : Bool) : Statement (.ldx a b d n tag e) := by
  intro _ hc hw rest
  cases hc
  simp only [Instr.wf, Bool.and_eq_true, decide_eq_true_eq] at hw
  refine of_op rfl (by simp [isConstWord]) ?_ rest
  simp [decodeOp, decodeAg, OpWord.as, OpWord.fault, formA, formAB, formABC, formNone, modBit, bit1, hw]

theorem stx (a b c : Src) (e : Bool) : Statement (.stx a b c e) := by
  intro _ hc hw rest
  cases hc
  refine of_op rfl (by simp [isConstWord]) ?_ rest
  simp [decodeOp, decodeAg, OpWord.as, OpWord.fault, formA, formAB, formABC, formNone, modBit, bit1, keepSlot, hw]

theorem amox (a b c : Src) (d : Dst) (n : BitVec 4) (fn : AmoFn) (e : Bool) : Statement (.amox a b c d n fn e) := by
  intro _ hc hw rest
  cases hc
  simp only [Instr.wf, Bool.and_eq_true, decide_eq_true_eq] at hw
  refine of_op rfl (by simp [isConstWord]) ?_ rest
  simp [decodeOp, decodeAg, OpWord.as, OpWord.fault, formA, formAB, formABC, formNone, modBit, bit1, hw]

theorem tmove (a : Src) (d : Dst) (n : BitVec 4) (e : Bool) : Statement (.tmove a d n e) := by
  intro _ hc hw rest
  cases hc
  simp only [Instr.wf, Bool.and_eq_true, decide_eq_true_eq] at hw
  refine of_op rfl (by simp [isConstWord]) ?_ rest
  simp [decodeOp, decodeAg, OpWord.as, OpWord.fault, formA, formAB, formABC, formNone, modBit, bit1, hw]

theorem bndry (a : Src) (d : Dst) (n : BitVec 4) (sc : Scope) (e : Bool) : Statement (.bndry a d n sc e) := by
  intro _ hc hw rest
  cases hc
  simp only [Instr.wf, Bool.and_eq_true, decide_eq_true_eq] at hw
  refine of_op rfl (by simp [isConstWord]) ?_ rest
  simp [decodeOp, decodeAg, OpWord.as, OpWord.fault, formA, formAB, formABC, formNone, modBit, bit1, hw]

theorem cvt (a : Src) (d : Dst) (n : BitVec 4) (sat : Bool) (tag : BitVec 3) (e : Bool) : Statement (.cvt a d n sat tag e) := by
  intro _ hc hw rest
  cases hc
  simp only [Instr.wf] at hw
  refine of_op (w := encOp 0x30 a 0 0 d n (modSat sat tag) e) rfl (by simp [isConstWord]) ?_ rest
  simp only [decodeOp, decodeCv, of_encOp, modSat_flag, modSat_tag]
  simp [OpWord.as, OpWord.fault, formA, hw]

theorem cvtq (a : Src) (d : Dst) (n : BitVec 4) (target : BitVec 3) (e : Bool) : Statement (.cvtq a d n target e) := by
  intro _ hc hw rest
  cases hc
  simp only [Instr.wf, Bool.and_eq_true, decide_eq_true_eq] at hw
  refine of_op rfl (by simp [isConstWord]) ?_ rest
  have ht : ¬ target.toNat < 4 := by omega
  simp [decodeOp, decodeCv, OpWord.as, OpWord.fault, formA, ht, hw.2]

theorem cvts (a : Src) (d : Dst) (n : BitVec 4) (sat : Bool) (tag : BitVec 3) (e : Bool) : Statement (.cvts a d n sat tag e) := by
  intro _ hc hw rest
  cases hc
  simp only [Instr.wf] at hw
  refine of_op (w := encOp 0x32 a 0 0 d n (modSat sat tag) e) rfl (by simp [isConstWord]) ?_ rest
  simp only [decodeOp, decodeCv, of_encOp, modSat_flag, modSat_tag]
  simp [OpWord.as, OpWord.fault, formA, hw]

theorem wsload (a : Src) (e : Bool) : Statement (.wsload a e) := by
  intro _ hc hw rest
  cases hc
  refine of_op rfl (by simp [isConstWord]) ?_ rest
  simp [decodeOp, decodePa, OpWord.as, OpWord.fault, formA, formAB, formABC, formNone, modBit, bit1, keepSlot, hw]

theorem mm (a b : Src) (d : Dst) (n : BitVec 4) (e : Bool) : Statement (.mm a b d n e) := by
  intro _ hc hw rest
  cases hc
  simp only [Instr.wf, Bool.and_eq_true, decide_eq_true_eq] at hw
  refine of_op rfl (by simp [isConstWord]) ?_ rest
  simp [decodeOp, decodePa, OpWord.as, OpWord.fault, formA, formAB, formABC, formNone, modBit, bit1, hw]

theorem accrd (a : Src) (d : Dst) (n : BitVec 4) (sat e : Bool) : Statement (.accrd a d n sat e) := by
  intro _ hc hw rest
  cases hc
  simp only [Instr.wf, Bool.and_eq_true, decide_eq_true_eq] at hw
  refine of_op rfl (by simp [isConstWord]) ?_ rest
  cases sat <;> simp [decodeOp, decodePa, OpWord.as, OpWord.fault, formA, formAB, formABC, formNone, modBit, bit1, hw]

theorem acczero (a : Src) (e : Bool) : Statement (.acczero a e) := by
  intro _ hc hw rest
  cases hc
  refine of_op rfl (by simp [isConstWord]) ?_ rest
  simp [decodeOp, decodePa, OpWord.as, OpWord.fault, formA, formAB, formABC, formNone, modBit, bit1, keepSlot, hw]

theorem mmInterrupt (n : NodeId) : Statement (.mmInterrupt n) := by
  intro _ hc
  cases hc

theorem mmResume (n : NodeId) : Statement (.mmResume n) := by
  intro _ hc
  cases hc

theorem fcfg (a : Src) (e : Bool) : Statement (.fcfg a e) := by
  intro _ hc hw rest
  cases hc
  refine of_op rfl (by simp [isConstWord]) ?_ rest
  simp [decodeOp, decodeFe, OpWord.as, OpWord.fault, formA, formAB, formABC, formNone, modBit, bit1, keepSlot, hw]

theorem fins (a b c : Src) (e : Bool) : Statement (.fins a b c e) := by
  intro _ hc hw rest
  cases hc
  refine of_op rfl (by simp [isConstWord]) ?_ rest
  simp [decodeOp, decodeFe, OpWord.as, OpWord.fault, formA, formAB, formABC, formNone, modBit, bit1, keepSlot, hw]

theorem fprobe (a b c : Src) (d : Dst) (n : BitVec 4) (e : Bool) : Statement (.fprobe a b c d n e) := by
  intro _ hc hw rest
  cases hc
  simp only [Instr.wf, Bool.and_eq_true, decide_eq_true_eq] at hw
  refine of_op rfl (by simp [isConstWord]) ?_ rest
  simp [decodeOp, decodeFe, OpWord.as, OpWord.fault, formA, formAB, formABC, formNone, modBit, bit1, hw]

theorem fmrg (a : Src) (e : Bool) : Statement (.fmrg a e) := by
  intro _ hc hw rest
  cases hc
  refine of_op rfl (by simp [isConstWord]) ?_ rest
  simp [decodeOp, decodeFe, OpWord.as, OpWord.fault, formA, formAB, formABC, formNone, modBit, bit1, keepSlot, hw]

theorem fdrain (a : Src) (d : Dst) (n : BitVec 4) (e : Bool) : Statement (.fdrain a d n e) := by
  intro _ hc hw rest
  cases hc
  simp only [Instr.wf, Bool.and_eq_true, decide_eq_true_eq] at hw
  refine of_op rfl (by simp [isConstWord]) ?_ rest
  simp [decodeOp, decodeFe, OpWord.as, OpWord.fault, formA, formAB, formABC, formNone, modBit, bit1, hw]

theorem fcnt (d : Dst) (n : BitVec 4) (e : Bool) : Statement (.fcnt d n e) := by
  intro _ hc hw rest
  cases hc
  simp only [Instr.wf, Bool.and_eq_true, decide_eq_true_eq] at hw
  refine of_op rfl (by simp [isConstWord]) ?_ rest
  simp [decodeOp, decodeFe, OpWord.as, OpWord.fault, formA, formAB, formABC, formNone, modBit, bit1, hw]

theorem fclr (e : Bool) : Statement (.fclr e) := by
  intro _ hc hw rest
  cases hc
  refine of_op rfl (by simp [isConstWord]) ?_ rest
  simp [decodeOp, decodeFe, OpWord.as, OpWord.fault, formA, formAB, formABC, formNone, modBit, bit1, keepSlot, hw]

theorem tokenArrival (inst edge : Nat) : Statement (.tokenArrival inst edge) := by
  intro _ hc
  cases hc

theorem matchingStoreAdmit (n : NodeId) (ctx port place : Nat) : Statement (.matchingStoreAdmit n ctx port place) := by
  intro _ hc
  cases hc

theorem firingStart (n : NodeId) : Statement (.firingStart n) := by
  intro _ hc
  cases hc

theorem streamPoint (stream : Nat) : Statement (.streamPoint stream) := by
  intro _ hc
  cases hc

theorem wakeTokenArrival (tag : BitVec 16) : Statement (.wakeTokenArrival tag) := by
  intro _ hc
  cases hc

theorem ceCopy (op units : Nat) : Statement (.ceCopy op units) := by
  intro _ hc
  cases hc

theorem ceCopyc (op units : Nat) : Statement (.ceCopyc op units) := by
  intro _ hc
  cases hc

theorem ceFill (op units : Nat) : Statement (.ceFill op units) := by
  intro _ hc
  cases hc

theorem cePlane (op units : Nat) : Statement (.cePlane op units) := by
  intro _ hc
  cases hc

theorem ceGather (op units : Nat) : Statement (.ceGather op units) := by
  intro _ hc
  cases hc

theorem ceScatter (op units : Nat) : Statement (.ceScatter op units) := by
  intro _ hc
  cases hc

theorem coCompose (op units : Nat) : Statement (.coCompose op units) := by
  intro _ hc
  cases hc

theorem lePut (op units : Nat) (answer : RemoteAnswer) : Statement (.lePut op units answer) := by
  intro _ hc
  cases hc

theorem leGet (op : Nat) (data : List Byte) (answer : RemoteAnswer) : Statement (.leGet op data answer) := by
  intro _ hc
  cases hc

theorem leLamo (op : Nat) (old : Word) (answer : RemoteAnswer) : Statement (.leLamo op old answer) := by
  intro _ hc
  cases hc

theorem leLsig (op : Nat) (answer : RemoteAnswer) : Statement (.leLsig op answer) := by
  intro _ hc
  cases hc

theorem engineCompletion (op : Nat) : Statement (.engineCompletion op) := by
  intro _ hc
  cases hc

theorem spanRequestArrival (r : SpanRequest) : Statement (.spanRequestArrival r) := by
  intro _ hc
  cases hc

theorem spanFlitError (port : Nat) (f : SpanFlit) : Statement (.spanFlitError port f) := by
  intro _ hc
  cases hc

theorem spanVcEscape (packet : Nat) : Statement (.spanVcEscape packet) := by
  intro _ hc
  cases hc

theorem kick (vf : Nat) (v : Word) : Statement (.kick vf v) := by
  intro _ hc
  cases hc

theorem launchSlotReread (vf : Nat) : Statement (.launchSlotReread vf) := by
  intro _ hc
  cases hc

theorem wakeMapped (vf : Nat) (tag : BitVec 16) : Statement (.wakeMapped vf tag) := by
  intro _ hc
  cases hc

theorem wakeInvalid (vf : Nat) (tag : BitVec 16) : Statement (.wakeInvalid vf tag) := by
  intro _ hc
  cases hc

theorem superGrant (vf : Nat) (stamp : BitVec 16) (units : BitVec 47) : Statement (.superGrant vf stamp units) := by
  intro _ hc
  cases hc

theorem superEnd (vf : Nat) (stamp : BitVec 16) (units : BitVec 47) : Statement (.superEnd vf stamp units) := by
  intro _ hc
  cases hc

theorem tlbinvVa (vf : Nat) (v : Word) : Statement (.tlbinvVa vf v) := by
  intro _ hc
  cases hc

theorem tlbinvAll (vf : Nat) : Statement (.tlbinvAll vf) := by
  intro _ hc
  cases hc

theorem tlbinvDone (vf : Nat) : Statement (.tlbinvDone vf) := by
  intro _ hc
  cases hc

theorem lrbaseWrite (vf : Nat) (v : Word) : Statement (.lrbaseWrite vf v) := by
  intro _ hc
  cases hc

theorem crbaseWrite (vf : Nat) (v : Word) : Statement (.crbaseWrite vf v) := by
  intro _ hc
  cases hc

theorem erbaseWrite (vf : Nat) (v : Word) : Statement (.erbaseWrite vf v) := by
  intro _ hc
  cases hc

theorem statusRead (vf : Nat) : Statement (.statusRead vf) := by
  intro _ hc
  cases hc

theorem registerWrite (fn off : Nat) (v : Word) : Statement (.registerWrite fn off v) := by
  intro _ hc
  cases hc

theorem tenantRecordWrite (tag : Nat) (v : BitVec 512) : Statement (.tenantRecordWrite tag v) := by
  intro _ hc
  cases hc

theorem windowEntryWrite (bank entry : Nat) (v : BitVec 16) : Statement (.windowEntryWrite bank entry v) := by
  intro _ hc
  cases hc

theorem filterEntryWrite (entry : Nat) (v : BitVec 128) : Statement (.filterEntryWrite entry v) := by
  intro _ hc
  cases hc

theorem frameTableWrite (frame : Nat) (v : Byte) : Statement (.frameTableWrite frame v) := by
  intro _ hc
  cases hc

theorem bulkheadAssign (bh tag : Nat) : Statement (.bulkheadAssign bh tag) := by
  intro _ hc
  cases hc

theorem pllRelockDone (bh : Nat) : Statement (.pllRelockDone bh) := by
  intro _ hc
  cases hc

theorem bulkheadRelease (bh : Nat) : Statement (.bulkheadRelease bh) := by
  intro _ hc
  cases hc

theorem bulkheadReleaseDone (bh : Nat) : Statement (.bulkheadReleaseDone bh) := by
  intro _ hc
  cases hc

theorem bulkheadReset (bh : Nat) (release : Bool) : Statement (.bulkheadReset bh release) := by
  intro _ hc
  cases hc

theorem resetLineRelease (bh : Nat) : Statement (.resetLineRelease bh) := by
  intro _ hc
  cases hc

theorem zeroisationDone (bh : Nat) (readBackFails : Bool) : Statement (.zeroisationDone bh readBackFails) := by
  intro _ hc
  cases hc

theorem timeSliceExpiry (bh : Nat) : Statement (.timeSliceExpiry bh) := by
  intro _ hc
  cases hc

theorem bulkheadSwitch (bh : Nat) : Statement (.bulkheadSwitch bh) := by
  intro _ hc
  cases hc

theorem hostRead (fn bar off size : Nat) (path : HostPath) : Statement (.hostRead fn bar off size path) := by
  intro _ hc
  cases hc

theorem hostWrite (fn bar off : Nat) (data : List Byte) (path : HostPath) : Statement (.hostWrite fn bar off data path) := by
  intro _ hc
  cases hc

theorem hostAtomic (fn bar off size : Nat) (op : HostAtomicOp) (operand compare : Word) (path : HostPath) : Statement (.hostAtomic fn bar off size op operand compare path) := by
  intro _ hc
  cases hc

theorem vfFlr (vf : Nat) : Statement (.vfFlr vf) := by
  intro _ hc
  cases hc

theorem hostLinkRetrain (link : Nat) (up : Bool) : Statement (.hostLinkRetrain link up) := by
  intro _ hc
  cases hc

theorem powerGood (images : List FirmwareImage) : Statement (.powerGood images) := by
  intro _ hc
  cases hc

theorem memoryTrained (u : TrainedUnit) : Statement (.memoryTrained u) := by
  intro _ hc
  cases hc

theorem bulkheadBringup (bh : Nat) : Statement (.bulkheadBringup bh) := by
  intro _ hc
  cases hc

theorem cxlFrameResident (frame : Nat) : Statement (.cxlFrameResident frame) := by
  intro _ hc
  cases hc

theorem cxlFrameLost (firstFrame frames : Nat) (lasting : Bool) : Statement (.cxlFrameLost firstFrame frames lasting) := by
  intro _ hc
  cases hc

theorem capMessage (m : Word) : Statement (.capMessage m) := by
  intro _ hc
  cases hc

theorem capScaleTick (millivolts : List Nat) : Statement (.capScaleTick millivolts) := by
  intro _ hc
  cases hc

theorem sensorSample (bh : Nat) (temps currents : List Int) : Statement (.sensorSample bh temps currents) := by
  intro _ hc
  cases hc

theorem spdmGetMeasurements (vf index : Nat) : Statement (.spdmGetMeasurements vf index) := by
  intro _ hc
  cases hc

theorem pldmSensorRead (sensor : Nat) : Statement (.pldmSensorRead sensor) := by
  intro _ hc
  cases hc

theorem pldmFirmwareUpdate (image : FirmwareImage) : Statement (.pldmFirmwareUpdate image) := by
  intro _ hc
  cases hc

theorem rankRefresh (inst : Nat) : Statement (.rankRefresh inst) := by
  intro _ hc
  cases hc

theorem phasePlace (die : Nat) : Statement (.phasePlace die) := by
  intro _ hc
  cases hc

theorem tileConfigComplete (inst sheet tile : Nat) : Statement (.tileConfigComplete inst sheet tile) := by
  intro _ hc
  cases hc

theorem phaseEnd (inst : Nat) : Statement (.phaseEnd inst) := by
  intro _ hc
  cases hc

theorem completionRecordPost (vf : Nat) : Statement (.completionRecordPost vf) := by
  intro _ hc
  cases hc

theorem eventRecordPost (vf : Nat) : Statement (.eventRecordPost vf) := by
  intro _ hc
  cases hc

theorem backfillLimit (die : Nat) : Statement (.backfillLimit die) := by
  intro _ hc
  cases hc

theorem quantumExhausted (slice : Nat) : Statement (.quantumExhausted slice) := by
  intro _ hc
  cases hc

theorem workAllowanceDraw (sheet ctx : Nat) : Statement (.workAllowanceDraw sheet ctx) := by
  intro _ hc
  cases hc

theorem budgetReport (inst : Nat) : Statement (.budgetReport inst) := by
  intro _ hc
  cases hc

theorem energyRefresh (inst : Nat) : Statement (.energyRefresh inst) := by
  intro _ hc
  cases hc

theorem allowanceWindow (sheet : Nat) : Statement (.allowanceWindow sheet) := by
  intro _ hc
  cases hc

theorem rateWindowEnd (inst : Nat) : Statement (.rateWindowEnd inst) := by
  intro _ hc
  cases hc

theorem slugTaken (inst change : Nat) : Statement (.slugTaken inst change) := by
  intro _ hc
  cases hc

theorem watchdogExpiry (inst : Nat) : Statement (.watchdogExpiry inst) := by
  intro _ hc
  cases hc

theorem cutTimer (inst : Nat) : Statement (.cutTimer inst) := by
  intro _ hc
  cases hc

theorem nodeSave (inst : Nat) (n : NodeId) : Statement (.nodeSave inst n) := by
  intro _ hc
  cases hc

theorem cutComplete (inst : Nat) (failingLine : Option Nat) : Statement (.cutComplete inst failingLine) := by
  intro _ hc
  cases hc

theorem tokenParityError (inst : Nat) (site : FaultSite) : Statement (.tokenParityError inst site) := by
  intro _ hc
  cases hc

theorem nodeMachineCheck (site : FaultSite) : Statement (.nodeMachineCheck site) := by
  intro _ hc
  cases hc

theorem rollbackRestoreDone (inst : Nat) (areaFails : Bool) : Statement (.rollbackRestoreDone inst areaFails) := by
  intro _ hc
  cases hc

theorem reportDelivery (inst : Nat) : Statement (.reportDelivery inst) := by
  intro _ hc
  cases hc

theorem thawArrival (inst sheet : Nat) : Statement (.thawArrival inst sheet) := by
  intro _ hc
  cases hc

theorem scrubLine (addr : Nat) (find : ScrubFind) : Statement (.scrubLine addr find) := by
  intro _ hc
  cases hc

theorem illegalInstruction (w : Word) : Statement (.illegalInstruction w) := by
  intro _ hc
  cases hc

theorem sharedUnitFault (u : SharedUnit) (again : Bool) : Statement (.sharedUnitFault u again) := by
  intro _ hc
  cases hc

theorem parkComplete (bh : Nat) : Statement (.parkComplete bh) := by
  intro _ hc
  cases hc

theorem restoreComplete (bh : Nat) : Statement (.restoreComplete bh) := by
  intro _ hc
  cases hc

theorem tdispRequest (vf : Nat) (m : TdispMsg) : Statement (.tdispRequest vf m) := by
  intro _ hc
  cases hc

theorem ret : Statement (.ret) := by
  intro _ hc hw rest
  cases hc
  exact of_single rfl (by simp [isPairWord]) (by simp [decodeSingle, decodeAlu, decodeSx, orReject, hw]) rest

theorem stbar : Statement (.stbar) := by
  intro _ hc hw rest
  cases hc
  exact of_single rfl (by simp [isPairWord]) (by simp [decodeSingle, decodeAlu, decodeSx, orReject, hw]) rest

theorem fhalt : Statement (.fhalt) := by
  intro _ hc hw rest
  cases hc
  exact of_single rfl (by simp [isPairWord]) (by simp [decodeSingle, decodeAlu, decodeSx, orReject, hw]) rest

theorem bell : Statement (.bell) := by
  intro _ hc hw rest
  cases hc
  exact of_single rfl (by simp [isPairWord]) (by simp [decodeSingle, decodeAlu, decodeSx, orReject, hw]) rest

theorem eret : Statement (.eret) := by
  intro _ hc hw rest
  cases hc
  exact of_single rfl (by simp [isPairWord]) (by simp [decodeSingle, decodeAlu, decodeSx, orReject, hw]) rest

theorem wfi : Statement (.wfi) := by
  intro _ hc hw rest
  cases hc
  exact of_single rfl (by simp [isPairWord]) (by simp [decodeSingle, decodeAlu, decodeSx, orReject, hw]) rest

theorem yield : Statement (.yield) := by
  intro _ hc hw rest
  cases hc
  exact of_single rfl (by simp [isPairWord]) (by simp [decodeSingle, decodeAlu, decodeSx, orReject, hw]) rest

theorem brk : Statement (.brk) := by
  intro _ hc hw rest
  cases hc
  exact of_single rfl (by simp [isPairWord]) (by simp [decodeSingle, decodeAlu, decodeSx, orReject, hw]) rest

theorem nop : Statement (.nop) := by
  intro _ hc hw rest
  cases hc
  exact of_single rfl (by simp [isPairWord]) (by simp [decodeSingle, decodeAlu, decodeSx, orReject, hw]) rest

theorem pferrRead : Statement (.pferrRead) := by
  intro _ hc
  cases hc

theorem perstDeassert : Statement (.perstDeassert) := by
  intro _ hc
  cases hc

theorem capHorizonExpiry : Statement (.capHorizonExpiry) := by
  intro _ hc
  cases hc

theorem pldmBaseDiscovery : Statement (.pldmBaseDiscovery) := by
  intro _ hc
  cases hc

theorem instructionFetchFault : Statement (.instructionFetchFault) := by
  intro _ hc
  cases hc

theorem configurationRequest : Statement (.configurationRequest) := by
  intro _ hc
  cases hc

end Sys2Proof.Laws.Encoding
end

