-- ==== Sys2Proof/Tests/Slice0.lean ====
section
/-! SUPPORT. Small checks: the words and values the spec works out, ill-formed terms that the checks refuse, and, for every
statement with hypotheses, states and operands that meet them together (`witness_…`). -/

namespace Sys2Proof.Tests

set_option Elab.async false

open Sys2Proof.Machine

/-! ### Small states -/

/-- Registers with some values. -/
def regs (l : List (Nat × Word)) : Vector Word 32 := Vector.ofFn fun k => agetD l k.val 0

/-- A running thread at the start of its code region, its spill area in own SS. -/
def thr : Thread :=
  { Thread.reset with run := .running, pc := 0xFF00000001300000, rasBase := 0xFF00000001010000, rasLim := 0xFF00000001010100 }

/-- Thread 0 of sheet 0, of no instance, acting. -/
def lone (t : Thread) : State := State.reset.setCur t

/-- An address in own SS. -/
def ss (off : Nat) : Word := BitVec.ofNat 64 (0xFF00000001000000 + off)

/-- Bytes of own SS of sheet 0. -/
def poke (off : Nat) (bs : List Byte) (s : State) : State := { s with mem := s.mem.write (ssLoc 0 off) bs }

/-- An image for two sheets, with code on both. -/
def variant : ImageVariant := { n := 1, w := 2, h := 1, packets := [], code := [0, 1], actors := [], routes := [], regions := [] }

/-- The image. -/
def image : Image := { pinned := false, crossDie := false, needs := [], variants := [variant], bytes := 64 }

/-- A launch of VF 0 of tenant 1. -/
def slice : Slice :=
  { vf := 0, tenant := 1, die := 0, stamp := 1, cookie := 7, prio := 0, deadline := 0, work := 5000, workFree := false, energy := 9,
    energyFree := true, charged := 0, energyUsed := 0, energyPart := 0, save := 0, ptab := 0, nph := 1, phase := 0, phasesRun := 1, accepted := 0,
    waitSince := 0, quantum := 0, sendBack := false, handles := [(1, image)], image := none, n := 1, params := [],
    rasBase := ss 0x10000, rasLim := ss 0x10100, inst := some 1, state := .placed, heldForBudget := false, lastCut := 0,
    rankTime := 0, draining := false }

/-- Its instance: sheets 0 and 1, context 0. -/
def inst : Inst := instOf 2 slice image variant 0 0 0 0

/-- The instance in a state, its base thread acting. -/
def placed (i : Inst) (t : Thread) : State :=
  { lone t with
    insts := [(1, i)], slices := [(2, slice)],
    bulkheads := [(0, { Bulkhead.reset with state := .active, tag := 1, rotation := [1], started := true })] }

/-! ### Decoding -/

theorem test_decode_alu : decodeTableWord 32 0x04642800 = some (.add 3 4 5) ∧ decodeTableWord 32 0x04642801 = some (.sub 3 4 5) := by decide
theorem test_decode_immediate : decodeTableWord 32 0x08A0000C = some (.addi 5 0 12) ∧ decodeTableWord 32 0x1C420010 = some (.shli 2 2 16) := by
  decide
theorem test_decode_branch : decodeTableWord 32 0x40640005 = some (.beq 3 4 5) ∧ decodeTableWord 32 0x6C60FFFC = some (.loop 3 0xFFFC) := by
  decide
theorem test_decode_pair : decodeTableWord 64 0x0000960080EA0010 = some (.ld 7 10 16 .w .acq .dev) ∧
    decodeTableWord 64 0x00008006888A0000 = some (.amo 4 10 6 0 .w .plain .tile .add) := by decide
theorem test_decode_fence : decodeTableWord 32 0x91800000 = some (.fence .dev) := by decide
theorem test_decode_stream : decodeTableWord 32 0xA4440000 = some (.strin 2 4 0) ∧ decodeTableWord 32 0xA8820000 = some (.strout 4 2 0) ∧
    decodeTableWord 32 0xB00C0000 = some (.bsel 12) := by decide
theorem test_decode_message : decodeTableWord 32 0xC00E0004 = some (.amsg 14 4) := by decide
theorem test_decode_queue : decodeTableWord 32 0xD077C000 = some (.qpush 3 23 24) ∧ decodeTableWord 32 0xD6C30000 = some (.qpop 22 3) ∧
    decodeTableWord 32 0xE0600003 = some (.qbind 3 3) := by decide
theorem test_decode_forme : decodeTableWord 32 0xE8000003 = some .fhalt ∧ decodeTableWord 32 0xE8000004 = some .bell ∧
    decodeTableWord 32 0xE98B0005 = some (.flay 12 11) := by decide
theorem test_decode_sync : decodeTableWord 32 0xEC050000 = some (.bar 5) ∧ decodeTableWord 32 0xFA300000 = some (.csrw 3 0) ∧
    decodeTableWord 32 0xF8500040 = some (.csrr 5 0x40) := by decide
theorem test_decode_system : decodeTableWord 32 0xFC004800 = some (.trap 0x12) ∧ decodeTableWord 32 0xFC000001 = some .eret ∧
    decodeTableWord 32 0xFC000005 = some .nop := by decide
theorem test_decode_element : decodeAs (.op .element) (bytesOfWord 0x02400010) = .ok (.elemAdd 4 4 0 0 false true, []) ∧
    decodeAs (.op .element) (bytesOfWord 0x0C180820) = .ok (.fma 0 1 4 0 2 true false, []) := ⟨rfl, rfl⟩
theorem test_decode_ag : decodeAs (.op .ag) (bytesOfWord 0xC0000050) = .ok (.ldt 0 0 0 2 true, []) := rfl
theorem test_decode_cv : decodeAs (.op .cv) (bytesOfWord 0xC0000150) = .ok (.cvt 0 0 0 true 2 true, []) := rfl
theorem test_decode_pa : decodeAs (.op .pa) (bytesOfWord 0xC4100010) = .ok (.mm 0 1 0 0 true, []) := rfl
theorem test_decode_fe : decodeAs (.op .fe) (bytesOfWord 0xC4040010) = .ok (.fins 0 0 2 true, []) := rfl

/-! ### Hypotheses of the statements: the sequencer -/

/-- Operands at the edges of their ranges. -/
def edge : State := lone { thr with regs := regs [(1, 0x8000000000000000), (2, 0xFFFFFFFFFFFFFFFF), (3, 3), (4, 0x3BFFC), (5, 0x3C000), (6, ss 8),
  (7, ss 0x3FFFE0), (8, ss 0x20)] }

/-- The state with an issue turn ahead and `addi g5, g0, 12` at the pc. -/
def fetched : State := State.reset.withFetchWord 32 0x08A0000C

theorem witness_DecodeOfEncode : (Instr.add 3 4 5).wordClass = some .sequencer ∧ (Instr.add 3 4 5).wf = true ∧
    (Instr.ld 7 10 16 .w .acq .dev).wordClass = some .sequencer ∧ (Instr.ld 7 10 0xFFFF .d .acq .sys).wf = true ∧
    (Instr.const 4 0 1 true 0xFFFFFFFF).wordClass = some (.op .element) ∧ (Instr.const 4 0 1 true 0xFFFFFFFF).wf = true ∧
    (Instr.mm 0 1 0 15 false).wf = true ∧ (Instr.fclr true).wf = true := by decide +kernel

/-- The state after its agenda entry is taken. -/
def taken : State := { fetched with agenda := [] }

/-- A queue's line on sheet 0, and a node's op slots. -/
def queueLine : SramLine := ⟨0, .queues, 3⟩

theorem witness_StepRunsInstruction : ∃ bs rest, fetched.agenda = .issue 0 :: [] ∧ taken.chooseThread 0 = some 0 ∧ taken.canIssue 0 0 = true ∧
    taken.mustDeliver 0 0 = none ∧ taken.fetch 0 0 = .ok bs ∧ decodeSeq bs = .ok (.addi 5 0 12, rest) ∧
    (taken.beginInstr 0 0 (.addi 5 0 12)).strayInstr (.addi 5 0 12) = none :=
  ⟨_, _, by decide +kernel, by decide +kernel, by decide +kernel, by decide +kernel, rfl, rfl, by decide +kernel⟩

theorem witness_StepRunsInstruction_tags : fetched.attested = [] ∧ taken.package.met = [] ∧ taken.asked = [] ∧ taken.drover.recordWrites = [] ∧
    taken.misplaced = [] ∧ taken.package.hostWaits = [] ∧ (∀ p ∈ taken.ops, p.2.arrived.isSome = true) ∧
    (({ taken with arrayTags := [(queueLine, 5)] } : State).beginInstr 0 0 (.qcnt 1 3)).strayInstr (.qcnt 1 3) = some queueLine := by
  decide +kernel

theorem test_step_addi : ∃ t, step fetched = .next t ∧ t.reg 5 = 12 ∧ t.cur.pc = fetched.cur.pc + 4 := ⟨_, rfl, by decide +kernel, by decide +kernel⟩

theorem witness_StepKeepsMemoryCanonical : Inv fetched ∧ ∃ t, step fetched = .next t := ⟨rfl, _, rfl⟩

theorem witness_ActingThreadFrame : edge.curCtx < 4 ∧ ¬(1 = edge.curSheet ∧ 3 = edge.curCtx) := by decide +kernel

theorem witness_RegisterAlu : edge.reg 3 ≠ 0 ∧ edge.reg 0 = 0 ∧ edge.reg 1 = 0x8000000000000000 ∧ edge.reg 2 = 0xFFFFFFFFFFFFFFFF ∧
    (31 : Reg) ≠ 0 := by decide +kernel

theorem test_div_corner : exec (.div 9 1 2) edge = .next (edge.writeNext 9 0x8000000000000000) ∧
    exec (.rem 9 3 0) edge = .next (edge.writeNext 9 3) := ⟨rfl, rfl⟩

theorem witness_Immediates : (0x0040#16).extractLsb' 6 10 ≠ 0 ∧ (1 : Reg) ≠ 0 := by decide +kernel

theorem witness_Branches : (edge.reg 4).extractLsb' 0 2 = 0 ∧ (edge.reg 4).toNat < 0x3C000 ∧ (edge.reg 5).extractLsb' 0 2 = 0 ∧
    ¬(edge.reg 5).toNat < 0x3C000 ∧ (edge.reg 3).extractLsb' 0 2 ≠ 0 := by decide +kernel

/-- A full return-address store with a spill area of one entry. -/
def full (spl : Nat) : State :=
  lone { thr with ras := List.replicate 16 4, rasLim := 0xFF00000001010008, rasSpl := spl }

/-- An empty store with one spilled entry. -/
def spilled : State := lone { thr with rasSpl := 1 }

theorem witness_CallReturn : edge.cur.ras.length < 16 ∧ (edge.reg 4).toNat % 4 = 0 ∧ (edge.reg 3).toNat % 4 ≠ 0 ∧
    16 ≤ (full 1).cur.ras.length ∧ (full 1).cur.rasLim.toNat < (full 1).cur.rasBase.toNat + 8 * ((full 1).cur.rasSpl + 1) ∧
    (full 1).cur.ras = 4 :: List.replicate 15 4 ∧ edge.cur.ras = [] ∧ edge.cur.rasSpl = 0 ∧
    spilled.cur.ras = [] ∧ 0 < spilled.cur.rasSpl ∧ spilled.cur.invalid = none ∧
    (spilled.cur.rasBase + BitVec.ofNat 64 (8 * (spilled.cur.rasSpl - 1))).toNat % 8 = 0 ∧
    (spilled.resolve spilled.threadAgent (spilled.cur.rasBase + BitVec.ofNat 64 (8 * (spilled.cur.rasSpl - 1))).toNat 8 .read).2 =
      .ok (ssLoc 0 0x10000) 1 := by decide +kernel

theorem test_call_spills : ∃ t, exec (.call 2) (full 0) = .next t ∧ t.cur.rasSpl = 1 ∧ t.cur.ras.length = 16 ∧
    t.mem.read (ssLoc 0 0x10000) 8 = wordBytes 8 4 := ⟨_, rfl, by decide +kernel, by decide +kernel, by decide +kernel⟩

/-- A thread with a handler. -/
def handled : State := lone { thr with tvec := 0xFF00000001300100 }

theorem witness_TrapEntry : handled.cur.tvec ≠ 0 ∧ handled.curCtx < 4 := by decide +kernel

/-- The thread with a handler and an open issue group of one stream of a bank. -/
def grouped (bank : Nat) : State :=
  { lone { thr with tvec := 0xFF00000001300100, group := [9] } with
    streams := [(9, { inst := 0, sheet := 0, ctx := 0, inbound := true, port := 2, bank := bank, desc := descOf [], cursor := 0, ahead := [],
                      state := .group, stall := none, invalid := false })] }

theorem witness_TrapEntry_group : (grouped 1).cur.group = [9] ∧ (grouped 1).cur.tvec ≠ 0 ∧ (grouped 0).cur.held = [] ∧
    ((aget? (grouped 1).streams 9).map fun x => x.bank) = some 1 ∧ ((aget? (grouped 0).streams 9).map fun x => x.bank) = some 0 := by
  decide +kernel

theorem test_trap_entry : ∃ t, exec (.trap 0x12) handled = .next t ∧ t.cur.pc = 0xFF00000001300100 ∧ t.cur.epc = 0xFF00000001300000 ∧
    t.cur.tval = 0x12 ∧ t.cur.cause = 0x7800000000000010 := ⟨_, rfl, by decide +kernel, by decide +kernel, by decide +kernel, by decide +kernel⟩

theorem test_align_cause : ∃ t, exec (.ld 1 3 0 .d .plain .tile) (handled.setCur { handled.cur with regs := regs [(3, ss 4)] }) = .next t ∧
    t.cur.cause = 0x780000000000000B := ⟨_, rfl, by decide +kernel⟩

theorem witness_TrapWithoutHandlerEndsLaunch : (placed inst thr).cur.tvec = 0 ∧ (placed inst thr).curInst = some (1, inst) ∧
    aget? (placed inst thr).insts 1 = some inst ∧ aget? (placed inst thr).slices inst.slice = some slice ∧ slice.inst = some 1 := by decide +kernel

/-- The base thread at an open report. -/
def reporting (q : List Report) : Inst :=
  { inst with openReport := some report0, frozen := true, reports := q }
where
  /-- A report. -/
  report0 : Report := { kind := 3, src := 0, sub := 0, sheet := 0, tile := 0, elem := 0, ctx := 0, slot := 0, tval := 0, record := [],
                        node := none, discard := none }

theorem witness_SystemInstructions : handled.cur.entering = false ∧ handled.curInst = none ∧
    (placed inst thr).curInst = some (1, inst) ∧ inst.openReport = none := by decide +kernel

/-- The thread at an address outside its code region, with a handler, or entering one. -/
def strayed (e : Bool) : State :=
  { lone { thr with pc := 0xFF0000000133C000, tvec := 0xFF00000001300100, entering := e } with
    bulkheads := [(0, { Bulkhead.reset with state := .active })] }

theorem witness_SystemInstructions_fetch : inCode 0 ((strayed false).fetchAddr 0 0).toNat = false ∧ (strayed false).cur.tvec ≠ 0 ∧
    (strayed true).cur.entering = true ∧ (strayed true).curInst = none ∧ ((strayed true).bulkhead (bhOf 0)).state = .active ∧
    (strayed true).opsFrom (bhOf 0) = [] ∧ (strayed true).instsOn (bhOf 0) = [] ∧ ((strayed true).bulkhead (bhOf 0)).holders = [] := by
  decide +kernel

/-- The same of a thread of the placed instance. -/
def strayedIn : State :=
  placed inst { thr with pc := 0xFF0000000133C000, tvec := 0xFF00000001300100, entering := true }

theorem witness_SystemInstructions_placed : inCode 0 (strayedIn.fetchAddr 0 0).toNat = false ∧ strayedIn.cur.entering = true ∧
    strayedIn.curInst = some (1, inst) ∧ aget? strayedIn.insts 1 = some inst ∧ aget? strayedIn.slices inst.slice = some slice ∧
    slice.inst = some 1 ∧ (strayedIn.bulkhead (bhOf 0)).state = .active ∧ strayedIn.instsOn (bhOf 0) = [1] ∧
    strayedIn.opsFrom (bhOf 0) = [] ∧ strayedIn.drover.recordWrites = [] := by decide +kernel

theorem witness_SystemInstructions_untrusted (n : Nat) : strayedIn.tdiRuns n = false := by
  have h (v : Nat) : (strayedIn.vf v).tdi = .unlocked := by
    have e : strayedIn.vfs = [] := rfl
    unfold State.vf
    rw [e]
    rfl
  simp [State.tdiRuns, h]

theorem witness_EretClosesReport (q : List Report) (h : q = [] ∨ q = [reporting.report0]) :
    (placed (reporting q) thr).curInst = some (1, reporting q) ∧ aget? (placed (reporting q) thr).insts 1 = some (reporting q) ∧
    (reporting q).openReport = some reporting.report0 ∧ (reporting q).base = (placed (reporting q) thr).curSheet := by
  rcases h with rfl | rfl <;> exact ⟨rfl, rfl, rfl, rfl⟩

/-- What an access of eight bytes at `ss 16` by a thread of `edge` comes to. -/
def at16 (k : AccessKind) : State × Ans := edge.resolve edge.threadAgent (edge.reg 6 + (8#16).signExtend 64).toNat 8 k

theorem witness_MemoryPairs : (edge.reg 6 + (8#16).signExtend 64).toNat % widthBytes .d = 0 ∧ edge.cur.invalid = none ∧
    (at16 .read).2 = .ok (ssLoc 0 16) 1 ∧ (at16 .write).2 = .ok (ssLoc 0 16) 1 ∧ (at16 .atomic).2 = .ok (ssLoc 0 16) 1 ∧
    edge.publishes (ssLoc 0 16) 1 .plain .tile = false ∧
    leNat ((at16 .atomic).1.loadBytes 0 (ssLoc 0 16) 8) = ((at16 .atomic).1.reg 0).toNat % 2 ^ 64 ∧
    leNat ((at16 .atomic).1.loadBytes 0 (ssLoc 0 16) 8) ≠ ((at16 .atomic).1.reg 3).toNat % 2 ^ 64 := by decide +kernel

theorem test_store : ∃ t, exec (.st 3 6 0xFFFC .h .plain .tile) edge = .next t ∧ t.mem.read (ssLoc 0 4) 2 = [3, 0] ∧
    t.cur.pc = edge.cur.pc + 8 := ⟨_, rfl, by decide +kernel, by decide +kernel⟩

theorem test_amo_add : ∃ t, exec (.amo 9 6 2 0 .w .plain .tile .add) (poke 8 [5, 0, 0, 0] edge) = .next t ∧ t.reg 9 = 5 ∧
    t.mem.read (ssLoc 0 8) 4 = [4, 0, 0, 0] := ⟨_, rfl, by decide +kernel, by decide +kernel⟩

/-- A tenant 0 whose page 0 is declared invalid, its tables in DM frame 0. -/
def paged : State :=
  { lone { thr with regs := regs [(1, 0x10000)] } with
    mem := Memory.write [] 0x1000 (wordBytes 8 (0x2001)) |>.write 0x2000 (wordBytes 8 0x3001) |>.write 0x3000 (wordBytes 8 0x4001)
      |>.write 0x4000 (wordBytes 8 4) |>.write 0x4008 (wordBytes 8 0x0B00000000050003)
    drover := { Drover.reset with frames := [(0, 0x80)], records := [(0, 0x1000#512 <<< 272)] } }

/-- A state with a writable page at 0x10000 of tenant 1. -/
def mapped (s : State) : State :=
  { s with mem := paged.mem, drover := { Drover.reset with frames := [(0, 0x81)], records := [(1, 0x1000#512 <<< 272)] } }

theorem witness_PairTraps : (edge.reg 6 + (4#16).signExtend 64).toNat % widthBytes .d ≠ 0 ∧ paged.cur.invalid = none ∧
    (paged.reg 0 + (0#16).signExtend 64).toNat % widthBytes .d = 0 ∧
    (paged.resolve paged.threadAgent (paged.reg 0 + (0#16).signExtend 64).toNat 8 .write).2 = .xlate ∧
    (edge.resolve edge.threadAgent (edge.reg 7 + (0#16).signExtend 64).toNat 8 .read).2 = .access := by decide +kernel

theorem witness_PairTraps_invalid : (lone { thr with invalid := some (ss 8), regs := regs [(6, ss 8)] }).cur.invalid =
    some (((lone { thr with regs := regs [(6, ss 8)] }).reg 6) + (0#16).signExtend 64) := by decide +kernel

/-- A thread of an instance with an address of its own SS. -/
def owned : State := placed inst { thr with regs := regs [(6, ss 8)] }

theorem witness_PublishingAccessWaits : Scope.tile ≠ .sys ∧ edge.curInst = none ∧ owned.curInst = some (1, inst) ∧
    (edge.reg 6 + (0#16).signExtend 64).toNat % widthBytes .d = 0 ∧ edge.publishes (ssLoc 0 8) 1 .rel .sys = true ∧
    (edge.resolve edge.threadAgent (edge.reg 6 + (0#16).signExtend 64).toNat 8 .write).2 = .ok (ssLoc 0 8) 1 ∧
    (owned.resolve owned.threadAgent (owned.reg 6 + (0#16).signExtend 64).toNat 8 .write).2 = .ok (ssLoc 0 8) 1 := by decide +kernel

/-- A thread of the instance that waits for the commit of a cut. -/
def committing (i : Instr) (bs : List Byte) : State := placed inst { thr with regs := regs [(1, 0x805), (2, ss 8)], wait := some (.publish i bs) }

theorem witness_PublishingAccessWaits_commit : inst.ctx < 4 ∧
    ((committing (.fence .sys) []).thread 0 inst.ctx).wait = some (.publish (.fence .sys) []) := by decide +kernel

theorem witness_StoreThenLoad : edge.mem.wf = true ∧ aget? edge.insts 0 = none ∧ isSheetScratch 0xFF00000200000000 = true ∧
    aget? (placed inst thr).insts 1 = some inst ∧ isSheetScratch 0xFF000001FFFFFFFF = false := by decide +kernel

/-- A record of a descriptor: base 4, counts 1, strides 0. -/
def desc : List Byte := wordBytes 8 4 ++ wordBytes 8 1 ++ wordBytes 8 (2 ^ 32) ++ wordBytes 8 1

/-- The bytes of a record of n doublewords that can be read without a translation. -/
def recordAt (s : State) (a : Word) (n : Nat) (got : List Byte) : Option (List Byte) :=
  match n with
  | 0 => some got
  | n + 1 =>
    if a.toNat % 8 = 0 ∧ s.cur.invalid ≠ some a then
      match s.resolve s.threadAgent a.toNat 8 .read with
      | (t, .ok loc _) => if t = s then recordAt s (a + 8) n (got ++ s.loadBytes s.curInstId loc 8) else none
      | _ => none
    else none

/-- A record that can be read gives its bytes to whatever follows. -/
theorem read_gives (s : State) (i : Instr) (a : Word) (n : Nat) (got bs : List Byte) (h : recordAt s a n got = some bs) :
    ∀ go, s.readRecord i a n got go = go s bs := by
  induction n generalizing a got with
  | zero => intro go; simp only [recordAt] at h; cases h; rfl
  | succ n ih =>
    intro go
    simp only [recordAt] at h
    split at h
    · rename_i hc
      split at h
      · rename_i t loc po hr
        split at h
        · rename_i ht
          subst ht
          simp only [State.readRecord, State.access, hc.1, hc.2, hr]
          simpa using ih _ _ h go
        · cases h
      · cases h
    · cases h

/-- A record in own SS at 8, and registers at it and beside it. -/
def withRecord (bs : List Byte) : State :=
  poke 8 bs (lone { thr with regs := regs [(1, ss 8), (2, ss 12), (3, ss 0x2FFFE0), (4, 0x100001), (5, 1), (6, ss 0x20), (7, 2)] })

/-- A descriptor record from its base, first count and last doubleword. -/
def descRec (base c0 last : Nat) : List Byte :=
  natBytes 8 base ++ natBytes 8 c0 ++ natBytes 8 1 ++ natBytes 8 last

theorem witness_DescriptorSet : ((withRecord []).reg 2).toNat % 8 ≠ 0 ∧ ((withRecord (descRec 4 1 1)).reg 1).toNat % 8 = 0 ∧
    (∀ bs ∈ [descRec 4 1 1, descRec 4 0 1, descRec 2 1 1], recordAt (withRecord bs) ((withRecord bs).reg 1) 4 [] = some bs) ∧
    (descOf (descRec 4 0 1)).c0 = 0 ∧
    ¬((descOf (descRec 4 1 1)).c0 = 0 ∨ (descOf (descRec 4 1 1)).c1 = 0 ∨ (descOf (descRec 4 1 1)).c2 = 0 ∨
      (leNat (descRec 4 1 1)).testBit 91 = true) ∧ (descOf (descRec 2 1 1)).base.toNat % 4 ≠ 0 ∧
    (withRecord []).cur.invalid = none ∧
    ((withRecord []).resolve (withRecord []).threadAgent (ss 8).toNat 8 .read).2 = .ok (ssLoc 0 8) 1 ∧
    ((withRecord []).resolve (withRecord []).threadAgent (ss 0x3FFFE0).toNat 8 .read).2 = .access := by decide +kernel

theorem test_dset : ∃ t, exec (.dset 3 1) (withRecord (descRec 4 1 1)) = .next t ∧
    (aget? t.cur.descs 3).map (fun d => d.base) = some 4 := ⟨_, rfl, by decide +kernel⟩

/-- A thread with a filled slot 4 and, on port 2, a stream of a state. -/
def streaming (st : StreamState) : State :=
  { lone { thr with descs := [(4, descOf (descRec 4 1 1))], held := [9], regs := regs [(1, 1)] } with
    streams := [(9, { inst := 0, sheet := 0, ctx := 0, inbound := true, port := 2, bank := 1, desc := descOf (descRec 4 1 1), cursor := 0, ahead := [],
                      state := st, stall := none, invalid := false })] }

theorem witness_StreamStart : aget? (streaming .live).cur.descs 5 = none ∧ (aget? (streaming .live).cur.descs 4).isSome ∧
    (streaming .live).portTaken 0 0 2 true = true ∧ (streaming .live).portTaken 0 0 3 true = false ∧
    (streaming .live).portTaken 0 0 2 false = false ∧
    (∀ p ∈ (streaming .drained).streams, ¬(p.2.sheet = 0 ∧ p.2.ctx = 0 ∧ p.2.state = .live)) ∧
    (∃ p ∈ (streaming .live).streams, p.2.sheet = 0 ∧ p.2.ctx = 0 ∧ p.2.state = .live) := by decide +kernel

theorem witness_BankSelect : 8 ∉ (streaming .held).cur.held ∧ 9 ∈ (streaming .held).cur.held ∧
    (aget? (streaming .held).streams 9).map (fun st => st.bank) = some (((streaming .held).reg 1).toNat % 2) ∧
    (aget? (streaming .held).streams 9).map (fun st => st.bank) = some (1 - ((streaming .held).reg 0).toNat % 2) := by decide +kernel

theorem witness_StreamCancel : (aget? (streaming .held).streams 9).map (fun st => (st.sheet, st.ctx, st.bank, st.state.open)) =
    some (0, 0, 1, true) ∧ (∀ p ∈ (streaming .held).streams, ¬(p.1 = 8)) := by decide +kernel

theorem test_bsel : ∃ t, exec (.bsel 0) (streaming .held) = .next t ∧
    (aget? t.streams 9).map (fun st => st.state) = some .cancelled := ⟨_, rfl, by decide +kernel⟩

/-- A header flit of class 0 with a reply address. -/
def flit (cls reply : Nat) : List Byte := natBytes 8 (cls * 2 ^ 60 + reply)

/-- A scoreboard without room. -/
def boardFull (s : State) : State :=
  s.setSheet 0 { s.sheet 0 with board := List.replicate 33 { op := none, node := none, ctx := 0, first := 0, last := 0 } }

/-- A tenant whose page 1 is DM frame 0, with a message at ss 8. -/
def messaging (bs : List Byte) : State :=
  { poke 8 bs paged with sheets := (withRecord bs).sheets }

theorem witness_MessageSend : ((withRecord []).reg 2).toNat % 8 ≠ 0 ∧ ((messaging []).reg 1).toNat % 8 = 0 ∧
    (∀ bs ∈ [flit 3 0, flit 0 0, flit 0 0x10004, flit 0 0x10000], recordAt (messaging bs) ((messaging bs).reg 1) 1 [] = some bs) ∧
    ((messaging (flit 0 0x10000)).resolve (messaging (flit 0 0x10000)).threadAgent 0x10000 8 .write).2 = .ok 0x50000 1 ∧
    (messaging []).cur.invalid = none := by decide +kernel

/-- The same without room in the scoreboard. -/
theorem witness_MessageSend_full :
    (messaging []).boardRoom [0x10000] = true ∧ (boardFull (messaging (flit 0 0x10000))).boardRoom (wordsOf (flit 0 0x10000) 1) = false := by decide +kernel
theorem witness_CompletionObject : ((withRecord []).reg 2).toNat % 8 ≠ 0 ∧ ((withRecord []).reg 1).toNat % 8 = 0 ∧
    ((withRecord []).resolve (withRecord []).threadAgent (ss 8).toNat 8 .read).2 = .ok (ssLoc 0 8) 1 ∧
    (bytesWord ((withRecord (natBytes 8 (2 ^ 60))).loadBytes 0 (ssLoc 0 8) 8)).toNat / 2 ^ 60 ≠ 0 ∧
    (bytesWord ((withRecord []).loadBytes 0 (ssLoc 0 8) 8)).toNat / 2 ^ 60 = 0 := by decide +kernel

theorem witness_MessageSend_object : (flit 0 0x20000).length = 8 ∧
    ((messaging (flit 0 0)).resolve (messaging (flit 0 0)).threadAgent (ss 0x3FFFF8).toNat 8 .write).2 = .access ∧
    recordAt { messaging (flit 0 0x10000) with sheets := (lone { thr with invalid := some 0x10000, regs := regs [(1, ss 8)] }).sheets } (ss 8) 1 [] =
      some (flit 0 0x10000) := by decide +kernel

/-- A queue entry of instance 1. -/
def entry : QEntry := { bytes := padBytes 32 [7], inst := 1, num := 0, place := none }

/-- The placed instance with queue 3 of its second sheet in some shape. -/
def pushing (q : Queue) : State :=
  { (placed inst { thr with regs := regs [(1, 1), (2, ss 8), (3, ss 12), (4, 2)] }) with
    bulkheads := [(0, { Bulkhead.reset with state := .active, tag := 1, rotation := [1], started := true })] }.setQueue 1 3 q

/-- A galley with room for one entry. -/
def galley (l : List Nat) : Galley :=
  { base := ss 0x40, tenant := 1, size := 1, set := 0, next := l.length, owner := 1,
    held := (List.range l.length).map fun k => { j := k, inst := l.getD k 0, num := k } }

theorem witness_QueuePush : (pushing Queue.reset).curInst = some (1, inst) ∧ ((pushing Queue.reset).reg 3).toNat % 8 ≠ 0 ∧
    inst.sheets.length ≤ ((pushing Queue.reset).reg 4).toNat ∧ inst.sheets[((pushing Queue.reset).reg 1).toNat]? = some 1 ∧
    (∀ q ∈ [{ Queue.reset with hw := List.replicate 31 entry }, { Queue.reset with hw := List.replicate 32 entry, galley := some (galley []) },
        { Queue.reset with hw := List.replicate 32 entry }],
      recordAt (pushing q) ((pushing q).reg 2) 4 [] = some (List.replicate 32 0) ∧ ((pushing q).queue 1 3) = q ∧ q.waiting = [] ∧
      ((pushing q).bulkhead (bhOf 1)).tag.toNat = (pushing q).tenantAt 0 0) ∧
    ((pushing Queue.reset).ringLoc 1 (galley []) 0 .write).isSome ∧ (galley [1]).size ≤ (galley [1]).next - ((galley [1]).held.head?.map fun r => r.j).getD (galley [1]).next := by decide +kernel

/-- A galley whose ring stands on a page that is not mapped, and one whose slot stands in the instance's bank. -/
def unmapped (l : List Nat) : Galley := { galley l with base := 0x10000 }
def banked (l : List Nat) : Galley := { galley l with base := 0xFF00000010000040, size := 2 }

/-- Bank 1 is parked for tenant 1. -/
def away (s : State) : State :=
  { s with bulkheads := s.bulkheads ++ [(1, { Bulkhead.reset with state := .active, tag := 2, shared := true, rotation := [1, 2] })] }

theorem witness_QueuePush_rings :
    let s := pushing { Queue.reset with galley := some (banked [1]) }
    let t := { s with insts := s.insts ++ [(2, { inst with heldLines := [((dsLoc 0 0x60) / 64, 0)] })] }
    s.ringLoc 1 (banked [1]) (0 + 1) .write = some (dsLoc 0 0x60) ∧ heldByOther s.insts 1 ((dsLoc 0 0x60) / 64) = false ∧
    heldByOther t.insts 1 ((dsLoc 0 0x60) / 64) = true ∧ s.ringLoc 1 (unmapped []) 0 .write = none ∧ (s.bulkhead (bhOf 1)).state ≠ .switching ∧
    (banked [1]).next - ((banked [1]).held.head?.map fun r => r.j).getD (banked [1]).next < (banked [1]).size ∧
    s.ringParked 1 (banked [1]) = false ∧ (away s).ringParked 1 { banked [1] with base := 0xFF00000100800040 } = true ∧
    isSheetScratch (dsLoc 0 0x60) = false ∧ s.proofFull ((banked [1]).agent 1 1) ((dsLoc 0 0x60) / 64) = false := by
  decide +kernel
/-- A full proof buffer: another instance holds lines of the bulkhead. -/
def brimming (l : Assoc Nat Nat) (s : State) : State := { s with insts := s.insts ++ [(2, { inst with heldLines := l })] }

theorem brimming_full (l : Assoc Nat Nat) (s : State) (i : Inst) (g : Agent) (line : Nat) (hs : s.insts = [(1, i)]) (hi : i.heldLines = [])
    (hg : g.inst = 1) (hb : bhOf g.sheet = 0) (hl : (l.countP fun p => decide (p.2 = 0)) = 32768) :
    (brimming l s).proofFull g line = true := by
  simp [State.proofFull, State.proofLines, brimming, hs, hi, hg, hb, aget?, hl]

/-- As many lines as a proof buffer has. -/
def lines : Assoc Nat Nat := List.replicate 32768 (0, 0)

theorem lines_count : (lines.countP fun p => decide (p.2 = 0)) = 32768 := by
  rw [lines, List.countP_replicate]; rfl

theorem witness_QueuePush_full :
    (brimming lines (pushing Queue.reset)).proofFull ((banked [1]).agent 1 1) ((dsLoc 0 0x60) / 64) = true :=
  brimming_full _ _ inst _ _ rfl rfl rfl rfl lines_count

/-- A lone thread's queue 3 in some shape. -/
def popping (q : Queue) : State := (withRecord []).setQueue 0 3 q

theorem witness_QueuePopAndCount : ((popping { Queue.reset with hw := [entry] }).queue 0 3).hw = entry :: [] ∧
    ((popping Queue.reset).queue 0 3).hw = [] ∧
    ((popping { Queue.reset with galley := some (galley [1]), hw := List.replicate 31 entry }).queue 0 3).hw.length < 32 ∧
    ((popping Queue.reset).ringLoc 0 { galley [1] with owner := 0, tenant := 0 } 0 .read).isSome ∧
    ((popping Queue.reset).reg 2).toNat % 32 ≠ 0 ∧ ((popping Queue.reset).reg 6).toNat % 32 = 0 ∧
    1048576 < ((popping Queue.reset).reg 4).toNat ∧ ((popping Queue.reset).reg 0).toNat = 0 ∧
    ((popping Queue.reset).reg 3).toNat % 32 = 0 ∧ 0xFF00000001000000 ≤ ((popping Queue.reset).reg 3).toNat ∧
    ((popping Queue.reset).reg 3).toNat + 32 * ((popping Queue.reset).reg 5).toNat ≤ 0xFF00000001300000 ∧
    0xFF00000001300000 < ((popping Queue.reset).reg 3).toNat + 32 * ((popping Queue.reset).reg 7).toNat := by decide +kernel

theorem witness_QueuePopAndCount_rings :
    let s := popping { Queue.reset with galley := some { galley [1] with owner := 0, tenant := 0 } }
    let m : State := { s with mem := paged.mem, drover := paged.drover }
    let d : State := { m with mem := m.mem.write 0x4000 (wordBytes 8 0x0B00000000050003) }
    let f : State := { m with mem := m.mem.write 0x4000 (wordBytes 8 0x2300010000050003) }
    s.stalledInst 0 = false ∧ heldByOther s.insts 1 ((ssLoc 0 0x40) / 64) = false ∧ s.ringLoc 0 (unmapped [1]) 0 .read = none ∧
    s.ringPlace 0 (ss 0) 32 = .good ∧ s.ringPlace 0 (ss 0x2FFFE0) 64 = .illegal ∧ (d.ringPlace 0 0 32 = .good) ∧ f.ringPlace 0 0 32 = .fm ∧
    s.parkedFor 0 (unmapped [1]).tenant = true ∧ s.parkedFor 0 0 = false ∧ s.ringParked 0 (unmapped [1]) = false ∧
    ({ d with mem := m.mem.write 0x4000 (wordBytes 8 0x0300000000050003) } : State).ringPlace 0 0 32 = .illegal := by
  decide +kernel

theorem test_qpop : ∃ t, exec (.qpop 22 3) (popping { Queue.reset with hw := [entry] }) = .next t ∧ t.reg 22 = 7 ∧
    (t.queue 0 3).hw = [] := ⟨_, rfl, by decide +kernel, by decide +kernel⟩

/-- A thread in `wfi`, its queue 3 bound; another thread's binding beside it. -/
def bound (hw : List QEntry) : State :=
  let s := lone { thr with wait := some .wfi, binds := [(3, 0xFF00000001300040)] }
  ((s.setSheet 0 { s.sheet 0 with units := Quad.all 1 }).setThread 0 1 { thr with binds := [(4, 8)] }).setQueue 0 3
    { Queue.reset with hw := hw }

theorem witness_HandlersAndWaiting : 1 ≠ (bound []).curCtx ∧ aget? ((bound []).thread 0 1).binds 4 ≠ none ∧
    (∀ c, c < 4 → c ≠ (bound []).curCtx → aget? ((bound []).thread 0 c).binds 3 = none) ∧
    ((bound [entry]).thread 0 0).wait = some .wfi ∧ (bound [entry]).threadMay 0 0 = true ∧
    aget? ((bound [entry]).thread 0 0).binds 3 = some 0xFF00000001300040 ∧
    0 < ((bound [entry]).sheet 0).units.get 0 ∧ (bound [entry]).chooseThread 0 = some 0 ∧ 0 < ((bound [entry]).queue 0 3).count ∧
    (∀ j, j < 3 → aget? ((bound [entry]).thread 0 0).binds j = none ∨ ((bound [entry]).queue 0 j).count = 0) ∧
    (bound []).cur.invocation = none ∧ (lone { thr with invocation := some 4 }).cur.invocation = some 4 ∧
    (lone { thr with events := 0x8000 }).cur.events ≠ 0 ∧ (bound []).cur.events = 0 ∧
    (∀ q, q < 32 → aget? (lone { thr with events := 1 }).cur.binds q = none ∨ ((lone thr).queue 0 q).count = 0) := by decide +kernel

/-- A filter entry of tenant 0: destination tenant 0, sheet 0, queue 3, at most 8 words, a burst of 1. -/
def filter : BitVec 128 := BitVec.ofNat 128 (2 ^ 127 + 3 * 2 ^ 102 + 8 * 2 ^ 98 + 2 ^ 82 + 2 ^ 74)

/-- An active bulkhead 0 of tenant 0 with the filter as entry 5, and a command and a record for `xq`. -/
def mailing (q : Queue) (lack : Nat) : State :=
  { (lone { thr with regs := regs [(1, 0x805), (2, ss 8)] }).setQueue 0 3 q with
    bulkheads := [(0, { Bulkhead.reset with state := .active })]
    drover := { Drover.reset with filters := [(5, filter)], buckets := [(5, lack)] } }

theorem witness_DroverMessage : ((mailing Queue.reset 0).reg 2).toNat % 8 = 0 ∧
    recordAt (mailing Queue.reset 0) ((mailing Queue.reset 0).reg 2) 4 [] = some (List.replicate 32 0) ∧
    (mailing Queue.reset 0).curInst = none ∧ (pushing Queue.reset).curInst = some (1, inst) ∧
    (agetD (mailing Queue.reset 0).drover.filters 6 0).getLsbD 127 = false ∧ filter.getLsbD 127 = true ∧
    (filter.extractLsb' 120 7).toNat = 0 ∧ ((mailing Queue.reset 0).bulkhead (bhOf 0)).state = .active ∧
    ((mailing Queue.reset 0).bulkhead (bhOf 0)).tag.toNat = (filter.extractLsb' 113 7).toNat ∧
    (filter.extractLsb' 98 4).toNat < 9 ∧ 8 ≤ (filter.extractLsb' 98 4).toNat ∧
    (filter.extractLsb' 74 8).toNat * 1000000 < 1 + 1000000 ∧ 0 + 1000000 ≤ (filter.extractLsb' 74 8).toNat * 1000000 ∧
    ((mailing Queue.reset 0).queue 0 3).waiting = [] ∧ ((mailing Queue.reset 0).queue 0 3).hw.length < 32 ∧
    32 ≤ ((mailing { Queue.reset with hw := List.replicate 32 entry } 0).queue 0 3).hw.length := by decide +kernel

theorem witness_DroverMessage_room : (mailing Queue.reset 0).strayArray 0 [⟨0, .queues, 3⟩] = none ∧
    (let q := { Queue.reset with waiting := [{ entry := entry, pusher := none }] }
     (mailing q 0).queue 0 3 = q ∧ q.waiting ≠ [] ∧ q.waiting.length < 32 - q.hw.length) ∧
    (let g := { galley [1] with tenant := 0, size := 2 }
     32 - 32 + (g.size - (g.next - (g.held.head?.map fun r => r.j).getD g.next)) = 1) := by decide +kernel

/-- The base thread of the placed instance beside an image of no size in its bank, one place of it in `g1`. -/
def forming (i : Inst) (h : Assoc Nat Image) (m : Option Image) : State :=
  { placed i { thr with regs := regs [(1, 0xFF00000010000000), (2, 0xFF00000010000004), (3, 1), (4, 9), (5, ss 8)] } with
    slices := [(2, { slice with handles := h })]
    images := match m with
      | some m => [(dsLoc 0 0, m)]
      | none => [] }

theorem witness_DroverMessage_commit :
    ((committing (.xq 4 1 2) (List.replicate 32 0)).thread 0 inst.ctx).wait = some (.publish (.xq 4 1 2) (List.replicate 32 0)) ∧
    { Bulkhead.reset with state := .active, shared := true, rotation := [1, 6] }.parks 6 = true ∧
    ((mailing Queue.reset 0).bulkhead (bhOf 0)).parks 6 = false := by decide +kernel

theorem witness_FormeControl : (lone thr).basePhase = none ∧
    (forming inst [] none).basePhase = some (1, inst, { slice with handles := [] }) ∧
    ((forming inst [] none).reg 2).toNat % 8 ≠ 0 ∧ ((forming inst [] none).reg 1).toNat % 8 = 0 ∧ (forming inst [] none).cur.invalid = none ∧
    ((forming inst [] none).resolve (forming inst [] none).threadAgent ((forming inst [] none).reg 1).toNat 8 .read).2 = .ok (dsLoc 0 0) 1 ∧
    aget? (forming inst [] none).images (dsLoc 0 0) = none ∧
    aget? (forming inst [] (some image)).images (dsLoc 0 0) = some image ∧ image.ok = true ∧ (forming inst [] (some image)).isImagePlace 1 (dsLoc 0 0) = true ∧
    (forming inst [] (some image)).isImagePlace 2 (dsLoc 0 0) = false ∧
    { image with variants := [{ variant with w := 0 }] }.ok = false ∧
    { slice with handles := [] }.freeHandle = some 1 ∧
    { slice with handles := (List.range 15).map fun k => (k + 1, image) }.freeHandle = none ∧
    aget? slice.handles 9 = none ∧ aget? slice.handles ((forming inst [] none).reg 3).toNat = some image ∧
    image.variant 9 = none ∧ image.variant 1 = some variant ∧ (forming inst [] none).couldFit 1 image variant = true ∧
    inst.accepted = none ∧ recordAt (forming inst [] none) (ss 8) 8 [] = some (List.replicate 64 0) := by decide +kernel

theorem witness_FormeControl_room : { slice with handles := [] }.imageBytes + { image with bytes := 0 }.bytes ≤ Config.formeArea :=
  Nat.zero_le _

theorem witness_ThreadEnd : (streaming .held).curCtx < 4 ∧ 9 ∈ (streaming .held).cur.held ∧ (aget? (streaming .held).streams 9).isSome ∧
    aget? (placed inst thr).insts (placed inst thr).curInstId = some inst ∧ inst.cutting = none ∧ inst.restoring = false ∧
    aget? (lone thr).insts (lone thr).curInstId = none := by decide +kernel

theorem witness_LayoutLog : ((withRecord []).reg 1).toNat % 32 ≠ 0 ∧ ((withRecord []).reg 6).toNat % 32 = 0 ∧
    (withRecord []).flayPlace ((withRecord []).reg 6) = true ∧ (withRecord []).flayPlace (ss 0x3C0000) = false ∧
    (withRecord []).curInst = none ∧ owned.curInst = some (1, inst) ∧ owned.flayPlace (ss 0x20) = true := by decide +kernel

theorem witness_LayoutLog_places :
    let s := placed inst thr
    let u := mapped s
    let f := { u with mem := u.mem.write 0x4008 (wordBytes 8 0x2B00010000050003) }
    (s.bulkhead (bhOf s.curSheet)).tag.toNat = s.tenantAt s.curSheet s.curCtx ∧ (s.bulkhead (bhOf s.curSheet)).state = .active ∧
    (s.bulkhead 1).tag.toNat ≠ s.tenantAt s.curSheet s.curCtx ∧ (0xFF00000100800000 - 0xFF00000100000000) / 0x800000 = 1 ∧
    (match (u.translate 1 0x10000).2 with
     | .page leaf _ => !(leaf.getLsbD 61)
     | _ => false) = true ∧
    (match (f.translate 1 0x10000).2 with
     | .page leaf _ => leaf.getLsbD 61
     | _ => false) = true ∧ (u.translate 1 0x20000).2 = .miss := by decide +kernel

theorem witness_LayoutLog_empty : ∀ go, owned.writeRecord (.flay 1 2) false (ss 0x20) (pieces8 (inst.log.flatMap LogEntry.bytes)) [] false go = go owned :=
  fun _ => rfl

/-- One entry, its ring on an SO page. -/
def ordered : State :=
  { mapped (placed { inst with log := [{ version := 1, kind := 0, member := 0, actor := 0, before := el0, after := el0, tokens := 0, time := 0 }] }
      { thr with regs := regs [(1, 0x10000)] }) with mem := paged.mem.write 0x4008 (wordBytes 8 0x0100000000050003) }
where
  /-- A node. -/
  el0 : NodeId := ⟨.element, 0, 0, 0⟩

theorem witness_LayoutLog_ordered : ordered.flayPlace 0x10000 = true ∧
    (ordered.resolve ordered.threadAgent 0x10000 8 .write).2 = .ok 0x50000 0 ∧
    (ordered.resolve ordered.threadAgent 0x10000 8 .write).1.cur.invalid = none ∧
    (ordered.curInst.map fun x => x.2.log.length) = some 1 := by decide +kernel

/-- The placed instance, its second thread in some state, and barrier, sheet and mask registers. -/
def meeting (t : Thread) : State :=
  (placed inst { thr with regs := regs [(1, 5), (2, 1), (3, 2), (4, 0xFFFF8000)], events := 0x8000 }).setThread 1 0 t

theorem witness_BarriersAndFlags : (lone thr).curInst = none ∧ (meeting thr).curInst = some (1, inst) ∧ (meeting thr).cur.run = .running ∧
    (meeting thr).curCtx < 4 ∧ (∃ sh ∈ inst.sheets, sh ≠ 0 ∧ ((meeting thr).thread sh 0).run = .running ∧
      ((meeting thr).thread sh 0).wait ≠ some (.bar 5)) ∧
    (∀ sh ∈ inst.sheets, sh ≠ 0 → ((meeting { thr with wait := some (.bar 5) }).thread sh 0).run = .running →
      ((meeting { thr with wait := some (.bar 5) }).thread sh 0).wait = some (.bar 5)) ∧ inst.sheets.Nodup ∧
    inst.sheets.length ≤ ((meeting thr).reg 3).toNat ∧ inst.sheets[((meeting thr).reg 2).toNat]? = some 1 ∧
    ((meeting thr).reg 0).extractLsb' 0 16 = 0 ∧ ((meeting thr).reg 1).extractLsb' 0 16 ≠ 0 ∧
    (meeting thr).cur.events &&& ((meeting thr).reg 1).extractLsb' 0 16 = 0 ∧
    (meeting thr).cur.events &&& ((meeting thr).reg 4).extractLsb' 0 16 ≠ 0 := by decide +kernel

/-- Values for the control registers at the edges of their ranges. -/
def controls : State :=
  lone { thr with regs := regs [(1, 2), (2, 4), (3, 0x3BFFC), (4, 0x3C000), (5, ss 0x10000), (6, ss 0x2FFFF8), (7, ss 0x300000), (8, ss 0)] }

theorem witness_ControlRegisters : controls.csr 0x20 = some 0 ∧ controls.csr 0x26 = none ∧
    (0x26#16).toNat ∉ [0x00, 0x01, 0x02, 0x03, 0x10, 0x11, 0x12, 0x13, 0x20, 0x21, 0x22, 0x23, 0x24, 0x25, 0x30, 0x31, 0x32, 0x33, 0x34, 0x40] ∧
    (controls.reg 1).toNat % 4 ≠ 0 ∧ (controls.reg 2).toNat % 4 = 0 ∧ 0 < (controls.reg 2).toNat ∧ (controls.reg 3).toNat < 0x3C000 ∧
    controls.reg 0 = 0 ∧ 0x3C000 ≤ (controls.reg 4).toNat ∧ controls.cur.rasSpl = 0 ∧
    (controls.reg 8).toNat % 8 = 0 ∧ 0xFF00000001000000 ≤ (controls.reg 8).toNat ∧ (controls.reg 8).toNat ≤ controls.cur.rasLim.toNat ∧
    (controls.reg 6).toNat % 8 = 0 ∧ (controls.reg 6).toNat < 0xFF00000001300000 ∧ controls.cur.rasBase.toNat ≤ (controls.reg 6).toNat ∧
    0xFF00000001300000 ≤ (controls.reg 7).toNat ∧ (0x02#16).toNat ∉ [0, 1, 0x10, 0x11] := by decide +kernel

theorem test_csrw_tvec : ∃ t, exec (.csrw 3 0) controls = .next t ∧ t.cur.tvec = 0xFF0000000133BFFC := ⟨_, rfl, by decide +kernel⟩

/-- A thread that waits in some way. -/
def waiting (w : Wait) (ev : BitVec 16) : State := lone { thr with wait := some w, events := ev }

theorem witness_WaitingRetires : ((lone thr).thread 0 0).wait = none ∧ (lone Thread.reset).threadMay 0 0 = false ∧
    ((waiting (.evwait 3 0x8000) 0x8000).thread 0 0).wait = some (.evwait 3 0x8000) ∧
    (waiting (.evwait 3 0x8000) 0x8000).threadMay 0 0 = true ∧ ((waiting (.evwait 3 0x8000) 0x8000).thread 0 0).entering = false ∧
    ((waiting (.evwait 3 0x8000) 0x8000).thread 0 0).events &&& 0x8000 ≠ 0 ∧
    ((waiting (.evwait 3 0x8000) 0).thread 0 0).events &&& 0x8000 = 0 ∧ (waiting (.stbar [9]) 0).threadMay 0 0 = true ∧
    aget? (waiting (.stbar [9]) 0).streams 9 = none ∧
    (((waiting .qpush 0).setQueue 0 3 { Queue.reset with waiting := [{ entry := entry, pusher := some (0, 0) }] }).queue 0 3).waiting =
      [{ entry := entry, pusher := some (0, 0) }] ∧
    ((waiting .qpush 0).bulkhead (bhOf 0)).tag.toNat = (waiting .qpush 0).tenantAt 0 0 ∧
    ((waiting .qpush 0).thread 0 0).wait = some .qpush ∧ ((lone thr).queue 0 3).waiting = [] := by decide +kernel

/-- A thread that waits with registers, a descriptor in slot 4 and bytes at 8 of own SS. -/
def stalledAt (w : Wait) (bs : List Byte) : State :=
  poke 8 bs (lone { thr with wait := some w, regs := regs [(6, ss 8)], descs := [(4, descOf (descRec 4 1 1))] })

theorem witness_WaitingRetires_await (v : List Byte) (h : v = natBytes 8 (2 ^ 60) ∨ v = natBytes 8 0) :
    let s := stalledAt (.await 1 6) v
    let u := s.setCur { s.cur with wait := none }
    s.cur.wait = some (.await 1 6) ∧ (s.reg 6).toNat % 8 = 0 ∧ s.cur.invalid = none ∧ s.threadMay 0 0 = true ∧ s.cur.entering = false ∧
    (u.resolve u.threadAgent (s.reg 6).toNat 8 .read).2 = .ok (ssLoc 0 8) 1 ∧
    ((bytesWord (u.loadBytes 0 (ssLoc 0 8) 8)).toNat / 2 ^ 60 = 1 ↔ v = natBytes 8 (2 ^ 60)) := by
  rcases h with rfl | rfl <;> decide +kernel

theorem witness_WaitingRetires_queues :
    let s := stalledAt (.qpop 1 3) []
    let t := s.setQueue 0 3 { Queue.reset with hw := [entry] }
    s.cur.wait = some (.qpop 1 3) ∧ (s.queue 0 3).hw = [] ∧ (t.queue 0 3).hw = [entry] ∧ t.cur.wait = some (.qpop 1 3) ∧
    s.threadMay 0 0 = true := by decide +kernel

theorem witness_WaitingRetires_port :
    let s := stalledAt (.port true 2 4 0) []
    let t := { s with streams := (streaming .live).streams }
    s.cur.wait = some (.port true 2 4 0) ∧ (aget? s.cur.descs 4).isSome = true ∧ s.portTaken 0 0 2 true = false ∧
    t.portTaken 0 0 2 true = true ∧ t.threadMay 0 0 = true := by decide +kernel

theorem witness_WaitingRetires_bar :
    let s := (placed inst { thr with wait := some (.bar 5) }).setThread 1 0 { thr with wait := some (.bar 5) }
    let early := (placed inst { thr with wait := some (.bar 5) }).setThread 1 0 thr
    s.instAt 0 0 = some (1, inst) ∧ s.threadMay 0 0 = true ∧ s.cur.entering = false ∧ inst.sheets.Nodup ∧
    (∀ sh ∈ inst.sheets, (s.thread sh inst.ctx).run = .running ∧ (s.thread sh inst.ctx).wait = some (.bar 5)) ∧
    (∃ sh ∈ inst.sheets, (early.thread sh inst.ctx).run = .running ∧ (early.thread sh inst.ctx).wait ≠ some (.bar 5)) := by decide +kernel

theorem witness_WaitingRetires_access :
    let s := stalledAt (.access (.ld 1 6 0 .d .plain .tile) .range) []
    let u := s.setCur { s.cur with wait := none }
    let held := u.setSheet 0 { u.sheet 0 with board := [{ op := some 9, node := none, ctx := 0, first := ssLoc 0 8, last := ssLoc 0 15 }] }
    s.threadMay 0 0 = true ∧ (∃ x, exec (.ld 1 6 0 .d .plain .tile) u = .next x ∧ x.cur.wait = none ∧ x.cur.entering = false) ∧
    (∃ x, exec (.ld 1 6 0 .d .plain .tile) held = .next x ∧ x.cur.wait ≠ none) :=
  ⟨by decide +kernel, ⟨_, rfl, by decide +kernel, by decide +kernel⟩, ⟨_, rfl, by decide +kernel⟩⟩

theorem witness_WaitingRetires_galley :
    let g := { galley [] with tenant := 0, owner := 0 }
    let s := (waiting .qpush 0).setQueue 0 3
      { Queue.reset with hw := List.replicate 32 entry, galley := some g, waiting := [{ entry := { entry with inst := 0 }, pusher := some (0, 0) }] }
    let v := s.setQueue 0 3 { s.queue 0 3 with waiting := [] }
    (s.queue 0 3).galley = some g ∧ 32 ≤ (s.queue 0 3).hw.length ∧ g.next - (g.held.head?.map fun r => r.j).getD g.next < g.size ∧
    v.ringParked 0 g = false ∧ v.ringLoc 0 g g.next .write = some (ssLoc 0 0x40) ∧ heldByOther s.insts 0 (ssLoc 0 0x40 / 64) = false ∧
    isSheetScratch (ssLoc 0 0x40) = true ∧ s.stalledInst 0 = false := by decide +kernel

/-! ### Hypotheses of the statements: nodes -/

/-- A token with a value and a format tag. -/
def tok (v : W32) (fmt : BitVec 3) : Token := { width := 0, ctx := 0, colour := 0, iter := 0, slot := 0, port := 0, fmt := fmt, value := v }

/-- A firing with one token on each of three ports. -/
def fire (a b c : Token) : Firing :=
  { ctx := 0, actor := 0, hdr := 0, seq := 0, pc := 0, tag := ⟨0, 0, 0⟩, operands := ⟨[a], [b], [c], []⟩, heads := Quad.all 0,
    emitted := Quad.all 0, itin := none, itnext := none, itout := none, progress := 0, lanes := [], rows := 0, pending := [],
    wait := .none, invalid := false, ready := 0, latched := [] }

/-- Nodes of each class. -/
def el : NodeId := ⟨.element, 0, 0, 0⟩
def agn : NodeId := ⟨.ag, 0, 0, 0⟩
def cvn : NodeId := ⟨.cv, 0, 0, 0⟩
def pan : NodeId := ⟨.pa, 0, 0, 0⟩
def fen : NodeId := ⟨.fe, 0, 0, 0⟩

/-- A header: three tagged ports, every output of rate 1, PURE; and an extent of every slot. -/
def head3 : W32 := 0x24855400
def ext : BitVec 16 := 0x0F00

/-- An actor alone on a node. -/
def actorAt (k : NodeId) : Actor :=
  { number := 0, home := k, header := head3, extent := ext, members := [k], started := 0, base := 0, replicas := [], active := [0], outs := [],
    dealt := 0, carry := none, eventWindow := none, lowWindows := 0, firedAt := 0, inOcc := Quad.all 0, folded := none }

/-- The instance with that actor. -/
def instAt (k : NodeId) : Inst := { inst with forme := { inst.forme with actors := [(0, actorAt k)] } }

/-- A node with a running firing, acting, and a change to what it keeps for context 0. -/
def node (k : NodeId) (f : Firing) (g : NodeCtx → NodeCtx) : State :=
  { placed (instAt k) thr with
    nodes := [(k, { Node.reset with running := some f, ctxs := { Quad.all NodeCtx.reset with
      q0 := g { NodeCtx.reset with headers := ⟨some (head3, ext), none, none, none⟩ } } })]
    curNode := k }

/-- An element at INT32 operands 5, 7 and 9. -/
def ints : State := node el (fire (tok 5 0) (tok 7 0) (tok 9 0)) id

/-- The firing of a state's acting node. -/
def f (s : State) : Firing := ((s.node s.curNode).running).getD (fire (tok 0 0) (tok 0 0) (tok 0 0))

/-- A delivery that succeeds. -/
def done (r : OpRes) : Bool := match r with
  | .done _ => true
  | _ => false

/-- The same with outputs used up. -/
def used : State := node el { fire (tok 5 0) (tok 7 0) (tok 9 0) with emitted := Quad.all 1 } id

theorem witness_OpWordResults : (ints.node el).running = some (f ints) ∧ (f ints).ctx < 4 ∧ 4 ≤ (7#3).toNat ∧ (3#3).toNat < 4 ∧
    used.rateUsed el 3 = true ∧ ints.rateUsed el 3 = false ∧ ints.instAt el.sheet (f ints).ctx = some (1, instAt el) ∧
    ints.actor? 1 (f ints).actor = some (actorAt el) ∧ (actorAt el).members.length ≤ 1 ∧ (actorAt el).outs = [] ∧ (actorAt el).carry = none ∧
    { ints with insts := [] }.instAt el.sheet 0 = none := by decide +kernel

theorem witness_ElementIntegers : (ints.node ints.curNode).running = some (f ints) ∧
    ints.readOnce el (f ints) [0, 1] = some [tok 5 0, tok 7 0] ∧ ints.readOnce el (f ints) [1] = some [tok 7 0] ∧
    ints.readOnce el (f ints) [0, 1, 2] = some [tok 5 0, tok 7 0, tok 9 0] ∧
    done (ints.writeDst el (f ints) 0 0 ⟨0, 5 + 7⟩) = true ∧ done (ints.writeDst el (f ints) 7 0 ⟨0, 5 * 7 + 9⟩) = true := by decide +kernel

theorem test_element_add : ∃ t, exec (.elemAdd 0 1 4 0 false false) ints = .next t ∧ (t.nodeCtx el 0).keeps.q0 = ⟨0, 12⟩ :=
  ⟨_, rfl, by decide +kernel⟩

/-- mul.sat of INT8 lanes (R121, R123). -/
theorem test_mul_sat_int8 : arith2 6 true (· * ·) FpNum.mul 0x0240FD64 0x02FE3202 = some 0x0480807F := by decide +kernel

/-- An element at two BF16 tokens of value 1.0 and one INT32. -/
def halves : State := node el (fire (tok 0x3F803F80 2) (tok 0x3F803F80 2) (tok 1 0)) id

theorem witness_ElementFormats : (halves.node halves.curNode).running = some (f halves) ∧
    halves.readOnce el (f halves) [0, 1] = some [tok 0x3F803F80 2, tok 0x3F803F80 2] ∧
    arith2 2 false (· + ·) FpNum.add 0x3F803F80 0x3F803F80 = some 0x40004000 ∧
    (arith2 2 false (· * ·) FpNum.mul 0x3F803F80 0x3F803F80).isSome ∧ (absLanes 2 0xBF803F80).isSome ∧ (negLanes 2 0x3F803F80).isSome ∧
    (shlLanes 6 true 0x01010101 0x01010101).isSome ∧ (special 2 FpNum.rcp 0x3F803F80).isSome ∧ (laneMove 2 1 0x3F803F80).isSome ∧
    (cmpLanes 2 5 0x3F803F80 0x3F803F80).isSome ∧ (fmaLanes 2 false 0x3F803F80 0x3F803F80 0x3F803F80).isSome ∧
    halves.readOnce el (f halves) [2, 2, 2] = some [tok 1 0, tok 1 0, tok 1 0] ∧ isIntTag 0 = true ∧ laneCount 0 = 1 ∧
    done (halves.writeDst el (f halves) 0 0 ⟨2, 0x40004000⟩) = true ∧
    halves.readOnce el (f halves) [0, 2] = some [tok 0x3F803F80 2, tok 1 0] ∧ fpOf 2 ≠ none ∧ fpOf 4 ≠ none ∧ fpOf 5 ≠ none ∧
    laneCount 2 ≤ (2#2).toNat := by decide +kernel

/-- An element at an iteration token, its window of colour 0 open. -/
def looping (lo hi : BitVec 8) (live : BitVec 64) : State :=
  let s := node el (fire (tok 5 0) (tok 0x1FF 0) (tok 0 0)) id
  s.setWindow 0 0 0 { lo := lo, hi := hi, live := live }

theorem witness_ColoursAndIterations : ((looping 0 1 1).node el).running = some (f (looping 0 1 1)) ∧
    (looping 0 1 1).readOnce el (f (looping 0 1 1)) [0, 1] = some [tok 5 0, tok 0x1FF 0] ∧
    done ((looping 0 1 1).writeColoured el (f (looping 0 1 1)) 0 0 ⟨0, 5⟩ 0xFF (BitVec.ofNat 8 (2 * 0 + 1))) = true ∧
    done ((looping 0 1 1).writeColoured el (f (looping 0 1 1)) 0 0 ⟨0, 5⟩ 0xFF (unpackIter 0 ((looping 0 1 1).window 0 0 0xFF).lo)) = true ∧
    done ((looping 0 1 1).writeOut el 0 ((looping 0 1 1).resultToken el (f (looping 0 1 1)) 0xF ⟨0, 5⟩)) = true ∧
    (looping 0 1 1).readOnce el (f (looping 0 1 1)) [0] = some [tok 5 0] ∧ (looping 0 1 1).rateUsed el 3 = false ∧
    ((looping 0 1 1).window 0 0 0).isLive 0 = true ∧ ((looping 0 0 0).window 0 0 0).isLive 0 = false ∧
    (f (looping 0 1 1)).itin = none ∧ (f (looping 0 1 1)).itnext = none ∧ (f (looping 0 1 1)).itout = none := by decide +kernel

/-- The same later in its firing, after an `itin`, an `itnext` and an `itout`. -/
def later : State :=
  let s := node el { fire (tok 5 0) (tok 0x1FF 0) (tok 0 0) with itin := some 3, itnext := some 0, itout := some 0 } id
  s.setWindow 0 0 0 { lo := 1, hi := 1, live := 0 }

theorem witness_ColoursAndIterations_later : later.readOnce el (f later) [0] = some [tok 5 0] ∧ later.rateUsed el 3 = false ∧
    (f later).itin = some 3 ∧ (f later).itnext = some (tok 5 0).iter ∧ (f later).itout = some (tok 5 0).iter ∧
    (later.window 0 0 0).isLive (tok 5 0).iter = false := by decide +kernel

/-- A width request, and an instance whose actor has made it. -/
def request : WidthChange := { target := 3, width := some 32, seq := 1, actor := 0, out := 0, slot := 0, colour := 0, iter := 0 }
def asking (i : Inst) : State :=
  { node el (fire (tok 0x2003 0) (tok 0x1003 0) (tok 0x4000 0)) id with insts := [(1, i)] }
def askingInst : Inst := { instAt el with forme := { (instAt el).forme with widthChanges := [request] } }
def framed : Inst := { instAt el with forme := { (instAt el).forme with frames := [(0, { colour := 9, iter := 8, link := 0x17 })] } }

theorem witness_WidthsAndCalls : (asking askingInst).curNode = el ∧ ((asking askingInst).node el).running = some (f (asking askingInst)) ∧
    (asking askingInst).readOnce el (f (asking askingInst)) [2] = some [tok 0x4000 0] ∧ (0x4000#32).extractLsb' 14 18 ≠ 0 ∧
    (asking askingInst).readOnce el (f (asking askingInst)) [0] = some [tok 0x2003 0] ∧ (0x2003#32).extractLsb' 14 18 = 0 ∧
    1 ≤ ((0x2003#32).extractLsb' 8 6).toNat ∧ ((0x2003#32).extractLsb' 8 6).toNat ≤ 32 ∧ (asking askingInst).rateUsed el 3 = false ∧
    aget? (asking askingInst).insts 1 = some askingInst ∧
    askingInst.forme.widthChanges.find? (fun c => decide (c.target = 3)) = some request ∧
    aget? askingInst.forme.actors request.actor = some (actorAt el) ∧ (actorAt el).active.contains request.seq = false ∧
    (asking askingInst).colourIdle askingInst 3 = true ∧ { actorAt el with active := [1] }.active.contains request.seq = true ∧
    (asking (instAt el)).readOnce el (f (asking (instAt el))) [0, 1] = some [tok 0x2003 0, tok 0x1003 0] ∧
    (asking (instAt el)).instAt el.sheet 0 = some (1, instAt el) ∧
    { instAt el with grants := [(el, 0, ⟨0, 0, 0⟩, 255)] }.granted el 0 ⟨0, 0, 0⟩ = some 255 ∧ (instAt el).granted el 0 ⟨0, 0, 0⟩ = none ∧
    (instAt el).lowestColour = some 1 ∧ { instAt el with regionMask := BitVec.allOnes 256 }.lowestColour = none ∧
    aget? (instAt el).forme.frames 0 = none ∧ aget? framed.forme.frames 0 = some { colour := 9, iter := 8, link := 0x17 } ∧
    (Tile.reset.loComing, { Tile.reset with loComing := [((0, 3), 7)] }.loComing) = ([], [((0, 3), 7)]) := by decide +kernel

theorem witness_WidthsAndCalls_room :
    (asking askingInst).buffered 0 request.actor (actorAt el) el request.out < 4 ∧ (asking askingInst).replicasRun askingInst request = false ∧
    askingInst.restoring = false := by decide +kernel

/-- An element whose turn it is, at an `add`. -/
def turning : State :=
  { node el (fire (tok 5 0) (tok 7 0) (tok 9 0)) fun c => { c with slots := c.slots.set 0 0x02400010 } with agenda := [.node el] }

theorem witness_StepRunsOpWord : turning.agenda = [.node el] ∧ el.exists = true ∧ turning.stopped el.sheet = false ∧
    (turning.node el).running = some (f ints) ∧ (f ints).wait = .none ∧ turning.interruptDue el = none := by decide +kernel

theorem witness_StepRunsOpWord_op :
    ({ turning with agenda := [], curNode := el } : State).nextOp el (f ints) = .ok (.elemAdd 4 4 0 0 false true) := rfl

theorem witness_StepRunsOpWord_tags :
    let v : State := { turning with agenda := [], curNode := el, arrayTags := (nodeLines el).map fun l => (l, 5) }
    (v.strayOp el 0 (.elemAdd 4 4 0 0 false true)).isSome = true ∧ v.restoringAt el.sheet 0 = false ∧
    ({ turning with agenda := [] } : State).strayOp el 0 (.elemAdd 4 4 0 0 false true) = none := by decide +kernel

/-- A `merge` or `omerge` firing that has consumed one token. -/
def either : State := node el { fire (tok 0 0) (tok 0 0) (tok 0 0) with operands := ⟨[], [tok 7 0], [], []⟩ } id

theorem witness_Routing : ints.curNode = el ∧ (ints.node el).running = some (f ints) ∧ ints.readOnce el (f ints) [0, 1] = some [tok 5 0, tok 7 0] ∧
    3 ≤ (3#3).toNat ∧ (2#3).toNat < 3 ∧ (7#32) ≠ 0 ∧ done (ints.writeOut el 2 (ints.resultToken el (f ints) 0 ⟨0, 5⟩)) = true ∧
    done (ints.writeOut el 3 (ints.resultToken el (f ints) 0 ⟨0, 5⟩)) = true ∧ done (ints.writeDst el (f ints) 4 0 ⟨0, 5⟩) = true ∧
    (node el (fire (tok 5 0) (tok 0 0) (tok 0 0)) id).readOnce el (fire (tok 5 0) (tok 0 0) (tok 0 0)) [0, 1] = some [tok 5 0, tok 0 0] ∧
    (f either).either = some (tok 7 0) ∧ either.rateUsed el 3 = false ∧
    (either.readOnce el (f either) [0, 1]).isSome ∧
    (∀ o ∈ ints.outputs el (f ints), ints.rateUsed el o = false) ∧ (∃ o ∈ used.outputs el (f used), used.rateUsed el o = true) := by decide +kernel

/-- Declared state in k0 to k2, with a ring of two entries at TS 0 of the actor, `n` of them filled with FP32 1.0. -/
def stateful (n : Nat) : State :=
  let s := node el (fire (tok 5 0) (tok 0x4000 0) (tok 0x3F800000 1)) fun c =>
    { c with keeps := ⟨⟨0, 3⟩, ⟨1, 0x3F800000⟩, ⟨1, 0⟩, ⟨0, 0x4000⟩⟩,
             rings := if n = 0 then [] else [{ actor := 0, codes := [1], desc := 0x4000, head := 0, count := n }] }
  { s with mem := s.mem.write (sheetLoc 0 0) (wordBytes 8 0x000000013F800000) }

/-- The operands of a state's firing. -/
def ops (s : State) (l : List Src) : Option (List (BitVec 3 × W32)) := (s.readOnce s.curNode (f s) l).map fun l => l.map fun t => (t.fmt, t.value)

theorem witness_DeclaredState : (stateful 0).curNode = el ∧ ((stateful 0).node el).running = some (f (stateful 0)) ∧
    ops (stateful 0) [0, 4] = some [(0, 5), (0, 3)] ∧ 4 ≤ (4#3).toNat ∧ actorComb ((stateful 0).headerOf el (f (stateful 0))) ≠ 7 ∧
    combine 0 0 3 5 = some 8 ∧ (stateful 0).rateUsed el 3 = false ∧
    ops (stateful 0) [0, 5] = some [(0, 5), (1, 0x3F800000)] ∧ combine 0 1 0x3F800000 5 = none ∧
    ops (stateful 0) [2, 4] = some [(1, 0x3F800000), (0, 3)] ∧
    ops (stateful 0) [0, 1] = some [(0, 5), (0, 0x4000)] ∧ ringOk 0x4000 = true ∧ ringOk 0x8000000 = false ∧
    ((stateful 0).nodeCtx el 0).ring 0 0x4000 = { actor := 0, codes := [], desc := 0x4000, head := 0, count := 0 } ∧
    (((stateful 1).nodeCtx el 0).ring 0 0x4000).count < ringCap 0x4000 ∧ ringCap 0x4000 ≤ (((stateful 2).nodeCtx el 0).ring 0 0x4000).count ∧
    (∃ q ∈ ((stateful 1).nodeCtx el 0).rings, q.actor = 0 ∧ 1 ∈ q.codes ∧ q.count ≠ 0 ∧ q.desc ≠ 0x8000) ∧
    ¬(∃ q ∈ ((stateful 1).nodeCtx el 0).rings, q.actor = 0 ∧ 1 ∈ q.codes ∧ q.count ≠ 0 ∧ q.desc ≠ 0x4000) ∧
    (stateful 1).ringHeld el (ringEntry el 0x4000 1) = false := by decide +kernel

theorem witness_DeclaredState_rows :
    ops (stateful 0) [2, 5, 6] = some [(1, 0x3F800000), (1, 0x3F800000), (1, 0)] ∧ (fpCompute 1).isSome ∧
    ops (stateful 0) [2, 5] = some [(1, 0x3F800000), (1, 0x3F800000)] ∧
    done ((stateful 0).writeDst el (f (stateful 0)) 3 0 ⟨1, rowfin 0x3F800000 0x3F800000⟩) = true ∧
    ops (stateful 1) [7, 5, 5] = some [(0, 0x4000), (1, 0x3F800000), (1, 0x3F800000)] ∧
    (((stateful 0).nodeCtx el 0).ring 0 0x4000).count = 0 ∧ (((stateful 1).nodeCtx el 0).ring 0 0x4000).count = 1 ∧
    1 < (((stateful 2).nodeCtx el 0).ring 0 0x4000).count ∧ (stateful 1).injectFull el (f (stateful 1)) 3 = false ∧
    bytesWord ((stateful 1).mem.read (ringEntry el 0x4000 0) 8) = 0x000000013F800000 ∧
    (rowscl ⟨1, 0x3F800000⟩ 0x3F800000 0x3F800000).isSome := by decide +kernel

/-- rowfin of a sum of 1.75 (R139). -/
theorem test_rowfin : rowfin 0 0x3FE00000 = 0x3F124925 := by decide +kernel

/-- An AG at an address, an operand and a third. -/
def addressing (x y z : Token) (g : Firing → Firing) : State := node agn (g (fire x y z)) id

/-- What an access of four bytes of the AG comes to. -/
def agAns (s : State) (v : Nat) (k : AccessKind) : Ans := (s.resolve (s.agAgent agn (f s)) v 4 k).2

theorem witness_AddressGenerator :
    let s := addressing (tok 0x1FFFFC 0) (tok 7 0) (tok 9 0) id
    s.curNode = agn ∧ (s.node agn).running = some (f s) ∧ ops s [0] = some [(0, 0x1FFFFC)] ∧ (f s).invalid = false ∧
    ops s [0, 1] = some [(0, 0x1FFFFC), (0, 7)] ∧ ops s [0, 1, 2] = some [(0, 0x1FFFFC), (0, 7), (0, 9)] ∧
    agAns s (0xFF00000000000000 + 0x1FFFFC) .read = .ok (sheetLoc 0 0x1FFFFC) 1 ∧
    agAns s (0xFF00000000000000 + 0x1FFFFC) .write = .ok (sheetLoc 0 0x1FFFFC) 1 ∧
    agAns { s with ownerTags := [(sheetLoc 0 0x1FFF00 / 256, 2)] } (0xFF00000000000000 + 0x1FFFFC) .read = .access ∧
    done (s.writeDst agn (f s) 3 0 ⟨2, 0⟩) = true ∧ (0x200000#32).toNat % 4 = 0 ∧ 0x200000 ≤ (0x200000#32).toNat ∧ (5#32).toNat % 4 ≠ 0 := by
  decide +kernel

theorem witness_AddressGenerator_extended :
    let s := mapped (addressing (tok 4 0) (tok 1 0) (tok 9 0) id)
    ops s [0, 1, 2] = some [(0, 4), (0, 1), (0, 9)] ∧ 65536 * 1 + 4 < 2 ^ 48 ∧ agAns s 0x10004 .read = .ok 0x50004 1 ∧
    agAns s 0x10004 .write = .ok 0x50004 1 ∧ agAns s 0x10004 .atomic = .ok 0x50004 1 ∧ done (s.writeDst agn (f s) 4 0 ⟨0, 0⟩) = true := by
  decide +kernel
/-- A `tmove` of 16 bytes from TS 0x1000 to TS 0x2000, its descriptor at TS 0x20. -/
def moving (g : Firing → Firing) : State :=
  let s := node agn (g (fire (tok 0x20 0) (tok 0 0) (tok 0 0))) id
  { s with mem := s.mem.write (sheetLoc 0 0x20) (wordBytes 8 0xFF00000000001000 ++ wordBytes 8 0xFF00000000002000 ++ wordBytes 8 16) }

/-- The descriptor as the firing keeps it. -/
def movingLanes : List W32 := [0x1000, 0xFF000000, 0x2000, 0xFF000000, 16, 0, 0, 0]

theorem witness_MovesAndBoundaries :
    let s := moving id
    s.curNode = agn ∧ (s.node agn).running = some (f s) ∧ ops s [0] = some [(0, 0x20)] ∧ (0x20#32).toNat % 32 = 0 ∧
    s.rateUsed agn 3 = false ∧ (f s).progress = 0 ∧ (f s).invalid = false ∧
    (s.resolve (s.agAgent agn (f s)) (0xFF00000000000000 + 0x20) 32 .read).2 = .ok (sheetLoc 0 0x20) 1 ∧
    s.moveFault (s.agAgent agn (f s)) (moveOf (s.mem.read (sheetLoc 0 0x20) 32)) = none ∧
    (s.sheet 0).board.length + (moveRanges 0 (moveOf (s.mem.read (sheetLoc 0 0x20) 32))).length ≤ 32 ∧
    s.instAt agn.sheet 0 = some (1, instAt agn) ∧ { s with insts := [] }.instAt agn.sheet 0 = none := by decide +kernel

theorem witness_MovesAndBoundaries_step :
    let s := moving fun f => { f with progress := 2, lanes := movingLanes }
    let m := moveOf ((f s).lanes.flatMap fun w => natBytes 4 w.toNat)
    8 * 1 < m.len ∧ m.len ≤ 8 * 2 ∧ (s.resolve (s.agAgent agn (f s)) (m.src + 8) 8 .read).2 = .ok (sheetLoc 0 0x1008) 1 ∧
    (s.resolve (s.agAgent agn (f s)) (m.dst + 8) 8 .write).2 = .ok (sheetLoc 0 0x2008) 1 ∧
    done ((s.freeNodeRanges agn).writeDst agn (f s) 3 0 ⟨0, BitVec.ofNat 32 m.len⟩) = true := by decide +kernel

/-- A converter at a data token on in0, or at a token on in1 with a group. -/
def converting (x : Token) (in1 : Bool) (g : Group) : State :=
  node cvn { fire x x x with operands := if in1 then ⟨[], [x], [], []⟩ else ⟨[x], [], [], []⟩ } fun c => { c with group := g }

theorem witness_Converters :
    let s := converting (tok 0x3F800000 1) false .none
    s.curNode = cvn ∧ (s.node cvn).running = some (f s) ∧ ops s [0] = some [(1, 0x3F800000)] ∧ (f s).progress = 0 ∧ (f s).fromIn1 = false ∧
    (s.nodeCtx cvn 0).group = .none ∧ laneCount 1 < laneCount 2 ∧ laneCount 1 = laneCount 0 ∧ s.injectFull cvn (f s) 3 = false ∧
    (fpCompute 1).isSome ∧ fpCompute 0 = none ∧ (2#3).toNat ≠ 3 := by decide +kernel

theorem witness_Converters_boundary :
    let s := converting (tok 0x77B7 0) true (.quant 0 0 [0x3F800000])
    (s.readOnce cvn (f s) [0]).isSome ∧ (f s).fromIn1 = true ∧ (f s).progress = 0 ∧
    (s.nodeCtx cvn 0).group = .quant 0 0 [0x3F800000] ∧ (f s).either = some (tok 0x77B7 0) ∧
    ((s.setNodeCtx cvn 0 { s.nodeCtx cvn 0 with group := .none }).drain cvn (f s)
      (s.quantTokens cvn (f s) 0 0 4 0 0 [0x3F800000])).2 = [] ∧
    ((converting (tok 0 0) true .none).nodeCtx cvn 0).group = .none ∧
    ((converting (tok 0 0) true (.lanes 0 0 2 [0x3F80])).nodeCtx cvn 0).group = .lanes 0 0 2 [0x3F80] := by decide +kernel

/-- A PA at a control token, with banks and a store. -/
def array (v : W32) (g : Firing → Firing) (h : Node → Node) : State :=
  let s := node pan (g (fire (tok v 0) (tok 0 1) (tok 0 0))) fun c =>
    { c with slots := c.slots.set 0 0xC4100010, queues := ⟨[], [{ tok := tok 0x01010101 6, arrived := 0, edge := 0 }], [], []⟩, saveSlot := 0x4000 }
  s.setNode pan (h (s.node pan))

/-- A bank of context 0, a bank of context 1, and an empty image. -/
def mine : Bank := { int48 := false, owner := some 0, entries := [] }
def other : Bank := { int48 := true, owner := some 1, entries := [] }
def image0 : WeightStore := { bytes := [], img := 0x100, q := 0, owner := 0 }

theorem witness_PlaneArray :
    let s := array 0x100 id fun n => { n with acc0 := mine, acc1 := other }
    s.curNode = pan ∧ (s.node pan).running = some (f s) ∧ ops s [0] = some [(0, 0x100)] ∧ (0x100#32).toNat < 2 ^ 27 ∧
    0x100 + planeBytes 0 ≤ 0x200000 ∧ s.imageAns pan 0 0x100 0 = none ∧ (0x101#32).toNat % 2 ^ 21 % 256 ≠ 0 ∧
    ((s.node pan).bank 0).owner = some 0 ∧ ((s.node pan).bank 1).owner = some 1 ∧
    (((array 0 id id).node pan).bank 0).owner = none ∧ 64 * ((0x100#32).toNat % 2 ^ 15) + 32832 ≤ 0x200000 ∧
    s.injectFull pan (f s) 3 = false ∧ (0x3F3F#32).toNat / 2 ^ 8 % 64 + ((0x3F00#32).toNat % 64 + 1) ≤ 64 ∧
    (127 : Nat) + 1 = 128 * 1 ∧ (0x20000#32).getLsbD 17 = true ∧ (0x20000#32).toNat < 2 ^ 18 := by decide +kernel

theorem witness_PlaneArray_mm :
    let s := array 0x1100 (fun f => { f with progress := 1 }) fun n => { n with acc0 := mine, ws0 := some image0 }
    ops s [0, 1] = some [(0, 0x1100), (1, 0)] ∧ s.rateUsed pan 3 = false ∧ (f s).rows < (mmCtl 0x1100).rows ∧ (mmCtl 0x1100).rows ≤ 2 ∧
    (s.node pan).store (mmCtl 0x1100).store = some image0 ∧ (s.drawToken pan (f s) 1).map Prod.fst = some (tok 0x01010101 6) ∧
    done (s.writeDst pan (f s) 4 0 ⟨0, 2⟩) = true ∧ mmTag 6 = true ∧ ((s.node pan).bank (mmCtl 0x1100).bank).int48 = false ∧
    (List.replicate 124 (0 : W32)).length + laneCount 6 = 128 := by decide +kernel

/-- Two instances on the sheet, the second of higher rank with an `mm` suspended. -/
def interrupting (run : Bool) (owner : Option Nat) : State :=
  let s := array 0x1100 (fun f => { f with progress := 1, rows := 1 }) id
  let g : Firing := { fire (tok 0x1100 0) (tok 0 1) (tok 0 0) with ctx := 1, rows := 1 }
  let n := s.node pan
  { (s.setSheet 0 { s.sheet 0 with rank := ⟨1, 2, 0, 0⟩ }) with
    insts := [(1, instAt pan), (2, { instAt pan with ctx := 1 })]
    nodes := [(pan, { n with running := if run then n.running else none, suspended := [g], acc0 := { mine with owner := owner }, ws0 := some image0,
                             ctxs := { n.ctxs with q1 := n.ctxs.q0 } })] }

theorem witness_PlaneArray_interrupt : (array 0x1100 id id).interruptDue pan = none ∧ (array 0x1100 id id).resumeDue pan = none ∧
    (((interrupting true (some 0)).interruptDue pan).map fun p => (p.1.ctx, p.2.rows)) = some (0, 2) ∧
    ((interrupting true (some 0)).node pan).store 0 = some image0 ∧
    (((interrupting false none).resumeDue pan).map fun p => (p.1.ctx, p.2.rows)) = some (1, 2) := by decide +kernel

theorem witness_PlaneArray_begin :
    let s := (array 0x1100 id fun n => { n with acc0 := mine, ws0 := some image0 }).setNodeCtx pan 0
      { (array 0x1100 id id).nodeCtx pan 0 with headers := ⟨some (0x14000000, ext), none, none, none⟩, records := Quad.all (some (0x100, 0)) }
    (f s).progress = 0 ∧ (mmCtl 0x1100).bad = false ∧ portMode (s.headerOf pan (f s)) 1 = .stream 1 ∧
    (s.nodeCtx pan 0).records.get (mmCtl 0x1100).store = some (0x100, 0) ∧ (mmCtl 0x1100).p ≤ planeQ image0.q ∧
    (((interrupting false none).resumeDue pan).map fun p => ((interrupting false none).slotFaults pan p.1, (interrupting false none).keepsStore pan p.1 p.2,
      ((interrupting false none).setNode pan { (interrupting false none).node pan with ws0 := some { image0 with owner := 1 } }).keepsStore pan p.1 p.2)) =
      some ([], false, true) := by decide +kernel

theorem witness_PlaneArray_reload :
    let s := array 0x1100 id fun n => { n with acc0 := mine, ws0 := some { image0 with owner := 1 } }
    ((s.node pan).store (mmCtl 0x1100).store).map (fun w => w.owner) = some 1 ∧ s.imageAns pan 0 0x100 0 = none ∧ (mmCtl 0x1100).p ≤ planeQ 0 ∧
    ¬planeQ 0 < (mmCtl 0x1100).p ∧ planeQ 0 < (mmCtl 0x1400).p ∧ (mmCtl 0x1400).bad = false ∧ (mmCtl 0x1000).bad = true := by decide +kernel

/-- A lane of BF16 1.0 and one that is no number. -/
theorem witness_PlaneArray_row :
    ((fpOf ((0x23F80#32).extractLsb' 16 3)).map fun fm => fm.decode 0x3F80) = some (.fin false 128 (-7)) ∧
    ((fpOf ((0x27FC0#32).extractLsb' 16 3)).map fun fm => fm.decode 0x7FC0) = some .nan ∧
    (bitLen 128 : Int) - 1 + -7 = 0 ∧ (List.replicate 128 (0x23F80 : W32)).length = 128 ∧ (0x0100 : Nat) / 256 ≠ 255 ∧ (0xFF00 : Nat) / 256 = 255 ∧
    2 ≤ planeQ 0 ∧ mine.int48 = false ∧ other.int48 = true ∧ (tok 0x01010101 6).fmt = 6 := by decide +kernel

/-- The configuration of the worked front (R164), and one with a third key. -/
def cf2 : FrontConfig := { kt := false, nk := 2, dir := 1, cap := 4, keepAll := false, ovf := 0, ext := 0 }
def cf3 : FrontConfig := { cf2 with nk := 3, dir := 0 }

/-- An FE at three tokens with a front. -/
def fronted (a b c : Token) (fr : Front) (p : Nat) : State :=
  node fen { fire a b c with progress := p } fun x => { x with front := fr }

/-- A front with tuples. -/
def frontOf (cf : Option FrontConfig) (ts : List Tuple) (built : List Val) : Front :=
  { config := cf, tuples := ts, ovf := false, nan := false, building := built }

/-- A tuple of keys 1.0 and 2.0. -/
def tup : Tuple := { keys := [0x3F80, 0x4000], payload := ⟨0, 5⟩ }

theorem witness_Fronts :
    let s := fronted (tok 0x04430000 0) (tok 0 2) (tok 0 0) (frontOf none [] []) 0
    s.curNode = fen ∧ (s.node fen).running = some (f s) ∧ (f s).ctx < 4 ∧ s.readOnce fen (f s) [0] = some [tok 0x04430000 0] ∧
    frontConfig 0x04430000 = some cf2 ∧ frontConfig 0x04430001 = none ∧ (s.nodeCtx fen (f s).ctx).front.config = none := by decide +kernel

theorem witness_Fronts_insert :
    let s := fronted (tok 0x3F804000 2) (tok 0 2) (tok 7 0) (frontOf (some cf2) [tup] []) 0
    let full := fronted (tok 0x40003F80 2) (tok 0 2) (tok 7 0) (frontOf (some { cf2 with cap := 1, ovf := 3 }) [{ tup with keys := [0x4040, 0x4040] }] []) 0
    (s.nodeCtx fen 0).front.config = some cf2 ∧ s.readOnce fen (f s) [0, 2] = some [tok 0x3F804000 2, tok 7 0] ∧
    s.spillHeld fen cf2 = false ∧ oddKey cf2 [tok 0x3F804000 2, tok 7 0] = none ∧ oddKey cf2 [tok 0x3F804000 0, tok 7 0] = some (tok 0x3F804000 0) ∧
    ((frontOf (some cf2) [tup] []).insert cf2 (tupleOf cf2 [tok 0x3F804000 2, tok 7 0])).2 = false ∧
    ((full.nodeCtx fen 0).front.insert { cf2 with cap := 1, ovf := 3 } (tupleOf cf2 [tok 0x40003F80 2, tok 7 0])).2 = true ∧
    done (s.writeDst fen (f s) 4 0 ⟨0, 0⟩) = true ∧
    (fronted (tok 0x3F804000 2) (tok 0 2) (tok 7 0) (frontOf (some cf3) [] []) 0).readOnce fen (f s) [0, 1, 2] =
      some [tok 0x3F804000 2, tok 0 2, tok 7 0] := by decide +kernel

theorem witness_Fronts_merge :
    let s := fronted (tok 0x3F804000 2) (tok 0 2) (tok 7 0) (frontOf (some cf2) [tup] [⟨2, 0x3F804000⟩]) 0
    let g := (s.nodeCtx fen 0).front
    g.config = some cf2 ∧ 1 ≤ g.building.length ∧ (g.insert cf2 (builtTuple cf2 (g.building ++ [⟨0, 7⟩]))).2 = false ∧
    (frontOf (some cf2) [] []).building.length < 1 ∧ (tok 0 0).fmt ≠ cf2.keyTag ∧ (tok 0 2).fmt = cf2.keyTag := by decide +kernel

theorem witness_Fronts_drain :
    let s := fronted (tok 1 0) (tok 0 2) (tok 7 0) (frontOf (some cf2) [tup] []) 0
    let l := drainList cf2 1 (s.nodeCtx fen 0).front.tuples
    s.readOnce fen (f s) [0] = some [tok 1 0] ∧ 0 + 1 < l.length ∧ (l[0]?).isSome = true ∧ (l[l.length - 1]?).isSome = true ∧
    s.injectFull fen (f s) 1 = false ∧ s.injectFull fen (f s) 0 = false ∧ (drainList cf2 1 []).length = 0 + 1 := by decide +kernel

/-- An insertion that both tuples survive, and one that a held tuple dominates: key 0 maximised, key 1 minimised (R165, R166). -/
theorem test_front_domination :
    (insertTuple cf2 [tup] { tup with keys := [0x4000, 0x4040] }).kept = true ∧
    (insertTuple cf2 [tup] { tup with keys := [0x3F00, 0x4000] }).kept = false ∧
    (insertTuple cf2 [tup] { tup with keys := [0x4000, 0x4000] }).tuples.length = 1 := by decide +kernel

/-- An instance with one edge into an actor's port, or into a wide port, a token first on it. -/
def edged (k : NodeId) (hd : W32) (dst : EdgeEnd) (items : List Item) : Inst :=
  { instAt k with
    forme := { (instAt k).forme with actors := [(0, { actorAt k with header := hd })] }
    edges := [(0, { src := .actor 0 0, dst := dst, laid := [], way := [], hops := [], cycle := false, items := items, next := [], rewiring := none, passed := 0 })]
    configured := [(0, 0)] }

/-- The state with that instance, its node idle. -/
def arriving (i : Inst) (hd : W32) : State :=
  { placed i thr with nodes := [(el, { Node.reset with ctxs := { Quad.all NodeCtx.reset with
      q0 := { NodeCtx.reset with headers := ⟨some (hd, ext), none, none, none⟩ } } })] }

/-- Headers with port 0 tagged, a parameter, and a stream port of rate 1. -/
def headTagged : W32 := 0x20000000
def headParam : W32 := 0x80000000
def headStream : W32 := 0xA0000000

theorem witness_TokenEvents :
    let i := edged el headTagged (.actor 0 0) [.token (tok 5 0) 0]
    let s := arriving i headTagged
    i.restoring = false ∧ s.stopped i.base = false ∧
    i.unready (.actor 0 0) = false ∧ (∀ x ∈ i.edges, s.wayStopped x.2 = false ∧ x.2.crossings = []) ∧
    aget? i.forme.actors 0 = some { actorAt el with header := headTagged } ∧ i.ctx < 4 ∧
    (∀ x ∈ i.edges, (s.nodeCtx el 0).holdsEdge 0 x.2 = false) ∧ ((s.nodeCtx el 0).queues.get 0).length < 4 ∧
    (s.nodeCtx el 0).headerFor 0 = some (0, headTagged, ext) ∧
    ((arriving (edged el headParam (.actor 0 0) [.token (tok 5 0) 0]) headParam).nodeCtx el 0).headerFor 0 = some (0, headParam, ext) ∧
    ((arriving (edged el headStream (.actor 0 0) [.token (tok 5 0) 0]) headStream).nodeCtx el 0).headerFor 0 = some (0, headStream, ext) ∧
    portMode headTagged 0 = .tagged ∧ portMode headParam 0 = .stream 0 ∧ portMode headStream 0 = .stream (0 + 1) ∧
    s.holdsTag el 0 0 { tok 5 0 with port := 0 } = false ∧ (∀ x ∈ i.edges, s.edgeTurn i.ctx x.2.crossings = true) ∧
    (∀ x ∈ (edged el headTagged (.wide 0 2) [.token (tok 5 0) 0]).edges, x.2.dst = .wide 0 2 ∧ x.2.items = [.token (tok 5 0) 0] ∧
      (edged el headTagged (.wide 0 2) [.token (tok 5 0) 0]).unready x.2.dst = false) := by decide +kernel

/-- A header without port 0. -/
def headOff : W32 := 0x04000000

/-- A state whose base thread has a handler, the port's queue holding tokens. -/
def waited (i : Inst) (hd : W32) (l : List QToken) : State :=
  let s := arriving i hd
  let s := s.setThread 0 0 { s.thread 0 0 with tvec := 0xFF00000001300100 }
  s.setNodeCtx el 0 { s.nodeCtx el 0 with queues := ⟨l, [], [], []⟩ }

theorem witness_TokenEvents_off :
    let i := edged el headOff (.actor 0 0) [.token (tok 5 0) 0]
    portMode headOff 0 = .off ∧ ((waited i headOff []).nodeCtx el 0).headerFor 0 = some (0, headOff, ext) ∧
    NodeCtx.reset.headerFor 0 = none ∧ (waited i headOff []).noHandler i = false := by decide +kernel

theorem witness_TokenEvents_duplicate :
    let i := { edged el headTagged (.actor 0 0) [.token (tok 5 0) 0] with cutsDone := 1 }
    let s := waited i headTagged [{ tok := tok 9 0, arrived := 0, edge := 0 }]
    s.holdsTag el 0 0 { tok 5 0 with port := 0 } = true ∧ ((s.nodeCtx el 0).queues.get 0).length < 4 ∧
    (el, (tok 5 0).fireTag, 0) ∉ i.dupSeen ∧ i.cutsDone ≠ 0 ∧ i.rollbacks < 7 ∧ inst.cutsDone = 0 ∧ s.noHandler i = false ∧
    (el, (tok 5 0).fireTag, 0) ∈ ({ i with dupSeen := [(el, (tok 5 0).fireTag, 0)] } : Inst).dupSeen := by decide +kernel

/-- A tile with tokens in its matching store. -/
def stored (n : Nat) : Tile :=
  { Tile.reset with store := List.replicate n { qt := { tok := tok 5 0, arrived := 0, edge := 0 }, node := el, reserved := false } }

theorem witness_TokenEvents_reserved : (stored 1008).admits 0 (tok 5 0) = some true := by
  decide +kernel

/-- An idle node with a token on port 0. -/
def oneToken : State :=
  let s := arriving (edged el headTagged (.actor 0 0) []) headTagged
  let s := s.setNodeCtx el 0 { s.nodeCtx el 0 with queues := ⟨[{ tok := tok 5 0, arrived := 0, edge := 0 }], [], [], []⟩ }
  s.setSheet 0 { s.sheet 0 with units := Quad.all 1 }

theorem witness_TokenEvents_start :
    ((oneToken.nodeCtx el 0).queues.get 0)[0]? = some { tok := tok 5 0, arrived := 0, edge := 0 } ∧
    (oneToken.tile 0 0).admits 0 (tok 5 0) = some false ∧
    (oneToken.nodeCtx el 0).bound 0 (tok 5 0) = true ∧ (oneToken.node el).running = none ∧ oneToken.stopped el.sheet = false ∧
    (ints.node el).running ≠ none := by decide +kernel

theorem witness_TokenEvents_choice :
    (((oneToken.askColours el).choose el).bind (fun c => c.start)).map (fun x => (x.ctx, x.actor, x.inst, x.whole)) = some (0, 0, 1, false) ∧
    (((oneToken.askColours el).choose el).bind fun c => c.start.bind fun x => ((oneToken.askColours el).actor? x.inst x.actor).map fun a =>
      a.splits x.set) = some 0 := by decide +kernel

/-- An instance with streams: an inbound one reading TS 0 of own SS, or an outbound one with tokens oneToken. -/
def flowing (inb : Bool) (l : List Item) (st : StreamState) : State :=
  { placed { (edged el headTagged (.actor 0 0) []) with edges :=
      [(0, { src := .wide 0 2, dst := .actor 0 0, laid := [], way := [], hops := [], cycle := false, items := [], next := [], rewiring := none, passed := 0 })] } thr with
    sheets := [(0, { Sheet.reset with wide := [((2, 0), l)] })]
    streams := [(9, { inst := 1, sheet := 0, ctx := 0, inbound := inb, port := 2, bank := 0, cursor := 0, ahead := [], state := st, stall := none, invalid := false
                      desc := descOf (natBytes 8 (0xFF00000001000000) ++ natBytes 8 2 ++ natBytes 8 1 ++ natBytes 8 1) })] }

/-- The stream of a state. -/
def strm (s : State) : Stream := (aget? s.streams 9).getD
  { inst := 0, sheet := 0, ctx := 0, inbound := false, port := 0, bank := 0, desc := descOf [], cursor := 0, ahead := [], state := .stopped, stall := none, invalid := false }

theorem witness_StreamEvents :
    let s := flowing true [] .live
    let o := flowing false [.token (tok 5 0) 0] .live
    aget? s.streams 9 = some (strm s) ∧ (aget? s.insts (strm s).inst).isSome = true ∧ (strm s).state = .live ∧ (strm s).stall = none ∧
    (strm s).invalid = false ∧ (strm s).inbound = true ∧ ((aget? s.insts 1).map fun i => (i.edgesFrom (.wide 0 2), i.holds 0)) = some ([0], false) ∧
    ((aget? s.insts 1).map fun i => i.edgeRoom (i.edgesFrom (.wide 0 2))) = some true ∧
    s.stopped 0 = false ∧ (s.sheet 0).wideOpen 2 = true ∧ s.portChoice 0 2 = some 0 ∧ (strm s).ahead = [] ∧
    (flowing true [] .group).streams.map (fun p => (p.2.state, decide (p.2.cursor + p.2.ahead.length < p.2.desc.points))) = [(.group, true)] ∧
    (s.resolve (s.streamAgent (strm s)) ((strm s).desc.point 0).toNat 4 .read).2 = .ok (ssLoc 0 0) 1 ∧
    aget? o.streams 9 = some (strm o) ∧ (strm o).inbound = false ∧ agetD (o.sheet 0).wide (2, 0) [] = [.token (tok 5 0) 0] ∧
    (tok 5 0).fmt = (strm o).desc.fmt ∧ (tok 5 1).fmt ≠ (strm o).desc.fmt ∧
    (o.resolve (o.streamAgent (strm o)) ((strm o).desc.point 0).toNat 4 .write).2 = .ok (ssLoc 0 0) 1 ∧
    (flowing true [] .held).streams.map (fun p => p.2.state) = [.held] := by decide +kernel

/-- The inbound stream with as many tokens on its edge as it holds. -/
def crowded : State :=
  (flowing true [] .live).updInst 1 fun i => { i with edges :=
    [(0, { src := .wide 0 2, dst := .actor 0 0, laid := [], way := [], hops := [], cycle := false, items := List.replicate (Config.linkRoom 0 + 4) (.token (tok 5 0) 0), next := []
           rewiring := none, passed := 0 })] }

theorem crowded_full (i : Inst) (e : Edge) (hi : i.edges = [(0, e)]) (hs : e.src = .wide 0 2)
    (he : e.items = List.replicate (Config.linkRoom 0 + 4) (.token (tok 5 0) 0)) (hn : e.next = []) :
    i.edgeRoom (i.edgesFrom (.wide 0 2)) = false := by
  simp [Inst.edgeRoom, Inst.edgesFrom, Edge.room, hi, hs, he, hn, List.countP_replicate, Item.isToken]

theorem witness_StreamEvents_crowded : aget? crowded.streams 9 = some (strm crowded) ∧ (strm crowded).inbound = true ∧
    ∃ i, aget? crowded.insts 1 = some i ∧ i.edgeRoom (i.edgesFrom (.wide 0 2)) = false :=
  ⟨by decide +kernel, by decide +kernel, _, rfl, crowded_full _ _ rfl rfl rfl rfl⟩

theorem test_stream_in : ∃ t, exec (.streamPoint 9) { flowing true [] .live with mem := Memory.write [] (ssLoc 0 0) [0x44, 0x33, 0x22, 0x11] } = .next t ∧
    (aget? t.insts 1).map (fun i => i.edges.map fun e => e.2.items.map fun x => match x with
      | .token y _ => y.value
      | _ => 0) = some [[0x11223344]] := ⟨_, rfl, by decide +kernel⟩

/-- A fault tag of a staller, with a verdict. -/
def stalledBy (w : Staller) (v : Option Bool) (s : State) : State :=
  { s with drover := { s.drover with tags := [(7, { vf := 0, tenant := 1, addr := 0x10000, who := w, answered := v })] } }

theorem witness_StreamEvents_wake :
    let s := stalledBy (.ag agn) (some true) (node agn { fire (tok 0 0) (tok 0 0) (tok 0 0) with wait := .miss 7 } id)
    (aget? s.drover.tags 7).map (fun x => x.answered) = some (some true) ∧ ((s.node agn).running.map fun g => g.wait) = some (.miss 7) ∧
    ((aget? (stalledBy (.stream 9) (some false) (flowing true [] .live)).drover.tags 7).map fun x => (x.who, x.answered)) =
      some (.stream 9, some false) := by decide +kernel

/-- An engine operation with its flits. -/
def eop (started : Bool) (cls op reply : Nat) (rest : List Nat) : EngineOp :=
  { inst := 1, tenant := 1, sheet := 0, ctx := 0, engine := 0, die := 0,
    flits := ((cls * 2 ^ 60 + op * 2 ^ 52 + reply) :: rest).map (BitVec.ofNat 64), arrived := some 0, started := started, progress := 0, moved := 0,
    stage := [], index := none, status := none, stall := none, invalid := false, afterCommit := false, released := false, stick := [], cut := 0, prev := none }

/-- The state with that operation, a page of the tenant at 0x10000. -/
def engaged (o : EngineOp) : State := { mapped (placed inst thr) with ops := [(9, o)] }

/-- A number of own SS. -/
def ssn (off : Nat) : Nat := (ss off).toNat

/-- The value comes. -/
def got {α : Type} (r : Got α) : Bool := match r.2 with
  | .ok _ => true
  | _ => false

/-- It is stopped by this answer. -/
def stoppedBy {α : Type} (r : Got α) (x : Ans) : Bool := match r.2 with
  | .error e => decide (e.1 = x)
  | _ => false

/-- One operation of each kind. -/
def opCopy : EngineOp := eop true 0 0 0x10000 [ssn 0, ssn 0x100, 2]
def opCopyc : EngineOp := eop true 0 1 0x10000 [ssn 0, ssn 0x100, 2, 0x10100]
def opFill : EngineOp := eop true 0 2 0x10000 [ssn 0x100, 8, 0xAB]
def opPlane : EngineOp := eop true 0 3 0x10000 [ssn 0, ssn 0x10000, 0]
def opGather : EngineOp := eop true 0 4 0x10000 [ssn 0, ssn 0x100, ssn 0x200, 2 + 2 ^ 32]
def opScatter : EngineOp := eop true 0 5 0x10000 [ssn 0, ssn 0x100, ssn 0x200, 2 + 2 ^ 32]
def opCompose : EngineOp := { eop true 1 0 0x10000 [ssn 0, ssn 0x100, ssn 0x200, 0] with stick := [0x00006001, 0x50000000, 0x90000000] }

/-- One piece read and written, after which the unit, the element or the whole output is complete. -/
def onePiece (read : State → EngineOp → Got (List Byte)) (conv : List Byte → List Byte) (dst : EngineOp → Nat) (total unit : Nat) (s : State)
    (o : EngineOp) : Bool :=
  match read s o with
  | (_, .error _) => false
  | (t, .ok bs) =>
    let q := { o with stage := conv bs }
    let m := unitRoom (dst o) q.stage.length
    let p := q.wrote m unit
    !q.stage.isEmpty && decide (o.moved < total) && decide (o.stage = []) && got (t.putBytes q (dst o) (q.stage.take m)) &&
      (decide (total ≤ p.moved) || decide (dst p % 8 = 0) || decide (p.index ≠ o.index))

theorem witness_EngineOperations :
    let s := engaged opCopy
    aget? s.ops 9 = some opCopy ∧ opCopy.status = none ∧ opCopy.stall = none ∧ s.opHeld opCopy = false ∧ opCopy.started = true ∧
    opCopy.invalid = false ∧ (msgClass opCopy.header, msgOp opCopy.header) = (0, 0) ∧
    onePiece (fun x p => x.fetchRun p (opCopy.flit 1 + p.moved) (unitRoom (opCopy.flit 1 + p.moved) (2 - p.moved))) id
      (fun p => opCopy.flit 2 + p.moved) 2 1 s opCopy = true ∧
    (engaged { opCopy with started := false }).mayStart 9 { opCopy with started := false } = true ∧
    s.reachesSo { opCopy with started := false } = false ∧ s.mayStart 9 { opCopy with started := false, afterCommit := true } = false ∧
    { opCopy with flits := [] }.check = some 5 ∧ msgOk [] = false ∧ opCopy.check = none ∧
    stoppedBy (s.fetchRun opCopy (ssn 0x3FFFFF + 1) 1) .access = true := by decide +kernel

/-- A copy to a page of order SO, its message not yet admitted. -/
theorem witness_EngineOperations_ordered :
    let o := { eop false 0 0 0x10000 [ssn 0, 0x10000, 2] with started := false }
    let s := { engaged o with mem := (engaged o).mem.write 0x4008 (wordBytes 8 0x0100000000050003) }
    s.mustAwait o = true ∧ o.started = false ∧ o.awaitsCommit = false ∧ { o with afterCommit := true }.awaitsCommit = true ∧
    (engaged o).mustAwait o = false := by decide +kernel

theorem witness_EngineOperations_xlate :
    let s := { engaged opCopy with mem := Memory.write (engaged opCopy).mem 0x4008 (natBytes 8 0) }
    stoppedBy (s.fetchRun opCopy 0x10000 1) .miss = true ∧
    (let t := { s with mem := s.mem.write 0x4000 (natBytes 8 4) }; stoppedBy (t.fetchRun opCopy 0x0 1) .xlate = true) := by decide +kernel

theorem witness_EngineOperations_kinds :
    (∀ o ∈ [opCopyc, opFill, opPlane, opGather, opScatter, opCompose], o.started = true ∧ o.invalid = false ∧ o.progress = 0 ∧ o.check = none ∧
      o.moved = 0 ∧ o.stage = [] ∧ o.index = none) ∧
    [opCopyc, opFill, opPlane, opGather, opScatter, opCompose].map (fun o => (msgClass o.header, msgOp o.header)) =
      [(0, 1), (0, 2), (0, 3), (0, 4), (0, 5), (1, 0)] ∧
    onePiece (fun z p => z.fetchRun p (ssn 0 + p.progress * 4) (unitRoom (ssn 0 + p.progress * 4) (8 - p.progress * 4)))
      (fun bs => ((elementsOf 4 bs).map fun v => natBytes 4 (convertLane 0 1 true v)).flatten) (fun p => ssn 0x100 + p.moved) 8 4 (engaged opCopyc)
      opCopyc = true ∧
    opFill.moved < opFill.flit 2 % 2 ^ 32 ∧ (opFill.flit 1 + opFill.moved) % 8 = 0 ∧
    got ((engaged opFill).putBytes { opFill with stage := natBytes 8 0xAB } (ssn 0x100) (natBytes 8 0xAB)) = true ∧
    got ((engaged opGather).fetchIndex opGather (ssn 0) 0) = true ∧
    onePiece (fun x p => x.fetchRun p (ssn 0x100) (unitRoom (ssn 0x100) 1)) id (fun p => ssn 0x200 + p.moved) 2 1 (engaged opGather)
      { opGather with index := some 0 } = true ∧
    onePiece (fun x p => x.fetchRun p (ssn 0x100 + p.moved) (unitRoom (ssn 0x100) 1)) id (fun p => ssn 0x200 + p.index.getD 0) 2 1
      (engaged opScatter) { opScatter with index := some 0 } = true := by decide +kernel

/-- A compositor that has read no stick, one that has read a stick of plain output, and a plane operation that has read its tile. -/
def opStickless : EngineOp := { opCompose with stick := [] }
def opTile : EngineOp := { opPlane with stage := List.replicate (imageBytes 0) 0 }

theorem witness_EngineOperations_sticks :
    opStickless.flit 3 % 4 = 0 ∧ got ((engaged opStickless).fetchRun opStickless (opStickless.flit 3) 64) = true ∧
    { opStickless with flits := opStickless.flits.set 3 2 }.flit 3 % 4 ≠ 0 ∧ (stickOf opCompose.stick).plane = none ∧
    onePiece (fun x p => x.walkElement p (stickOf opCompose.stick) (p.moved / (stickOf opCompose.stick).emit.getD 1)) id
      (fun p => opCompose.flit 2 + p.moved) (stickOf opCompose.stick).bytes 1 (engaged opCompose) { opCompose with moved := 3 } = true := by decide +kernel

theorem witness_EngineOperations_tile : imageBytes 0 ≤ opTile.stage.length ∧ opTile.moved < imageBytes 0 ∧
    (opTile.flit 2 + unitRoom (opTile.flit 2) (imageBytes 0)) % 8 = 0 ∧
    got ((engaged opTile).putBytes opTile (opTile.flit 2) (List.replicate 8 0)) = true ∧
    got ((engaged opPlane).fetchRun opPlane (opPlane.flit 1) 8) = true :=
  ⟨by simp [opTile], by decide +kernel, by decide +kernel, by decide +kernel, by decide +kernel⟩

/-- A byte copied. -/
theorem test_copy : ∃ t, exec (.ceCopy 9 1) { engaged opCopy with mem := (engaged opCopy).mem.write (ssLoc 0 0) [0x5A] } = .next t ∧
    t.mem.read (ssLoc 0 0x100) 1 = [0x5A] := ⟨_, rfl, by decide +kernel⟩

theorem witness_EngineJoins :
    let o := { opCopy with status := some 1, progress := 2 }
    aget? (engaged o).ops 9 = some o ∧ (engaged opCopy).opHeld o = false ∧ o.stall = none ∧ o.invalid = false ∧
    ¬(msgClass o.header = 2 ∧ msgOp o.header = 2) ∧ o.header.toNat % 2 ^ 48 = 0x10000 ∧
    got ((engaged o).putBytes o 0x10000 (wordBytes 8 0x1000000000000002)) = true ∧ o.ctx < 4 := by decide +kernel

/-- The completion word of a copy of 16,384 bytes (R80). -/
theorem test_completion_word : completionWord 1 0 0 16384 = 0x1000000000004000 := by decide +kernel

/-- A link operation to package 5 with a route by port 2 and a binding of remote tag 9. -/
def linked (o : EngineOp) : State :=
  let s := engaged o
  { s with drover := { s.drover with bindings := [((1, 0), 0x00890005)], routes := [(5, 0x8002)] } }

def opPut : EngineOp := eop true 2 0 0x10000 [ssn 0, 0x20000, 2 + 5 * 2 ^ 32]
def opGet : EngineOp := { eop true 2 1 0x10000 [ssn 0, 0x20000, 2 + 5 * 2 ^ 32] with moved := 1 }
def opLamo : EngineOp := eop true 2 2 0x10000 [0x20000, 3, 8 + 5 * 2 ^ 32]
def opLsig : EngineOp := eop true 2 3 0x10000 [0x20000, 1 + 5 * 2 ^ 32]

/-- An operation has a way to go by this remote tag. -/
def hasWay (s : State) (o : EngineOp) : Option (BitVec 7) := match s.wayTo o with
  | .ok t => some t
  | .error _ => none

theorem witness_LinkOperations :
    (∀ o ∈ [opPut, opGet, opLamo, opLsig], aget? (linked o).ops 9 = some o ∧ o.status = none ∧ o.stall = none ∧ (linked o).opHeld o = false ∧
      o.started = true ∧ o.invalid = false ∧ msgClass o.header = 2 ∧ hasWay (linked o) o = some 9 ∧ hasWay (engaged o) o = none) ∧
    [opPut, opGet, opLamo, opLsig].map (fun o => msgOp o.header) = [0, 1, 2, 3] ∧ opPut.flit 3 % 2 ^ 32 = 2 ∧ opPut.flit 2 + 2 ≤ 2 ^ 48 ∧
    ((linked opPut).sendBlocks 9 opPut 9 2 (blockStarts 0 2)).2 = none ∧ opGet.moved = 1 ∧ (decodePayload [] 0).2 = true ∧
    ((linked opGet).writeGot { opGet with moved := 1, stage := [0x5A, 0x5A] } true 2).2.2 = none ∧
    ((linked opLamo).resolve opLamo.agent (opLamo.header.toNat % 2 ^ 48 + 8) 8 .write).2 = .ok 0x50008 1 ∧ opLamo.flit 1 + 8 ≤ 2 ^ 48 ∧
    (linked opLsig).ordBefore 9 opLsig = false := by decide +kernel

/-- A signal from package 5, tag 9, at an address. -/
def signal (a : BitVec 48) : SpanRequest :=
  { fromPackage := 5, toPackage := Config.packageNumber, senderTag := 9, rtag := 1, op := .lsig a 1 }

theorem witness_LinkOperations_remote :
    let s := linked opPut
    s.acceptsFrom 1 5 9 = true ∧ s.acceptsFrom 1 5 8 = false ∧ (0x10004#48).toNat % 8 ≠ 0 ∧ (0x10000#48).toNat % 8 = 0 ∧
    (signal 0x10000).op = .lsig 0x10000 1 ∧ (s.remoteAns 1 0x10000 8 .atomic).2 = .ok 0x50000 1 ∧ (s.opsBy 2).contains 9 = true ∧
    (s.opsBy 3).contains 9 = false ∧ agetD s.package.retries (2, 9, 0) 0 < 16 ∧
    agetD { s.package with retries := [((2, 9, 0), 16)] }.retries (2, 9, 0) 0 = 16 := by decide +kernel

/-- An answer on its way by port 2, as packet 77, and a packet that passes through. -/
theorem witness_LinkOperations_packets :
    let q : Packet := { id := 77, op := none, port := 2, vc := 1, origin := none }
    let s := { linked opPut with package := { (linked opPut).package with packets := [q] } }
    aget? s.ops 77 = none ∧ q ∈ s.package.packets ∧ (∀ p ∈ s.package.packets, p.id = 77 → p = q) ∧ { q with origin := some 5 }.origin = some 5 ∧
    s.routeTo 5 = some 2 ∧ s.drover.disabledPorts.contains 2 = false ∧ s.routeTo 6 = none ∧ s.portOf opPut = some 2 := by decide +kernel

theorem witness_LinkOperations_forward : (signal 0x10000).toPackage = Config.packageNumber ∧ Config.packageNumber + 1 ≠ Config.packageNumber ∧
    ∀ n : Nat, ({ linked opPut with drover := { (linked opPut).drover with routes := [(n, 0x8002)] } } : State).routeTo n = some 2 := by
  refine ⟨rfl, fun h => ?_, fun n => ?_⟩
  · bv_omega
  · simp [State.routeTo, aget?, agetD]; rfl

theorem witness_LinkOperations_parts :
    let s := linked opPut
    ((s.remoteParts 1 .write (pageParts 0x10000 2 3)).2.map fun p => decide (p.2.2 = none)) = [true] ∧ anyHeld (s.remoteParts 1 .read (pageParts 0x10000 2 3)).2 = false ∧
    firstFailing (s.remoteParts 1 .read (pageParts 0x10000 2 3)).2 = none ∧ firstFailing (s.remoteParts 1 .read (pageParts 0x20000 2 3)).2 ≠ none := by
  decide +kernel

/-- A launch packet of stamp 1 that asks for no operation there is: its CRC is right (R341). -/
def packet : List Byte :=
  let p := natBytes 58 1
  p ++ natBytes 4 (crc32c p).toNat ++ natBytes 2 1

/-- A record of tenant 1: active, VF 0, its root table at DM 0x1000. -/
def rec1 : BitVec 512 := BitVec.ofNat 512 (2 ^ 352 + 2 ^ 345 + 2 ^ 343 + 2 ^ 328 + 6 * 2 ^ 324 + 2 * 2 ^ 320 + 0x1000 * 2 ^ 272)

/-- A device with tenant 1 on VF 0, whose launch ring at 0x10000 holds the packet in slot 0. -/
def hosted : State :=
  { State.reset with
    mem := paged.mem.write 0x50000 packet
    drover := { Drover.reset with frames := [(0, 0x81)], records := [(1, rec1)] }
    vfs := [(0, { Vf.reset with lrBase := 0x10000, lrSize := 16, tries := 1, lrTail := 1 })]
    package := { Package.reset with boot := .running, linkUp := [true, true], fuse := some 0 } }

/-- A write that waits. -/
def waitingWrite : HostRequest := .write 0 2 0x50000 [1] ⟨false, 0, false⟩

theorem witness_StepRunsOpWord_events :
    (Turn.event (.kick 0 1)).named = true ∧ hosted.deaf (.kick 0 1) = false ∧ hosted.lateRegister (.kick 0 1) = none ∧
    ({ hosted with package := { hosted.package with boot := .recovery } } : State).deaf (.kick 0 1) = true ∧
    hosted.strayEvent (.kick 0 1) = none ∧
    (({ hosted with package := { hosted.package with hostWaits := [waitingWrite] } } : State).lateRegister (.kick 0 1)).isSome = true ∧
    (Turn.event (.galleyRefill 0 3)).named = true ∧ State.reset.deaf (.galleyRefill 0 3) = false ∧
    (({ popping { Queue.reset with galley := some (galley [1]) } with arrayTags := [(queueLine, 5)] } : State).strayEvent (.galleyRefill 0 3)).isSome =
      true := by decide +kernel

/-- The CRC check value of CRC-32C. -/
theorem test_crc32c : crc32c [0x31, 0x32, 0x33, 0x34, 0x35, 0x36, 0x37, 0x38, 0x39] = 0xE3069283 := by decide +kernel

theorem witness_LaunchRegisters :
    hosted.vfTenant 0 = 1 ∧ (hosted.vf 0).lrSize ≠ 0 ∧ (hosted.vf 1).lrSize = 0 ∧ (hosted.vf 0).lrSize.toNat ≤ (0x10#64).toNat % 2 ^ 16 ∧
    (15#64).toNat < (hosted.vf 0).lrSize.toNat ∧ (hosted.vf 0).tries ≠ 0 ∧ (hosted.vf 1).tries = 0 ∧
    (hosted.droverRead 1 ((hosted.vf 0).lrBase.toNat + 64 * (hosted.vf 0).lrHead.toNat) 64).2 = some packet ∧
    packetPasses packet (hosted.vf 0).expect = true ∧ packetPasses packet 2 = false ∧ packetOp packet = false ∧
    ((hosted.droverRead 1 0x10000 64).1.vf 0) = hosted.vf 0 ∧ (hosted.vf 0).lrTail.toNat = ((hosted.vf 0).lrHead.toNat + 1) % 16 ∧
    hosted.vfBusy 0 = false ∧ (0x2000#64).toNat % 4096 = 0 ∧ { hosted with slices := [(2, slice)] }.vfBusy 0 = true := by decide +kernel

theorem witness_LaunchRegisters_tags :
    let s := stalledBy (.stream 9) none hosted
    let r := { hosted with slices := [(2, slice)] }
    ((aget? s.drover.tags 7).map fun t => (t.vf, t.answered)) = some (0, none) ∧ aget? hosted.drover.tags 7 = none ∧
    r.running? 0 1 = some (2, slice) ∧ hosted.running? 0 1 = none ∧ ((r.grantUnits 0 1 5).running? 0 1).isSome = true ∧
    (hosted.setVf 0 { hosted.vf 0 with tlbinv := 1 }).vf 0 ≠ hosted.vf 0 := by decide +kernel

/-- A packet that asks for a launch, its phase table at 0x10400. -/
def launch : List Byte := natBytes 64 (1 + 2 ^ 16 + 2 ^ 32 + 0x10400 * 2 ^ 256 + 0x10800 * 2 ^ 320)

/-- The device with that table, the phase's image at 0x10C00 and a bulkhead of the tenant. -/
def launching : State :=
  { hosted with
    mem := hosted.mem.write 0x50400 (natBytes 32 (0x10C00 + 2 ^ 48 + 0x10440 * 2 ^ 64 + 8 * 2 ^ 168))
    images := [(0x50C00, image)]
    bulkheads := [(0, { Bulkhead.reset with state := .active, tag := 1, rotation := [1], started := true })] }

/-- The reason a phase's check gives, if any. -/
def reason (s : State) (i : Nat) : Option (BitVec 8) :=
  match (s.checkPhase 1 (pf launch 256 48) (pf launch 320 48) i).2 with
  | .ok _ => none
  | .error r => some r

/-- The same with nothing due, its slot not yet tried. -/
def idle (tail : Word) : State := hosted.setVf 0 { hosted.vf 0 with tries := 0, lrTail := tail }

theorem witness_LaunchRegisters_slots : packetOp launch = true ∧ reason launching 0 = none ∧ reason hosted 0 = some 2 ∧ (idle 1).allDue = 1 ∧
    (idle 0).allDue = 0 ∧ (idle 1).nextRing = some 0 ∧ hosted.nextRing = none ∧ hosted.ringMisses 0 (0x10000 + 64 * 0) 64 = false ∧
    hosted.ringBaseOk 0 0x11000 1024 = true ∧ hosted.ringBaseOk 0 0x20000 1024 = false := by decide +kernel

theorem witness_DroverTables (t : Nat) : hosted.tdiRuns t = false := by
  have h (v : Nat) : (hosted.vf v).tdi = .unlocked := by
    have e : hosted.vfs = [(0, hosted.vf 0)] := rfl
    unfold State.vf
    rw [e]
    simp only [agetD, aget?]
    split <;> rfl
  simp [State.tdiRuns, h]

theorem witness_DroverTables_checks :
    hosted.recordOk 1 rec1 = true ∧ hosted.recordOk 2 rec1 = false ∧ hosted.vfMoves 1 rec1 = false ∧
    ({ hosted with slices := [(2, slice)] } : State).vfMoves 1 (rec1 - 1 <<< 352) = true ∧ hosted.phaseRuns 1 = false ∧ hosted.drover.recordWrites = [] ∧
    hosted.hasFrame 0 = true ∧ hosted.hasFrame 4096 = false ∧ (agetD hosted.drover.frames 0 0).getLsbD 7 = true ∧
    ((agetD hosted.drover.frames 0 0).extractLsb' 0 7) ≠ 0 ∧ ((agetD hosted.drover.frames 0 0).extractLsb' 0 7) ≠ (0x82#8).extractLsb' 0 7 ∧
    (agetD hosted.drover.frames 1 0).getLsbD 7 = false ∧ hosted.mem.wf = true ∧ filterOk 0 = false ∧
    filterOk (BitVec.ofNat 128 (2 * 2 ^ 120 + 2 ^ 113 + 2 ^ 98 + 2 ^ 82 + 2 ^ 74)) = true ∧ hosted.vfBusy 0 = false := by decide +kernel

theorem witness_DroverTables_sizes : hosted.ringBaseOk 0 (hosted.vf 0).lrBase (64 * (0x10#64).toNat) = true ∧
    hosted.ringBaseOk 0 (hosted.vf 0).lrBase (64 * (0x1000#64).toNat) = false ∧ (hosted.vf 1).lrBase = 0 := by decide +kernel

theorem witness_DroverTables_windows :
    let s := { placed inst thr with drover := hosted.drover }
    (0x8100#16).getLsbD 15 = true ∧ s.windowOk 0 0 (0x8100#16 &&& 0xFF80) = false ∧ s.windowOk 1 0 (0x8080#16 &&& 0xFF80) = true ∧
    s.phaseRuns (s.bulkhead 0).tag.toNat = true ∧ (0x0000#16).getLsbD 15 = false := by decide +kernel

/-- A bulkhead in a state. -/
def bulked (b : Bulkhead) : State := { hosted with bulkheads := [(0, b)] }

theorem witness_Bulkheads :
    let free := { Bulkhead.reset with started := true }
    let active := { free with state := .active, tag := 1, rotation := [1] }
    hosted.activeTenant 1 = true ∧ hosted.activeTenant 2 = false ∧ (bulked free).bulkhead 0 = free ∧ free.busy = .no ∧
    (bulked { free with busy := .zeroising, nextTag := 1 }).bulkhead 0 ≠ free ∧ active.relocking = false ∧
    (bulked active).instsOn 0 = [] ∧ (placed inst thr).instsOn 0 ≠ [] ∧ (bulked active).tdiRuns 1 = false ∧
    active.parked.find? (fun p => decide (p.tenant = 1)) = none ∧ (bulked active).time < { active with sliceEnd := 5 }.sliceEnd ∧
    active.sliceEnd ≤ (bulked active).time := by decide +kernel

/-- Two tenants, each with tables and a park area in a frame of its own, which one pinned RC page covers. -/
def parking : State :=
  let r := fun (t : Nat) => BitVec.ofNat 512 (2 ^ (351 + t) + t * 2 ^ 345 + 2 ^ 343 + 2 ^ 328 + 6 * 2 ^ 324 + 2 * 2 ^ 320 +
    ((t - 1) * 2 ^ 30 + 0x1000) * 2 ^ 272 + (t - 1) * 2 ^ 30 * 2 ^ 208)
  { bulked { Bulkhead.reset with started := true, state := .active, tag := 1, rotation := [1] } with
    mem := Memory.write [] 0x1000 (wordBytes 8 0x2001) |>.write 0x2000 (wordBytes 8 0x0B00000000000003)
      |>.write (2 ^ 30 + 0x1000) (wordBytes 8 0x40002001) |>.write (2 ^ 30 + 0x2000) (wordBytes 8 0x0B00000040000003)
    drover := { Drover.reset with records := [(1, r 1), (2, r 2)], frames := [(0, 0x81), (1, 0x82)] } }

theorem witness_Bulkheads_sharing : parking.mayShare 0 2 = true ∧ parking.tdiRuns 2 = false ∧ parking.activeTenant 2 = true ∧
    (2 : Nat) < 127 ∧ (parking.bulkhead 0).state = .active ∧ (parking.bulkhead 0).busy = .no := by decide +kernel

theorem witness_Bulkheads_asks : (parking.bulkhead 0).asks = [] ∧ (parking.bulkhead 0).allows (.assign 2) = true ∧
    (parking.bulkhead 0).allows .release = true ∧ { parking.bulkhead 0 with busy := .zeroising }.allows .release = false ∧
    (parking.bulkhead 1).allows (.reset false) = false ∧ (parking.bulkhead 0).state ≠ .retired ∧ (parking.bulkhead 0).holders.contains 2 = false := by
  decide +kernel

theorem witness_HostAndBringup :
    hosted.outsideIde 0 false = false ∧ { hosted with drover := { hosted.drover with records := [(1, rec1 ||| 1 <<< 344)] } }.outsideIde 1 false = true ∧
    isRegisterBar 1 0 = true ∧ isRegisterBar 0 2 = false ∧ hosted.windowOf 1 3 = .none ∧ isRegisterBar 1 3 = false ∧
    (∀ k < 4, (hosted.hostByte (hosted.windowOf 0 2) (0x50000 + k) false).2 = .ok (0x50000 + k) false) ∧
    (∀ k < 4, (hosted.hostByte (hosted.windowOf 0 2) (0x50000 + k) true).2 = .ok (0x50000 + k) false) ∧ hosted.mem.wf = true := by decide +kernel

theorem witness_HostAndBringup_bytes : (∀ k < 4, (hosted.hostByte (hosted.windowOf 0 2) (0x50000 + k) true).1 = hosted) ∧
    ∀ k < 4, (hosted.hostByte (hosted.windowOf 0 2) (0x50000 + k) false).1 = hosted := by decide +kernel

theorem witness_HostAndBringup_waits :
    let s : State := { hosted with insts := [(1, { inst with heldLines := [(0x50000 / 64, 0)] })] }
    waitingWrite.before (.read 0 2 0x50000 4 ⟨false, 0, false⟩) = true ∧ waitingWrite.path.1 = 0 ∧ waitingWrite.path.2.link ≠ 1 ∧
    hosted.package.hostWaits = [] ∧ ((s.hostBytes (s.windowOf 0 2) 0x50000 4 false).2).contains .line = true := by decide +kernel

theorem witness_HostAndBringup_links :
    let s := hosted.setVf 0 { hosted.vf 0 with signals := [0] }
    ({ s with package := { s.package with linkUp := [false, true] } } : State).signalLink = some 1 ∧ (s.vf 0).signals = [0] ∧
    ({ s with package := { s.package with linkUp := [false, false] } } : State).signalLink = none := by decide +kernel

/-- Four images that verify. -/
def images : List FirmwareImage :=
  [.stage1, .drover, .engine, .estimator].map fun k => { kind := k, version := 1, ed25519 := true, mldsa65 := true, measurement := 0 }

theorem witness_HostAndBringup_boot :
    (∀ x ∈ bootImages images hosted.package.nextImages, x.isSome = true) ∧ (∀ m ∈ images, hosted.verifies m = true) ∧
    (bootImages images []).length = 4 ∧
    (∃ x ∈ bootImages (images.map fun m => { m with mldsa65 := false }) [], ∀ m ∈ images.map fun m => { m with mldsa65 := false },
      x.isSome = true ∧ hosted.verifies m = false) ∧ hosted.package.boot = .running ∧ State.reset.package.boot ≠ .running ∧
    (hosted.bulkhead 3).started = false ∧ (hosted.bulkhead 3).state = .free ∧ scratchBh 0x50000 = none ∧ frameOf 0x50000 ≠ none ∧
    scratchBh (ssLoc 0 0) = some 0 ∧ hosted.expanderFits ⟨0, 0, 1024, 4⟩ = true ∧
    (let s := { hosted with package := { hosted.package with expander := [⟨0, 1, 1024, 4⟩] } }
     s.hasFrame 1024 = true ∧ s.expanderFits ⟨0, 0, 1024, 4⟩ = false) := by
  decide +kernel

theorem witness_PowerAndManagement :
    let m : Word := 0x0000000107D00001
    m.toNat % 2 ^ 16 ≠ 0 ∧ 1 ≤ (m.toNat / 2 ^ 32 + 2 ^ 32 - hosted.package.capSeq) % 2 ^ 32 ∧
    (0x0000000007D00001#64).toNat / 2 ^ 32 = 0 ∧ hosted.package.cap = none ∧
    { hosted with package := { hosted.package with cap := some (600, 5) } }.package.cap = some (600, 5) ∧ ¬5 ≤ hosted.time ∧ 0 ≤ hosted.time ∧
    vote (hosted.bulkhead 0).currents = some 0 ∧ vote [{ Sensor.reset with reading := 3 }, { Sensor.reset with reading := 5 }, Sensor.reset] = some 3 ∧
    vote [Sensor.reset, { Sensor.reset with valid := false }, { Sensor.reset with valid := false }] = none := by decide +kernel

theorem witness_PowerAndManagement_sensors :
    let x := sampleAll true (hosted.bulkhead 0).temps [106, 106, 106] (hosted.bhEnergy 0)
    vote x = some 106 ∧ (105 : Int) < 106 ∧ vote (sampleAll true (hosted.bulkhead 0).temps [99, 99, 99] (hosted.bhEnergy 0)) = some 99 ∧
    (validReadings (sampleAll true [{ Sensor.reset with valid := false }, { Sensor.reset with valid := false }, Sensor.reset] [3, 3, 3] 0)).length < 2 := by
  decide +kernel

theorem witness_PowerAndManagement_windows :
    let s := placed { inst with cycle := 4096 } thr
    aget? s.insts 1 = some { inst with cycle := 4096 } ∧ aget? s.slices inst.slice = some slice ∧ 4096 * (inst.window + 1) ≤ 4096 ∧
    inst.cycle < 4096 * (inst.window + 1) ∧ inst.pinned = false ∧ { inst with pinned := true }.pinned = true := by decide +kernel

/-- A confidential tenant 1. -/
def secret : State := { hosted with drover := { hosted.drover with records := [(1, rec1 ||| 1 <<< 344)] } }

theorem witness_PowerAndManagement_requests :
    secret.confidential (secret.vfTenant 0) = true ∧ (secret.vf 0).tdi = .unlocked ∧ hosted.vfTenant 0 ≠ 0 ∧ hosted.vfTenant 5 = 0 ∧
    (secret.setVf 0 { secret.vf 0 with tdi := .locked }).vfTenant 0 = 1 ∧ ((secret.setVf 0 { secret.vf 0 with tdi := .locked }).vf 0).tdi = .locked ∧
    (∀ m ∈ images, hosted.verifies m = true) ∧ hosted.verifies { kind := .drover, version := 1, ed25519 := false, mldsa65 := true, measurement := 0 } = false ∧
    ({ hosted with package := { hosted.package with images := images } }.package.images[3]?).isSome = true ∧
    vote (hosted.bulkhead (64 - 64)).temps = some 0 ∧ vote (hosted.bulkhead (127 - 64)).temps = some 0 := by decide +kernel

/-- The estimated allowance falls by an eighth down to 8 (R263). -/
theorem test_allowance : (List.range 35).foldl (fun a _ => max (a - a / 8) 8) 512 = 8 := by decide +kernel

theorem witness_Scheduling :
    let s := placed inst thr
    let late := { s with time := 4096 }
    aget? s.insts 1 = some inst ∧ aget? s.slices inst.slice = some slice ∧ slice.rankTime + 4096 ≤ late.time ∧ s.time < slice.rankTime + 4096 ∧
    BitVec.ofNat 8 { slice with prio := 5 }.curPrio ++ BitVec.ofNat 8 (255 - min 255 ((slice.deadline.toNat - 4096) / 4096)) ≠ inst.forme.rank ∧
    inst.ctx < 4 ∧ inst.sheets.contains 0 = true ∧ inst.configured.contains (0, 0) = false ∧ inst.configured.length + 1 ≠ 16 * (inst.w * inst.h) ∧
    inst.sheets.contains 9 = false ∧ s.phaseOver 1 inst = false ∧
    (placed inst { thr with run := .halted }).phaseOver 1 inst = true ∧ (placed inst { thr with run := .halted }).assocSets inst = [] ∧ inst.nextPhase = none ∧ slice.nph ≤ slice.phase + 1 := by
  decide +kernel

/-- A queued launch on an ACTIVE bulkhead. -/
def queued : State :=
  { bulked { Bulkhead.reset with started := true, state := .active, tag := 1, rotation := [1] } with
    slices := [(2, { slice with state := .queued, inst := none, image := some image })] }

theorem witness_Scheduling_place :
    ((queued.firstPlaceable (queued.slicesIn 0 .requeued ++ queued.slicesIn 0 .queued)).map fun p => (p.1.1, p.2.2.2)) = some (2, 0, 0) ∧
    (hosted.firstPlaceable (hosted.slicesIn 0 .requeued ++ hosted.slicesIn 0 .queued)).isNone = true ∧ (chaseSheets 0 2 1).Nodup ∧
    (chaseSheets 0 2 1)[0]? = some 0 ∧ variant.code.contains 0 = true ∧ ((queued.slicesIn 0 .queued).map Prod.fst) = [2] ∧
    slice.waitSince + 50000 ≤ { queued with time := 50000 }.time ∧ queued.drover.backfill.contains 2 = false ∧ queued.time < slice.waitSince + 50000 ∧
    queued.quantumOf slice ≤ { slice with quantum := queued.quantumOf slice }.quantum ∧ slice.quantum < queued.quantumOf slice ∧
    (∃ p ∈ queued.slicesIn 0 .queued, slice.curPrio ≤ p.2.curPrio) := by decide +kernel

theorem witness_Scheduling_budget :
    let s := placed inst thr
    s.instAt 0 0 = some (1, inst) ∧ slice.workFree = false ∧ (s.sheet 0).units.get 0 = 0 ∧ slice.work ≠ 0 ∧
    { slice with workFree := true }.workFree = true ∧ (oneToken.sheet 0).units.get 0 ≠ 0 ∧ { slice with work := 0 }.work = 0 ∧
    slice.heldForBudget = false ∧ (∀ sh ∈ inst.sheets, (s.sheet sh).units.get inst.ctx = 0) := by decide +kernel

/-- A VF with a record of each ring oneToken, the rings at 0x11000. -/
def posting (head : Word) : State :=
  let v := { Vf.reset with crBase := 0x11000, crSize := 16, erBase := 0x11400, erSize := 16, crHead := head, erHead := head,
                           completions := [refusedRecord packet 0 1], events := [{ kind := 2, fault := 6, tag := 1, a := 0, b := 0, c := 0 }] }
  { hosted with vfs := [(0, v)] }

theorem witness_Scheduling_records :
    let v := (posting 0).vf 0
    v.completions = [refusedRecord packet 0 1] ∧ v.events.length = 1 ∧ (posting 0).package.linkUp.getD 0 false = true ∧ v.crSize ≠ 0 ∧ v.erSize ≠ 0 ∧
    BitVec.ofNat 64 ((v.crTail.toNat + 1) % v.crSize.toNat) ≠ v.crHead ∧ BitVec.ofNat 64 ((v.crTail.toNat + 1) % v.crSize.toNat) = ((posting 1).vf 0).crHead ∧
    ((posting 0).droverWrite 1 (v.crBase.toNat + 64 * v.crTail.toNat) ((refusedRecord packet 0 1).bytes v.crPhase)).2 = true ∧
    ((posting 0).droverWrite 1 (v.erBase.toNat + 32 * v.erTail.toNat)
      (({ kind := 2, fault := 6, tag := 1, a := 0, b := 0, c := 0 } : EventRec).bytes v.erPhase 0)).2 = true := by decide +kernel

theorem witness_Scheduling_posting : (posting 0).signalLink = some 0 ∧ (posting 0).joined (refusedRecord packet 0 1).inst = true ∧
    (engaged { opCopy with inst := 0 }).joined (refusedRecord packet 0 1).inst = false ∧ (posting 0).ringMisses 0 0x11000 64 = false ∧
    (posting 0).ringMisses 0 0x20000 64 = true := by decide +kernel

/-- An instance whose actor is to be cloned, the slug first on its one edge or behind a token. -/
def cloning (items : List Item) : Inst :=
  let i := edged el head3 (.actor 0 0) items
  { i with
    forme := { i.forme with actors := [(0, { actorAt el with header := head3, active := [] })] }
    edges := amap i.edges fun _ e => { e with rewiring := some 3 }
    changes := [{ id := 3, kind := 0, actor := 0, before := el, after := ⟨.element, 0, 0, 1⟩, other := 0 }] }

theorem witness_Scheduling_slug :
    let i := cloning [.slug 3]
    let s := arriving i head3
    (i.changes.find? fun c => decide (c.id = 3)).isSome = true ∧ (aget? i.forme.actors 0).isSome = true ∧
    (∀ p ∈ i.rewired 3, p.2.slugFirst 3 = true) ∧ (∃ p ∈ (cloning [.token (tok 5 0) 0, .slug 3]).rewired 3, p.2.slugFirst 3 = false) ∧ i.restoring = false ∧
    (∀ p ∈ i.forme.actors, s.settled i p.2 = true ∧ s.stopped p.2.node.sheet = false ∧
      ∀ c ∈ i.changes, p.2.midBlock c = false ∧ s.acrossCut i c p.2 = false ∧ s.changeHolds i c p.2 = true) := by decide +kernel

/-- An unclone of a SCAN set of blocks, in the middle of one, is put off (R234). -/
theorem witness_Scheduling_slug_waits :
    { actorAt el with header := 0xC08, started := 1 }.midBlock { id := 3, kind := 1, actor := 0, before := el, after := el, other := 0 } = true := by
  decide +kernel

/-- An instance with an actor and no edge, a cut wanted. -/
def cuttable : Inst := { edged el headTagged (.actor 0 0) [] with edges := [], cutWanted := true }

/-- The state an event leaves. -/
def after (i : Instr) (s : State) : State := match exec i s with
  | .next t => t
  | _ => s

/-- A state in which the launch's save base is the page at 0x10000. -/
def saving (i : Inst) : State := { mapped (arriving i headTagged) with slices := [(2, { slice with save := 0x10000 })] }

/-- A cut begun. -/
def begun : State := after (.cutTimer 1) (saving cuttable)

/-- Its one node saved. -/
def saved : State := after (.nodeSave 1 el) begun

/-- The instance of a state. -/
def instIn (s : State) : Inst := (aget? s.insts 1).getD inst

theorem witness_Scheduling_slug_held :
    let i := cloning [.slug 3]
    let s := arriving i head3
    s.settled i (actorAt el) = false ∧ (∀ p ∈ i.forme.actors, ∀ c ∈ i.changes, s.joinHeld i.ctx p.2 = false ∧
      (s.setNodeCtx el 0 { s.nodeCtx el 0 with saved := true }).acrossCut { i with cutting := (instIn begun).cutting } c p.2 = true) ∧
    ({ s with package := { s.package with linkUp := [false, false] } } : State).signalLink = none := by decide +kernel

theorem witness_Recovery_cut :
    aget? (saving cuttable).insts 1 = some cuttable ∧ cuttable.cutWanted = true ∧ cuttable.cutting = none ∧ cuttable.restoring = false ∧
    (saving cuttable).assocSets cuttable = [] ∧ (instIn begun).cutting.isSome = true ∧ (instIn begun).forme.actorsOn ((instIn begun).forme.group [el] 32) ≠ [] ∧
    (begun.nodeCtx el 0).saved = false ∧ (∀ p ∈ (instIn begun).forme.actors, begun.aligned (instIn begun) p.1 p.2 = true ∧
      begun.drained (instIn begun) p.1 p.2 = true ∧ p.2.members.length ≤ 1) ∧ begun.betweenFirings el 0 = true := by decide +kernel

theorem witness_Recovery_complete :
    ((instIn saved).cutting.map fun a => saved.cutReady 1 (instIn saved) a) = some true ∧
    ((instIn begun).cutting.map fun a => begun.cutReady 1 (instIn begun) a) = some false ∧
    ((instIn saved).sheets.all fun sh => !(saved.thread sh 0).publishing) = true ∧
    (saved.areaLocs (instIn saved) 0 .write).isSome = true ∧
    { saved with slices := [(2, { slice with save := 0x20000 })] }.areaLocs (instIn saved) 0 .write = none ∧
    saved.lastingAt (.saveLine 0 5) true = false ∧ (saved.noteFault (.saveLine 0 5) true [1]).lastingAt (.saveLine 0 5) true = true ∧
    (saved.bulkhead (bhOf (instIn saved).base)).state ≠ .retired ∧
    saved.assocSets (instIn saved) = [] ∧ (instIn saved).restoring = false := by decide +kernel

theorem witness_Recovery_faults :
    let s := placed inst thr
    let n : FaultSite := .node el
    s.lastingAt n false = false ∧ s.lastingAt n true = false ∧ inst.cutsDone = 0 ∧ inst.holdsAt (.proofBuffer 0) = false ∧ s.lastingAt (.proofBuffer 0) true = false ∧ (instAt el).holdsAt n = true ∧
    (s.noteFault n false [1]).lastingAt n false = true ∧ (s.noteFault n true [1]).lastingAt n true = true ∧
    { inst with cutsDone := 1 }.rollbacks < 7 ∧ ((s.noteFault n true [1]).bulkhead (faultBh n)).state ≠ .retired := by decide +kernel

/-- An instance being restored from its one complete area. -/
def restoring : Inst :=
  let i := instIn (after (.cutComplete 1 none) saved)
  { i with restoring := true }

/-- The state after the cut. -/
def back : State := after (.cutComplete 1 none) saved

theorem witness_Recovery_restore :
    ((restoring.newestArea.bind fun a => back.readArea restoring a).map fun a => (a.forme.isSome, back.nodesFree restoring a)) = some (true, true) ∧
    (restoring.newestArea.bind fun a => back.readArea restoring a).isSome = true ∧
    (restoring.newestArea.bind fun a => { back with slices := [(2, { slice with save := 0x20000 })] }.readArea restoring a).isNone = true ∧ restoring.newestArea.isSome = true ∧
    inst.newestArea = none := by decide +kernel

theorem witness_Recovery_reports :
    let t := { thr with tvec := 0xFF00000001300100 }
    let s := placed { inst with watchdog := 2 ^ 20 } t
    2 ^ 20 ≤ { inst with watchdog := 2 ^ 20 }.watchdog ∧ inst.stalled = false ∧ inst.frozen = false ∧ s.noHandler inst = false ∧
    (placed inst thr).noHandler inst = true ∧ inst.watchdog < 2 ^ 20 ∧ inst.reports = [] ∧
    s.canDeliver { inst with reports := [reporting.report0] } = true ∧ (s.thread inst.base 0).wait = none := by decide +kernel

/-! ### Ill-formed terms, each of which a check refuses -/

/-- A node on a sheet that is none. -/
def badNode : NodeId := ⟨.element, 256, 0, 0⟩

/-- Places that hold no node. -/
theorem test_nodes_refused : [badNode, ⟨.element, 0, 16, 0⟩, ⟨.element, 0, 0, 16⟩, ⟨.cv, 0, 0, 0⟩, ⟨.cv, 0, 5, 1⟩, ⟨.ag, 0, 0, 1⟩, ⟨.pa, 0, 0, 1⟩,
    ⟨.fe, 0, 0, 1⟩].all (fun n => !n.exists) = true ∧ [el, ⟨.cv, 255, 5, 0⟩, ⟨.cv, 0, 10, 0⟩, ⟨.pa, 0, 15, 0⟩].all NodeId.exists = true := by decide

theorem test_ill_formed_refused_1 : ([.ld 0 0 0 .d .rel .tile, .ld 0 0 0 .d .plain .dev, .st 0 0 0 .d .acq .tile, .st 0 0 0 .d .plain .dev,
    .amo 0 0 0 0 .b .plain .tile .add, .amo 0 0 0 0 .d .plain .dev .add, .cas 0 0 0 0 .b .plain .tile, .cas 0 0 0 0 .d .plain .dev,
    .dset 16 0, .strin 8 0 0, .strin 0 16 0, .strin 0 0 2, .strout 8 0 0, .strout 0 16 0, .strout 0 0 2, .scancel 2, .amsg 0 0,
    .amsg 0 17, .qpush 8 0 0, .qpop 0 8, .qcnt 0 8, .qctl 8 0 0, .qbind 8 0, .waitingInstructionRetire 256 0,
    .waitingInstructionRetire 0 4, .handlerInvocation 256 0, .handlerInvocation 0 4, .queuePushAccept 256 0, .queuePushAccept 0 8,
    .galleyRefill 256 0, .galleyRefill 0 8, .elemAdd 0 0 4 1 false false, .elemSub 0 0 4 1 false false, .elemMul 0 0 4 1 false false,
    .fma 0 0 0 4 1 false false, .elemMin 0 0 4 1 false, .elemMax 0 0 4 1 false, .abs 0 4 1 false, .neg 0 4 1 false,
    .elemShl 0 0 4 1 false false] :
    List Instr).all (fun i => !i.wf) = true := by decide

theorem test_ill_formed_refused_2 : ([.elemShr 0 0 4 1 false, .elemSra 0 0 4 1 false, .elemAnd 0 0 4 1 false, .elemOr 0 0 4 1 false, .elemXor 0 0 4 1 false,
    .not 0 4 1 false, .cmp 0 0 0 0 6 false, .cmp 0 0 4 1 0 false, .sel 0 0 0 4 1 false, .mov 0 4 1 false, .const 4 1 0 false 0,
    .exp2 0 4 1 false, .log2 0 4 1 false, .rcp 0 4 1 false, .rsq 0 4 1 false, .sqrt 0 4 1 false, .pack 0 0 4 1 false,
    .unpack 0 0 4 1 false, .lane 0 4 1 0 false, .bcast 0 4 1 false, .ctxalloc 0 4 1 false, .ctxfree 0 4 1 false, .itin 0 4 1 false,
    .itnext 0 4 1 false, .itout 0 4 1 false, .loUpdateArrival 256 0 0 0, .loUpdateArrival 0 16 0 0, .loUpdateArrival 0 0 4 0,
    .tcall 0 0 4 1 false, .tret 0 0 4 1 false, .steer 0 0 4 1 false, .merge 0 0 4 1 false, .omerge 0 0 4 1 false,
    .gate 0 0 4 1 false, .acc 0 0 4 1 false, .scan 0 0 4 1 false, .rowms 0 0 0 4 1 false, .rowfin 0 0 4 1 false,
    .rowscl 0 0 0 4 1 false, .ldt 0 4 1 0 false] :
    List Instr).all (fun i => !i.wf) = true := by decide

theorem test_ill_formed_refused_3 : ([.ldx 0 0 4 1 0 false, .amox 0 0 0 4 1 .add false, .tmove 0 4 1 false, .bndry 0 4 1 .tile false, .cvt 0 4 1 false 0 false,
    .cvtq 0 0 0 3 false, .cvtq 0 4 1 4 false, .cvts 0 4 1 false 0 false, .mm 0 0 4 1 false, .accrd 0 4 1 false false,
    .mmInterrupt badNode, .mmResume badNode, .fprobe 0 0 0 4 1 false, .fdrain 0 4 1 false, .fcnt 4 1 false,
    .matchingStoreAdmit badNode 0 0 0, .matchingStoreAdmit el 4 0 0, .matchingStoreAdmit el 0 4 0, .firingStart badNode, .kick 96 0,
    .launchSlotReread 96, .wakeMapped 96 0, .wakeInvalid 96 0, .superGrant 96 0 0, .superEnd 96 0 0, .tlbinvVa 96 0, .tlbinvAll 96,
    .tlbinvDone 96, .lrbaseWrite 96 0, .crbaseWrite 96 0, .erbaseWrite 96 0, .statusRead 96, .registerWrite 97 0 0,
    .tenantRecordWrite 0 0, .tenantRecordWrite 127 0, .windowEntryWrite 64 0 0, .windowEntryWrite 0 4 0, .filterEntryWrite 256 0,
    .bulkheadAssign 64 0, .pllRelockDone 64] :
    List Instr).all (fun i => !i.wf) = true := by decide

theorem test_ill_formed_refused_4 : ([.bulkheadRelease 64, .bulkheadReleaseDone 64, .bulkheadReset 64 false, .resetLineRelease 64, .zeroisationDone 64 false,
    .timeSliceExpiry 64, .bulkheadSwitch 64, .hostRead 97 0 0 0 ⟨false, 0, false⟩, .hostWrite 97 0 0 [] ⟨false, 0, false⟩,
    .hostAtomic 97 0 0 0 .swap 0 0 ⟨false, 0, false⟩, .vfFlr 96, .bulkheadBringup 64, .sensorSample 64 [] [], .spdmGetMeasurements 96 0,
    .phasePlace 4, .tileConfigComplete 0 256 0, .tileConfigComplete 0 0 16, .completionRecordPost 96, .eventRecordPost 96,
    .backfillLimit 4, .workAllowanceDraw 256 0, .workAllowanceDraw 0 4, .allowanceWindow 256, .nodeSave 0 badNode,
    .thawArrival 0 256, .parkComplete 64, .restoreComplete 64, .tdispRequest 96 .lock, .spanFlitError 16 ⟨0, 0⟩, .memoryTrained (.stack 12),
    .hostRead 0 0 0 0 ⟨false, 2, false⟩, .capScaleTick [359], .capScaleTick [461]] :
    List Instr).all (fun i => !i.wf) = true := by decide

/-- The same constructors, well formed. -/
theorem test_well_formed_1 : ([.ld 0 0 0 .d .plain .tile, .st 0 0 0 .d .plain .tile, .amo 0 0 0 0 .d .plain .tile .add, .cas 0 0 0 0 .d .plain .tile, .dset 0 0,
    .strin 0 0 0, .strout 0 0 0, .scancel 0, .amsg 0 1, .qpush 0 0 0, .qpop 0 0, .qcnt 0 0, .qctl 0 0 0, .qbind 0 0,
    .waitingInstructionRetire 0 0, .handlerInvocation 0 0, .queuePushAccept 0 0, .galleyRefill 0 0, .elemAdd 0 0 0 0 false false,
    .elemSub 0 0 0 0 false false, .elemMul 0 0 0 0 false false, .fma 0 0 0 0 0 false false, .elemMin 0 0 0 0 false,
    .elemMax 0 0 0 0 false, .abs 0 0 0 false, .neg 0 0 0 false, .elemShl 0 0 0 0 false false, .elemShr 0 0 0 0 false,
    .elemSra 0 0 0 0 false, .elemAnd 0 0 0 0 false, .elemOr 0 0 0 0 false, .elemXor 0 0 0 0 false, .not 0 0 0 false,
    .cmp 0 0 0 0 0 false, .sel 0 0 0 0 0 false, .mov 0 0 0 false, .const 0 0 0 false 0, .exp2 0 0 0 false, .log2 0 0 0 false,
    .rcp 0 0 0 false, .rsq 0 0 0 false, .sqrt 0 0 0 false, .pack 0 0 0 0 false, .unpack 0 0 0 0 false, .lane 0 0 0 0 false,
    .bcast 0 0 0 false, .ctxalloc 0 0 0 false, .ctxfree 0 0 0 false, .itin 0 0 0 false, .itnext 0 0 0 false, .itout 0 0 0 false,
    .loUpdateArrival 0 0 0 0, .tcall 0 0 0 0 false, .tret 0 0 0 0 false, .steer 0 0 0 0 false, .merge 0 0 0 0 false,
    .omerge 0 0 0 0 false, .gate 0 0 0 0 false, .acc 0 0 0 0 false, .scan 0 0 0 0 false] :
    List Instr).all Instr.wf = true := by decide

/-- The same constructors, well formed. -/
theorem test_well_formed_2 : ([.rowms 0 0 0 0 0 false, .rowfin 0 0 0 0 false, .rowscl 0 0 0 0 0 false, .ldt 0 0 0 0 false, .ldx 0 0 0 0 0 false,
    .amox 0 0 0 0 0 .add false, .tmove 0 0 0 false, .bndry 0 0 0 .tile false, .cvt 0 0 0 false 0 false, .cvtq 0 0 0 4 false,
    .cvts 0 0 0 false 0 false, .mm 0 0 0 0 false, .accrd 0 0 0 false false, .mmInterrupt el, .mmResume el, .fprobe 0 0 0 0 0 false,
    .fdrain 0 0 0 false, .fcnt 0 0 false, .matchingStoreAdmit el 0 0 0, .firingStart el, .kick 0 0, .launchSlotReread 0,
    .wakeMapped 0 0, .wakeInvalid 0 0, .superGrant 0 0 0, .superEnd 0 0 0, .tlbinvVa 0 0, .tlbinvAll 0, .tlbinvDone 0,
    .lrbaseWrite 0 0, .crbaseWrite 0 0, .erbaseWrite 0 0, .statusRead 0, .registerWrite 0 0 0, .tenantRecordWrite 1 0,
    .windowEntryWrite 0 0 0, .filterEntryWrite 0 0, .bulkheadAssign 0 0, .pllRelockDone 0, .bulkheadRelease 0,
    .bulkheadReleaseDone 0, .bulkheadReset 0 false, .resetLineRelease 0, .zeroisationDone 0 false, .timeSliceExpiry 0,
    .bulkheadSwitch 0, .hostRead 0 0 0 0 ⟨false, 0, false⟩, .hostWrite 0 0 0 [] ⟨false, 0, false⟩, .hostAtomic 0 0 0 0 .swap 0 0 ⟨false, 0, false⟩, .vfFlr 0,
    .bulkheadBringup 0, .sensorSample 0 [] [], .spdmGetMeasurements 0 0, .phasePlace 0, .tileConfigComplete 0 0 0,
    .completionRecordPost 0, .eventRecordPost 0, .backfillLimit 0, .workAllowanceDraw 0 0, .allowanceWindow 0] :
    List Instr).all Instr.wf = true := by decide

/-- The same constructors, well formed. -/
theorem test_well_formed_3 : ([.nodeSave 0 el, .thawArrival 0 0, .parkComplete 0, .restoreComplete 0, .tdispRequest 0 .lock, .spanFlitError 0 ⟨0, 0⟩,
    .memoryTrained (.stack 11), .capScaleTick [360, 460]] :
    List Instr).all Instr.wf = true := by decide

/-! ### Values the spec works out, and words it refuses -/

/-- 70,000.0 of FP32 as FP16: infinity, or the largest finite under .sat (R147). -/
theorem test_cvt_overflow : convertLane 1 3 false 0x4788B800 = 0x7C00 ∧ convertLane 1 3 true 0x4788B800 = 0x7BFF := by decide +kernel

/-- The sequencer refuses a word. -/
def refused (w : Nat) : Bool := match decodeSeq (bytesOfWord w ++ bytesOfWord 0) with
  | .ok _ => false
  | .error _ => true

/-- Words of unassigned majors, functions and groups, and words with a reserved field that is not zero (R58–R66). -/
theorem test_decode_refuses : [0x00000000, 0x2C000000, 0x70000000, 0x94000000, 0xF0000000, 0x04642817, 0xFC000006, 0xE8000006].all refused = true ∧
    refused 0x04642800 = false := by decide +kernel

end Sys2Proof.Tests
end

section
/-! PROOF. Every step keeps the canonical form of memory (O5): `exec` by a split over the instructions, then the turn of each unit, then
the step. -/

namespace Sys2Proof.Machine

/-! ### Outcomes -/

/-- What is done to a next state keeps the outcome canonical if it keeps memory canonical. -/
theorem Canonical.onNext {o : Host.Outcome State Fault Refusal} {f : State → State} (ho : Canonical o)
    (hf : ∀ s, s.mem.wf = true → (f s).mem.wf = true) : Canonical (Machine.onNext o f) := by
  cases o with
  | next s => exact canonical_next (hf s (ho s rfl))
  | fault e => exact canonical_fault e
  | refused r => exact canonical_refused r

/-- What follows every turn keeps an outcome canonical. -/
theorem Canonical.afterTurn {o : Host.Outcome State Fault Refusal} (old : State) (ho : Canonical o) : Canonical (old.afterTurn o) := by
  cases o with
  | next s => exact canonical_next (State.settle_wf old s (ho s rfl))
  | fault e => exact canonical_fault e
  | refused r => exact canonical_refused r

/-! ### The meaning of an instruction -/

/-- Each arm of `exec` is a call of a meaning, and each meaning keeps memory canonical. -/
theorem exec_canonical (i : Instr) (s : State) (h : s.mem.wf = true) : Canonical (exec i s) := by
  cases i with
  -- the register ALU, major 0x01 (R60, R86)
  | add d a b => exact execAdd_canonical d a b s h
  | sub d a b => exact execSub_canonical d a b s h
  | and d a b => exact execAnd_canonical d a b s h
  | or d a b => exact execOr_canonical d a b s h
  | xor d a b => exact execXor_canonical d a b s h
  | shl d a b => exact execShl_canonical d a b s h
  | shr d a b => exact execShr_canonical d a b s h
  | sra d a b => exact execSra_canonical d a b s h
  | mul d a b => exact execMul_canonical d a b s h
  | mulh d a b => exact execMulh_canonical d a b s h
  | mulhu d a b => exact execMulhu_canonical d a b s h
  | div d a b => exact execDiv_canonical d a b s h
  | divu d a b => exact execDivu_canonical d a b s h
  | rem d a b => exact execRem_canonical d a b s h
  | remu d a b => exact execRemu_canonical d a b s h
  | min d a b => exact execMin_canonical d a b s h
  | max d a b => exact execMax_canonical d a b s h
  | minu d a b => exact execMinu_canonical d a b s h
  | maxu d a b => exact execMaxu_canonical d a b s h
  | slt d a b => exact execSlt_canonical d a b s h
  | sltu d a b => exact execSltu_canonical d a b s h
  | clz d a => exact execClz_canonical d a s h
  | popc d a => exact execPopc_canonical d a s h
  -- immediates (R58, R87)
  | addi d a imm => exact execAddi_canonical d a imm s h
  | andi d a imm => exact execAndi_canonical d a imm s h
  | ori d a imm => exact execOri_canonical d a imm s h
  | xori d a imm => exact execXori_canonical d a imm s h
  | slti d a imm => exact execSlti_canonical d a imm s h
  | shli d a sh => exact execShli_canonical d a sh s h
  | shri d a sh => exact execShri_canonical d a sh s h
  | srai d a sh => exact execSrai_canonical d a sh s h
  | lui d imm => exact execLui_canonical d imm s h
  -- branches, jumps, calls (R88, R89)
  | beq a b o => exact execBeq_canonical a b o s h
  | bne a b o => exact execBne_canonical a b o s h
  | blt a b o => exact execBlt_canonical a b o s h
  | bge a b o => exact execBge_canonical a b o s h
  | bltu a b o => exact execBltu_canonical a b o s h
  | bgeu a b o => exact execBgeu_canonical a b o s h
  | jmp o => exact execJmp_canonical o s h
  | jr a => exact execJr_canonical a s h
  | call o => exact execCall_canonical o s h
  | callr a => exact execCallr_canonical a s h
  | loop a o => exact execLoop_canonical a o s h
  -- memory pairs (R62, R91) and the fence (R94)
  | ld d a off wd ord sc => exact execLd_canonical d a off wd ord sc s h
  | st d a off wd ord sc => exact execSt_canonical d a off wd ord sc s h
  | amo d a b off wd ord sc fn => exact execAmo_canonical d a b off wd ord sc fn s h
  | cas d a b off wd ord sc => exact execCas_canonical d a b off wd ord sc s h
  | fence sc => exact execFence_canonical sc s h
  -- streams (R64, R96–R102)
  | dset n a => exact execDset_canonical n a s h
  | strin k n x => exact execStrin_canonical k n x s h
  | strout k n x => exact execStrout_canonical k n x s h
  | bsel a => exact execBsel_canonical a s h
  | scancel x => exact execScancel_canonical x s h
  -- engine messages (R103, R104)
  | amsg a f => exact execAmsg_canonical a f s h
  | await d a => exact execAwait_canonical d a s h
  | apoll d a => exact execApoll_canonical d a s h
  -- queues (R105–R109)
  | qpush k a b => exact execQpush_canonical k a b s h
  | qpop d k => exact execQpop_canonical d k s h
  | qcnt d k => exact execQcnt_canonical d k s h
  | qctl k a b => exact execQctl_canonical k a b s h
  | qbind k o => exact execQbind_canonical k o s h
  | xq d a b => exact execXq_canonical d a b s h
  -- forme control (R110, R111)
  | fload d a => exact execFload_canonical d a s h
  | fplace d a b => exact execFplace_canonical d a b s h
  | frun a => exact execFrun_canonical a s h
  | flay d a => exact execFlay_canonical d a s h
  -- barriers and events (R112)
  | bar a => exact execBar_canonical a s h
  | evsig a b => exact execEvsig_canonical a b s h
  | evwait d a => exact execEvwait_canonical d a s h
  -- control registers and system (R113, R114)
  | csrr d c => exact execCsrr_canonical d c s h
  | csrw a c => exact execCsrw_canonical a c s h
  | trap c => exact execTrap_canonical c s h
  -- sequencer events
  | waitingInstructionRetire sheet ctx => exact execWaitingInstructionRetire_canonical sheet ctx s h
  | handlerInvocation sheet ctx => exact execHandlerInvocation_canonical sheet ctx s h
  | queuePushAccept sheet q => exact execQueuePushAccept_canonical sheet q s h
  | galleyRefill sheet q => exact execGalleyRefill_canonical sheet q s h
  -- element op words (R67–R69, R124–R140)
  | elemAdd a b d n sat e => exact execElemAdd_canonical a b d n sat e s h
  | elemSub a b d n sat e => exact execElemSub_canonical a b d n sat e s h
  | elemMul a b d n sat e => exact execElemMul_canonical a b d n sat e s h
  | fma a b c d n sat e => exact execFma_canonical a b c d n sat e s h
  | elemMin a b d n e => exact execElemMin_canonical a b d n e s h
  | elemMax a b d n e => exact execElemMax_canonical a b d n e s h
  | abs a d n e => exact execAbs_canonical a d n e s h
  | neg a d n e => exact execNeg_canonical a d n e s h
  | elemShl a b d n sat e => exact execElemShl_canonical a b d n sat e s h
  | elemShr a b d n e => exact execElemShr_canonical a b d n e s h
  | elemSra a b d n e => exact execElemSra_canonical a b d n e s h
  | elemAnd a b d n e => exact execElemAnd_canonical a b d n e s h
  | elemOr a b d n e => exact execElemOr_canonical a b d n e s h
  | elemXor a b d n e => exact execElemXor_canonical a b d n e s h
  | not a d n e => exact execNot_canonical a d n e s h
  | cmp a b d n cc e => exact execCmp_canonical a b d n cc e s h
  | sel a b c d n e => exact execSel_canonical a b c d n e s h
  | mov a d n e => exact execMov_canonical a d n e s h
  | const d n tag e imm => exact execConst_canonical d n tag e imm s h
  | exp2 a d n e => exact execExp2_canonical a d n e s h
  | log2 a d n e => exact execLog2_canonical a d n e s h
  | rcp a d n e => exact execRcp_canonical a d n e s h
  | rsq a d n e => exact execRsq_canonical a d n e s h
  | sqrt a d n e => exact execSqrt_canonical a d n e s h
  | pack a b d n e => exact execPack_canonical a b d n e s h
  | unpack a b d n e => exact execUnpack_canonical a b d n e s h
  | lane a d n l e => exact execLane_canonical a d n l e s h
  | bcast a d n e => exact execBcast_canonical a d n e s h
  | ctxalloc a d n e => exact execCtxalloc_canonical a d n e s h
  | ctxfree a d n e => exact execCtxfree_canonical a d n e s h
  | colourWidthChange inst colour => exact execColourWidthChange_canonical inst colour s h
  | itin a d n e => exact execItin_canonical a d n e s h
  | itnext a d n e => exact execItnext_canonical a d n e s h
  | itout a d n e => exact execItout_canonical a d n e s h
  | loUpdateArrival sheet tile ctx colour => exact execLoUpdateArrival_canonical sheet tile ctx colour s h
  | tcall a b d n e => exact execTcall_canonical a b d n e s h
  | tret a b d n e => exact execTret_canonical a b d n e s h
  | setslot a b d e => exact execSetslot_canonical a b d e s h
  | steer a b d n e => exact execSteer_canonical a b d n e s h
  | merge a b d n e => exact execMerge_canonical a b d n e s h
  | omerge a b d n e => exact execOmerge_canonical a b d n e s h
  | gate a b d n e => exact execGate_canonical a b d n e s h
  | fan a n e => exact execFan_canonical a n e s h
  | sink a e => exact execSink_canonical a e s h
  | acc a b d n e => exact execAcc_canonical a b d n e s h
  | scan a b d n e => exact execScan_canonical a b d n e s h
  | delay a b e => exact execDelay_canonical a b e s h
  | rowms a b c d n e => exact execRowms_canonical a b c d n e s h
  | rowfin a b d n e => exact execRowfin_canonical a b d n e s h
  | rowscl a b c d n e => exact execRowscl_canonical a b c d n e s h
  -- address generator (R141–R145)
  | ldt a d n tag e => exact execLdt_canonical a d n tag e s h
  | stt a b e => exact execStt_canonical a b e s h
  | ldx a b d n tag e => exact execLdx_canonical a b d n tag e s h
  | stx a b c e => exact execStx_canonical a b c e s h
  | amox a b c d n fn e => exact execAmox_canonical a b c d n fn e s h
  | tmove a d n e => exact execTmove_canonical a d n e s h
  | bndry a d n sc e => exact execBndry_canonical a d n sc e s h
  -- converter (R147–R149)
  | cvt a d n sat tag e => exact execCvt_canonical a d n sat tag e s h
  | cvtq a d n target e => exact execCvtq_canonical a d n target e s h
  | cvts a d n sat tag e => exact execCvts_canonical a d n sat tag e s h
  -- plane array (R155–R163)
  | wsload a e => exact execWsload_canonical a e s h
  | mm a b d n e => exact execMm_canonical a b d n e s h
  | accrd a d n sat e => exact execAccrd_canonical a d n sat e s h
  | acczero a e => exact execAcczero_canonical a e s h
  | mmInterrupt n => exact execMmInterrupt_canonical n s h
  | mmResume n => exact execMmResume_canonical n s h
  -- front element (R164–R171)
  | fcfg a e => exact execFcfg_canonical a e s h
  | fins a b c e => exact execFins_canonical a b c e s h
  | fprobe a b c d n e => exact execFprobe_canonical a b c d n e s h
  | fmrg a e => exact execFmrg_canonical a e s h
  | fdrain a d n e => exact execFdrain_canonical a d n e s h
  | fcnt d n e => exact execFcnt_canonical d n e s h
  | fclr e => exact execFclr_canonical e s h
  -- fabric events
  | tokenArrival inst edge => exact execTokenArrival_canonical inst edge s h
  | matchingStoreAdmit n ctx port place => exact execMatchingStoreAdmit_canonical n ctx port place s h
  | firingStart n => exact execFiringStart_canonical n s h
  | streamPoint stream => exact execStreamPoint_canonical stream s h
  | wakeTokenArrival tag => exact execWakeTokenArrival_canonical tag s h
  -- engine operations (R176–R180): the operation, and how many of its units move now
  | ceCopy op units => exact execCeCopy_canonical op units s h
  | ceCopyc op units => exact execCeCopyc_canonical op units s h
  | ceFill op units => exact execCeFill_canonical op units s h
  | cePlane op units => exact execCePlane_canonical op units s h
  | ceGather op units => exact execCeGather_canonical op units s h
  | ceScatter op units => exact execCeScatter_canonical op units s h
  | coCompose op units => exact execCoCompose_canonical op units s h
  | lePut op units answer => exact execLePut_canonical op units answer s h
  | leGet op data answer => exact execLeGet_canonical op data answer s h
  | leLamo op old answer => exact execLeLamo_canonical op old answer s h
  | leLsig op answer => exact execLeLsig_canonical op answer s h
  | engineCompletion op => exact execEngineCompletion_canonical op s h
  | spanRequestArrival r => exact execSpanRequestArrival_canonical r s h
  | spanFlitError port f => exact execSpanFlitError_canonical port f s h
  | spanVcEscape packet => exact execSpanVcEscape_canonical packet s h
  -- host and drover registers (R335–R342)
  | kick vf v => exact execKick_canonical vf v s h
  | launchSlotReread vf => exact execLaunchSlotReread_canonical vf s h
  | wakeMapped vf tag => exact execWakeMapped_canonical vf tag s h
  | wakeInvalid vf tag => exact execWakeInvalid_canonical vf tag s h
  | superGrant vf stamp units => exact execSuperGrant_canonical vf stamp units s h
  | superEnd vf stamp units => exact execSuperEnd_canonical vf stamp units s h
  | tlbinvVa vf v => exact execTlbinvVa_canonical vf v s h
  | tlbinvAll vf => exact execTlbinvAll_canonical vf s h
  | tlbinvDone vf => exact execTlbinvDone_canonical vf s h
  | lrbaseWrite vf v => exact execLrbaseWrite_canonical vf v s h
  | crbaseWrite vf v => exact execCrbaseWrite_canonical vf v s h
  | erbaseWrite vf v => exact execErbaseWrite_canonical vf v s h
  | statusRead vf => exact execStatusRead_canonical vf s h
  | registerWrite fn off v => exact execRegisterWrite_canonical fn off v s h
  | tenantRecordWrite tag v => exact execTenantRecordWrite_canonical tag v s h
  | windowEntryWrite bank entry v => exact execWindowEntryWrite_canonical bank entry v s h
  | filterEntryWrite entry v => exact execFilterEntryWrite_canonical entry v s h
  | frameTableWrite frame v => exact execFrameTableWrite_canonical frame v s h
  -- bulkheads (R276–R289, R294)
  | bulkheadAssign bh tag => exact execBulkheadAssign_canonical bh tag s h
  | pllRelockDone bh => exact execPllRelockDone_canonical bh s h
  | bulkheadRelease bh => exact execBulkheadRelease_canonical bh s h
  | bulkheadReleaseDone bh => exact execBulkheadReleaseDone_canonical bh s h
  | bulkheadReset bh release => exact execBulkheadReset_canonical bh release s h
  | resetLineRelease bh => exact execResetLineRelease_canonical bh s h
  | zeroisationDone bh readBackFails => exact execZeroisationDone_canonical bh readBackFails s h
  | timeSliceExpiry bh => exact execTimeSliceExpiry_canonical bh s h
  | bulkheadSwitch bh => exact execBulkheadSwitch_canonical bh s h
  -- host accesses (R332–R334)
  | hostRead fn bar off size path => exact execHostRead_canonical fn bar off size path s h
  | hostWrite fn bar off data path => exact execHostWrite_canonical fn bar off data path s h
  | hostAtomic fn bar off size op operand compare path => exact execHostAtomic_canonical fn bar off size op operand compare path s h
  | vfFlr vf => exact execVfFlr_canonical vf s h
  | hostLinkRetrain link up => exact execHostLinkRetrain_canonical link up s h
  -- bring-up and far memory (R346, R351)
  | powerGood images => exact execPowerGood_canonical images s h
  | memoryTrained u => exact execMemoryTrained_canonical u s h
  | bulkheadBringup bh => exact execBulkheadBringup_canonical bh s h
  | cxlFrameResident frame => exact execCxlFrameResident_canonical frame s h
  | cxlFrameLost firstFrame frames lasting => exact execCxlFrameLost_canonical firstFrame frames lasting s h
  -- power (R352, R353)
  | capMessage m => exact execCapMessage_canonical m s h
  | capScaleTick millivolts => exact execCapScaleTick_canonical millivolts s h
  | sensorSample bh temps currents => exact execSensorSample_canonical bh temps currents s h
  -- management (R298, R354)
  | spdmGetMeasurements vf index => exact execSpdmGetMeasurements_canonical vf index s h
  | pldmSensorRead sensor => exact execPldmSensorRead_canonical sensor s h
  | pldmFirmwareUpdate image => exact execPldmFirmwareUpdate_canonical image s h
  -- scheduling (R19, R236–R243, R263–R269)
  | rankRefresh inst => exact execRankRefresh_canonical inst s h
  | phasePlace die => exact execPhasePlace_canonical die s h
  | tileConfigComplete inst sheet tile => exact execTileConfigComplete_canonical inst sheet tile s h
  | phaseEnd inst => exact execPhaseEnd_canonical inst s h
  | completionRecordPost vf => exact execCompletionRecordPost_canonical vf s h
  | eventRecordPost vf => exact execEventRecordPost_canonical vf s h
  | backfillLimit die => exact execBackfillLimit_canonical die s h
  | quantumExhausted slice => exact execQuantumExhausted_canonical slice s h
  | workAllowanceDraw sheet ctx => exact execWorkAllowanceDraw_canonical sheet ctx s h
  | budgetReport inst => exact execBudgetReport_canonical inst s h
  | energyRefresh inst => exact execEnergyRefresh_canonical inst s h
  | allowanceWindow sheet => exact execAllowanceWindow_canonical sheet s h
  | rateWindowEnd inst => exact execRateWindowEnd_canonical inst s h
  | slugTaken inst change => exact execSlugTaken_canonical inst change s h
  | watchdogExpiry inst => exact execWatchdogExpiry_canonical inst s h
  -- recovery (R305–R328)
  | cutTimer inst => exact execCutTimer_canonical inst s h
  | nodeSave inst n => exact execNodeSave_canonical inst n s h
  | cutComplete inst failingLine => exact execCutComplete_canonical inst failingLine s h
  | tokenParityError inst site => exact execTokenParityError_canonical inst site s h
  | nodeMachineCheck site => exact execNodeMachineCheck_canonical site s h
  | rollbackRestoreDone inst areaFails => exact execRollbackRestoreDone_canonical inst areaFails s h
  | reportDelivery inst => exact execReportDelivery_canonical inst s h
  | thawArrival inst sheet => exact execThawArrival_canonical inst sheet s h
  | scrubLine addr find => exact execScrubLine_canonical addr find s h
  | illegalInstruction w => exact execIllegalInstruction_canonical w s h
  | sharedUnitFault u again => exact execSharedUnitFault_canonical u again s h
  | parkComplete bh => exact execParkComplete_canonical bh s h
  | restoreComplete bh => exact execRestoreComplete_canonical bh s h
  | tdispRequest vf m => exact execTdispRequest_canonical vf m s h
  -- rows without operands
  | ret => exact execRet_canonical s h
  | stbar => exact execStbar_canonical s h
  | fhalt => exact execFhalt_canonical s h
  | bell => exact execBell_canonical s h
  | eret => exact execEret_canonical s h
  | wfi => exact execWfi_canonical s h
  | yield => exact execYield_canonical s h
  | brk => exact execBrk_canonical s h
  | nop => exact execNop_canonical s h
  | pferrRead => exact execPferrRead_canonical s h
  | perstDeassert => exact execPerstDeassert_canonical s h
  | capHorizonExpiry => exact execCapHorizonExpiry_canonical s h
  | pldmBaseDiscovery => exact execPldmBaseDiscovery_canonical s h
  | instructionFetchFault => exact execInstructionFetchFault_canonical s h
  | configurationRequest => exact execConfigurationRequest_canonical s h

/-! ### The turns of the units -/

/-- An instruction of the acting thread: the trap on a stray tag leaves memory alone, and so do the counts and the end of the instruction. -/
theorem State.runInstr_canonical (s : State) (i : Instr) (h : s.mem.wf = true) : Canonical (s.runInstr i) := by
  unfold State.runInstr
  split
  · exact canonical_next (by simpa using h)
  · exact (exec_canonical i s h).onNext fun t ht => by simpa using ht

/-- An op word of a firing, as an instruction of a thread. -/
theorem State.runOpWord_canonical (s : State) (n : NodeId) (f : Firing) (i : Instr) (h : s.mem.wf = true) :
    Canonical (s.runOpWord n f i) := by
  unfold State.runOpWord
  split
  · exact canonical_next (by simpa using h)
  · exact (exec_canonical i s h).onNext fun t ht => by simpa using ht

/-- A node without a firing runs the meaning of one of two events, or reports a stray tag. -/
theorem State.startNext_canonical (s : State) (n : NodeId) (h : s.mem.wf = true) : Canonical (s.startNext n) := by
  unfold State.startNext
  split
  · exact canonical_next (by simpa using h)
  · split <;> exact exec_canonical _ s h

/-- An event is lost, waits behind a host write, meets a stray tag, or runs its meaning. -/
theorem State.runEvent_canonical (s : State) (i : Instr) (h : s.mem.wf = true) : Canonical (s.runEvent i) := by
  unfold State.runEvent
  split
  · exact canonical_next h
  · split
    · exact canonical_next (State.host_wf s _ h)
    · exact canonical_next (by simpa using h)
    · exact (exec_canonical i s h).onNext fun t ht => by simpa using ht

/-- The sequencer of a sheet finds no thread, invokes a handler, delivers a report, or runs the thread's next instruction. -/
theorem State.issue_canonical (s : State) (sheet : Nat) (h : s.mem.wf = true) : Canonical (s.issue sheet) := by
  unfold State.issue
  split
  · exact canonical_next h
  · split
    · exact exec_canonical _ s h
    · split
      · exact exec_canonical _ s h
      · exact State.runInstr_canonical _ _ (by simpa using h)

/-- A node that works does so in a state `v` whose memory is that of `s`: only the acting node and the wait of a firing differ. -/
theorem State.runNode_canonical (s : State) (n : NodeId) (h : s.mem.wf = true) : Canonical (s.runNode n) := by
  unfold State.runNode
  extract_lets u
  have hu : u.mem.wf = true := h
  split
  · exact canonical_next hu
  · split
    · exact State.startNext_canonical u n hu
    · split
      · exact canonical_next hu
      · extract_lets v
        have hv : v.mem.wf = true := by
          unfold v
          split <;> exact hu
        split
        · exact canonical_next hv
        · split
          · exact exec_canonical _ v hv
          · split
            · exact State.runOpWord_canonical v n _ _ hv
            · exact canonical_next (by simpa using hv)

/-- A turn is that of one unit, a transit or the passing of time; one of a unit that does not exist has no next state. -/
theorem State.take_canonical (s : State) (t : Turn) (h : s.mem.wf = true) : Canonical (s.take t) := by
  unfold State.take
  split
  · cases t with
    | issue sheet => exact State.issue_canonical s sheet h
    | node n => exact State.runNode_canonical s n h
    | event i => exact State.runEvent_canonical s i h
    | transit n ctx k => exact canonical_next (by simpa using h)
    | time ns cycles => exact canonical_next (by simpa using h)
  · exact canonical_fault _

/-! ### The step -/

/-- With an empty agenda the idle turn is taken, else the first turn of the agenda, which is dropped from it. -/
theorem step_canonical (s : State) (h : s.mem.wf = true) : Canonical (step s) := by
  unfold step
  split
  · exact (State.take_canonical s _ h).afterTurn s
  · extract_lets u
    exact (State.take_canonical u _ h).afterTurn u

/-- Settles O5: the turn of each unit comes to `exec` or to operations that keep memory canonical, and what follows a turn does too. -/
theorem stepKeepsMemoryCanonical : Obligations.StepKeepsMemoryCanonical := by
  unfold Obligations.StepKeepsMemoryCanonical
  intro s t hs ht
  exact step_canonical s hs t ht

end Sys2Proof.Machine
end

section
/-! PROOF. The encodings (O1, O2). -/

namespace Sys2Proof

/-! ### Decoding of what was encoded -/

/-- The instructions that have words, class by class; an event has no class, so nothing is said of it. -/
theorem decodeAs_encodeBytes (i : Instr) : Laws.Encoding.Statement i := by
  cases i with
  -- sequencer instructions (R58–R65)
  | add d a b => exact Laws.Encoding.add d a b
  | sub d a b => exact Laws.Encoding.sub d a b
  | and d a b => exact Laws.Encoding.and d a b
  | or d a b => exact Laws.Encoding.or d a b
  | xor d a b => exact Laws.Encoding.xor d a b
  | shl d a b => exact Laws.Encoding.shl d a b
  | shr d a b => exact Laws.Encoding.shr d a b
  | sra d a b => exact Laws.Encoding.sra d a b
  | mul d a b => exact Laws.Encoding.mul d a b
  | mulh d a b => exact Laws.Encoding.mulh d a b
  | mulhu d a b => exact Laws.Encoding.mulhu d a b
  | div d a b => exact Laws.Encoding.div d a b
  | divu d a b => exact Laws.Encoding.divu d a b
  | rem d a b => exact Laws.Encoding.rem d a b
  | remu d a b => exact Laws.Encoding.remu d a b
  | min d a b => exact Laws.Encoding.min d a b
  | max d a b => exact Laws.Encoding.max d a b
  | minu d a b => exact Laws.Encoding.minu d a b
  | maxu d a b => exact Laws.Encoding.maxu d a b
  | slt d a b => exact Laws.Encoding.slt d a b
  | sltu d a b => exact Laws.Encoding.sltu d a b
  | clz d a => exact Laws.Encoding.clz d a
  | popc d a => exact Laws.Encoding.popc d a
  | addi d a imm => exact Laws.Encoding.addi d a imm
  | andi d a imm => exact Laws.Encoding.andi d a imm
  | ori d a imm => exact Laws.Encoding.ori d a imm
  | xori d a imm => exact Laws.Encoding.xori d a imm
  | slti d a imm => exact Laws.Encoding.slti d a imm
  | shli d a sh => exact Laws.Encoding.shli d a sh
  | shri d a sh => exact Laws.Encoding.shri d a sh
  | srai d a sh => exact Laws.Encoding.srai d a sh
  | lui d imm => exact Laws.Encoding.lui d imm
  | beq a b o => exact Laws.Encoding.beq a b o
  | bne a b o => exact Laws.Encoding.bne a b o
  | blt a b o => exact Laws.Encoding.blt a b o
  | bge a b o => exact Laws.Encoding.bge a b o
  | bltu a b o => exact Laws.Encoding.bltu a b o
  | bgeu a b o => exact Laws.Encoding.bgeu a b o
  | jmp o => exact Laws.Encoding.jmp o
  | jr a => exact Laws.Encoding.jr a
  | call o => exact Laws.Encoding.call o
  | callr a => exact Laws.Encoding.callr a
  | loop a o => exact Laws.Encoding.loop a o
  | ld d a off wd ord sc => exact Laws.Encoding.ld d a off wd ord sc
  | st d a off wd ord sc => exact Laws.Encoding.st d a off wd ord sc
  | amo d a b off wd ord sc fn => exact Laws.Encoding.amo d a b off wd ord sc fn
  | cas d a b off wd ord sc => exact Laws.Encoding.cas d a b off wd ord sc
  | fence sc => exact Laws.Encoding.fence sc
  | dset n a => exact Laws.Encoding.dset n a
  | strin k n x => exact Laws.Encoding.strin k n x
  | strout k n x => exact Laws.Encoding.strout k n x
  | bsel a => exact Laws.Encoding.bsel a
  | scancel x => exact Laws.Encoding.scancel x
  | amsg a f => exact Laws.Encoding.amsg a f
  | await d a => exact Laws.Encoding.await d a
  | apoll d a => exact Laws.Encoding.apoll d a
  | qpush k a b => exact Laws.Encoding.qpush k a b
  | qpop d k => exact Laws.Encoding.qpop d k
  | qcnt d k => exact Laws.Encoding.qcnt d k
  | qctl k a b => exact Laws.Encoding.qctl k a b
  | qbind k o => exact Laws.Encoding.qbind k o
  | xq d a b => exact Laws.Encoding.xq d a b
  | fload d a => exact Laws.Encoding.fload d a
  | fplace d a b => exact Laws.Encoding.fplace d a b
  | frun a => exact Laws.Encoding.frun a
  | flay d a => exact Laws.Encoding.flay d a
  | bar a => exact Laws.Encoding.bar a
  | evsig a b => exact Laws.Encoding.evsig a b
  | evwait d a => exact Laws.Encoding.evwait d a
  | csrr d c => exact Laws.Encoding.csrr d c
  | csrw a c => exact Laws.Encoding.csrw a c
  | trap c => exact Laws.Encoding.trap c
  | ret => exact Laws.Encoding.ret
  | stbar => exact Laws.Encoding.stbar
  | fhalt => exact Laws.Encoding.fhalt
  | bell => exact Laws.Encoding.bell
  | eret => exact Laws.Encoding.eret
  | wfi => exact Laws.Encoding.wfi
  | yield => exact Laws.Encoding.yield
  | brk => exact Laws.Encoding.brk
  | nop => exact Laws.Encoding.nop
  -- op words of an element (R67–R69)
  | elemAdd a b d n sat e => exact Laws.Encoding.elemAdd a b d n sat e
  | elemSub a b d n sat e => exact Laws.Encoding.elemSub a b d n sat e
  | elemMul a b d n sat e => exact Laws.Encoding.elemMul a b d n sat e
  | fma a b c d n sat e => exact Laws.Encoding.fma a b c d n sat e
  | elemMin a b d n e => exact Laws.Encoding.elemMin a b d n e
  | elemMax a b d n e => exact Laws.Encoding.elemMax a b d n e
  | abs a d n e => exact Laws.Encoding.abs a d n e
  | neg a d n e => exact Laws.Encoding.neg a d n e
  | elemShl a b d n sat e => exact Laws.Encoding.elemShl a b d n sat e
  | elemShr a b d n e => exact Laws.Encoding.elemShr a b d n e
  | elemSra a b d n e => exact Laws.Encoding.elemSra a b d n e
  | elemAnd a b d n e => exact Laws.Encoding.elemAnd a b d n e
  | elemOr a b d n e => exact Laws.Encoding.elemOr a b d n e
  | elemXor a b d n e => exact Laws.Encoding.elemXor a b d n e
  | not a d n e => exact Laws.Encoding.not a d n e
  | cmp a b d n cc e => exact Laws.Encoding.cmp a b d n cc e
  | sel a b c d n e => exact Laws.Encoding.sel a b c d n e
  | mov a d n e => exact Laws.Encoding.mov a d n e
  | const d n tag e imm => exact Laws.Encoding.const d n tag e imm
  | exp2 a d n e => exact Laws.Encoding.exp2 a d n e
  | log2 a d n e => exact Laws.Encoding.log2 a d n e
  | rcp a d n e => exact Laws.Encoding.rcp a d n e
  | rsq a d n e => exact Laws.Encoding.rsq a d n e
  | sqrt a d n e => exact Laws.Encoding.sqrt a d n e
  | pack a b d n e => exact Laws.Encoding.pack a b d n e
  | unpack a b d n e => exact Laws.Encoding.unpack a b d n e
  | lane a d n l e => exact Laws.Encoding.lane a d n l e
  | bcast a d n e => exact Laws.Encoding.bcast a d n e
  | ctxalloc a d n e => exact Laws.Encoding.ctxalloc a d n e
  | ctxfree a d n e => exact Laws.Encoding.ctxfree a d n e
  | itin a d n e => exact Laws.Encoding.itin a d n e
  | itnext a d n e => exact Laws.Encoding.itnext a d n e
  | itout a d n e => exact Laws.Encoding.itout a d n e
  | tcall a b d n e => exact Laws.Encoding.tcall a b d n e
  | tret a b d n e => exact Laws.Encoding.tret a b d n e
  | setslot a b d e => exact Laws.Encoding.setslot a b d e
  | steer a b d n e => exact Laws.Encoding.steer a b d n e
  | merge a b d n e => exact Laws.Encoding.merge a b d n e
  | omerge a b d n e => exact Laws.Encoding.omerge a b d n e
  | gate a b d n e => exact Laws.Encoding.gate a b d n e
  | fan a n e => exact Laws.Encoding.fan a n e
  | sink a e => exact Laws.Encoding.sink a e
  | acc a b d n e => exact Laws.Encoding.acc a b d n e
  | scan a b d n e => exact Laws.Encoding.scan a b d n e
  | delay a b e => exact Laws.Encoding.delay a b e
  | rowms a b c d n e => exact Laws.Encoding.rowms a b c d n e
  | rowfin a b d n e => exact Laws.Encoding.rowfin a b d n e
  | rowscl a b c d n e => exact Laws.Encoding.rowscl a b c d n e
  -- op words of an address generator
  | ldt a d n tag e => exact Laws.Encoding.ldt a d n tag e
  | stt a b e => exact Laws.Encoding.stt a b e
  | ldx a b d n tag e => exact Laws.Encoding.ldx a b d n tag e
  | stx a b c e => exact Laws.Encoding.stx a b c e
  | amox a b c d n fn e => exact Laws.Encoding.amox a b c d n fn e
  | tmove a d n e => exact Laws.Encoding.tmove a d n e
  | bndry a d n sc e => exact Laws.Encoding.bndry a d n sc e
  -- op words of a converter
  | cvt a d n sat tag e => exact Laws.Encoding.cvt a d n sat tag e
  | cvtq a d n target e => exact Laws.Encoding.cvtq a d n target e
  | cvts a d n sat tag e => exact Laws.Encoding.cvts a d n sat tag e
  -- op words of a plane array
  | wsload a e => exact Laws.Encoding.wsload a e
  | mm a b d n e => exact Laws.Encoding.mm a b d n e
  | accrd a d n sat e => exact Laws.Encoding.accrd a d n sat e
  | acczero a e => exact Laws.Encoding.acczero a e
  -- op words of a front element
  | fcfg a e => exact Laws.Encoding.fcfg a e
  | fins a b c e => exact Laws.Encoding.fins a b c e
  | fprobe a b c d n e => exact Laws.Encoding.fprobe a b c d n e
  | fmrg a e => exact Laws.Encoding.fmrg a e
  | fdrain a d n e => exact Laws.Encoding.fdrain a d n e
  | fcnt d n e => exact Laws.Encoding.fcnt d n e
  | fclr e => exact Laws.Encoding.fclr e
  -- an event has no class of words
  | _ => intro _ hc; cases hc

/-- Settles O2: a split over the instructions, each by the law of its encoding. -/
theorem decodeOfEncode : Obligations.DecodeOfEncode := by
  unfold Obligations.DecodeOfEncode
  intro i c rest hc hw
  exact decodeAs_encodeBytes i c hc hw rest

/-- Settles O1: each decoding is a closed computation. -/
theorem decodesSpecWords : Obligations.DecodesSpecWords := by
  unfold Obligations.DecodesSpecWords
  refine ⟨?_, ?_, ?_, ?_, ?_, ?_, ?_, ?_, ?_, rfl, rfl, rfl, rfl, rfl⟩ <;> decide

end Sys2Proof
end

section
/-! PROOF. Engine messages as the sequencer sends them and waits for them (O25, O26). -/

namespace Sys2Proof.Machine

/-! ### The completion object (R80, R104) -/

/-- The status of a completion word is PENDING when its top four bits are zero. -/
theorem status_pending_iff (w : Word) : w.extractLsb' 60 4 = 0#4 ↔ w.toNat / 2 ^ 60 = 0 := by
  rw [← BitVec.toNat_inj]
  simp only [BitVec.extractLsb'_toNat, Nat.shiftRight_eq_div_pow, BitVec.toNat_ofNat]
  have := w.isLt
  omega

theorem doAwait_misaligned {s : State} (d : Reg) {a : Reg} (h : (s.reg a).toNat % 8 ≠ 0) : doAwait d a s = s.trap kAlign 0 := by
  simp [doAwait, h]

theorem doApoll_misaligned {s : State} (d : Reg) {a : Reg} (h : (s.reg a).toNat % 8 ≠ 0) : doApoll d a s = s.trap kAlign 0 := by
  simp [doApoll, h]

section
variable {s t : State} {a : Reg} {loc : Nat} {po : BitVec 2}

theorem doApoll_read (d : Reg) (ha : (s.reg a).toNat % 8 = 0) (hi : s.cur.invalid ≠ some (s.reg a))
    (h : s.resolve s.threadAgent (s.reg a).toNat 8 .read = (t, .ok loc po)) :
    doApoll d a s = t.writeNext d (bytesWord (t.loadBytes t.curInstId loc 8)) := by
  rw [doApoll, if_neg (by simpa using ha), State.access_ok _ _ ha hi h]

theorem doAwait_read (d : Reg) (ha : (s.reg a).toNat % 8 = 0) (hi : s.cur.invalid ≠ some (s.reg a))
    (h : s.resolve s.threadAgent (s.reg a).toNat 8 .read = (t, .ok loc po)) :
    doAwait d a s = if (bytesWord (t.loadBytes t.curInstId loc 8)).extractLsb' 60 4 = 0#4 then t.waitFor (.await d a)
      else t.endWait.writeNext d (bytesWord (t.loadBytes t.curInstId loc 8)) := by
  rw [doAwait, if_neg (by simpa using ha), State.access_ok _ _ ha hi h]

end

/-- Settles O26: the access finds the object, and the status decides whether `await` writes it or waits. -/
theorem completionObject : Obligations.CompletionObject := by
  unfold Obligations.CompletionObject
  intro s t d a loc po
  refine ⟨fun h => ⟨congrArg Host.Outcome.next (doAwait_misaligned d h), congrArg Host.Outcome.next (doApoll_misaligned d h)⟩,
    fun ha hi h => ⟨congrArg Host.Outcome.next (doApoll_read d ha hi h), fun hw => ?_, fun hw => ?_⟩⟩
  · exact congrArg Host.Outcome.next ((doAwait_read d ha hi h).trans (if_neg (mt (status_pending_iff _).mp hw)))
  · exact congrArg Host.Outcome.next ((doAwait_read d ha hi h).trans (if_pos ((status_pending_iff _).mpr hw)))

/-! ### Sending a message (R77, R79, R103) -/

theorem msgClass_eq (h : Word) : msgClass h = h.toNat / 2 ^ 60 := by
  have := h.isLt
  unfold msgClass bitsOf
  omega

theorem msgOp_eq (h : Word) : msgOp h = h.toNat / 2 ^ 52 % 256 := rfl

theorem msgReply_eq (h : Word) : msgReply h = BitVec.ofNat 64 (h.toNat % 2 ^ 48) := by
  simp [msgReply, bitsOf]

/-- What is left of `amsg` once its flits are read: the checks of R79, the PENDING word and the fork. -/
def State.flitsRead (s : State) (a : Reg) (f : BitVec 11) (flits : List Word) : State :=
  let h := flits.getD 0 0
  if 3 ≤ msgClass h ∨ msgReply h = 0 then s.trap kIllegal 0
  else if (msgReply h).toNat % 8 ≠ 0 then s.trap kAlign 0
  else s.access (.amsg a f) (msgReply h) 8 .write fun s loc _ =>
    (s.storeBytes s.threadAgent loc (wordBytes 8 (completionWord 0 (msgClass h) (msgOp h) 0))).forkMessage f.toNat flits

theorem doAmsg_misaligned {s : State} {a : Reg} (f : BitVec 11) (h : (s.reg a).toNat % 8 ≠ 0) :
    doAmsg a f s = s.trap kAlign (s.reg a) := by
  simp [doAmsg, h]

theorem doAmsg_read {s t : State} {a : Reg} {f : BitVec 11} {bs : List Byte} (ha : (s.reg a).toNat % 8 = 0)
    (hr : ∀ go, s.readRecord (.amsg a f) (s.reg a) f.toNat [] go = go t bs) :
    doAmsg a f s = t.flitsRead a f (wordsOf bs f.toNat) := by
  rw [doAmsg, if_neg (by simpa using ha), hr]
  rfl

/-- The checks of the sequencer (R79) and of the access to the completion object, in their order. -/
theorem State.flitsRead_illegal {s : State} {flits : List Word} (a : Reg) (f : BitVec 11)
    (h : 3 ≤ msgClass (flits.getD 0 0) ∨ msgReply (flits.getD 0 0) = 0) : s.flitsRead a f flits = s.trap kIllegal 0 := if_pos h

section
variable {s u : State} {flits : List Word} (a : Reg) (f : BitVec 11) (hc : msgClass (flits.getD 0 0) < 3) (hr : msgReply (flits.getD 0 0) ≠ 0)
include hc hr

theorem State.flitsRead_misaligned (ha : (msgReply (flits.getD 0 0)).toNat % 8 ≠ 0) : s.flitsRead a f flits = s.trap kAlign 0 := by
  rw [State.flitsRead, if_neg (not_or.mpr ⟨by omega, hr⟩), if_pos ha]

variable (ha : (msgReply (flits.getD 0 0)).toNat % 8 = 0)
include ha

theorem State.flitsRead_aligned : s.flitsRead a f flits = s.access (.amsg a f) (msgReply (flits.getD 0 0)) 8 .write fun s loc _ =>
    (s.storeBytes s.threadAgent loc (wordBytes 8 (completionWord 0 (msgClass (flits.getD 0 0)) (msgOp (flits.getD 0 0)) 0))).forkMessage
      f.toNat flits := by
  rw [State.flitsRead, if_neg (not_or.mpr ⟨by omega, hr⟩), if_neg (by simpa using ha)]

theorem State.flitsRead_invalid (hi : s.cur.invalid = some (msgReply (flits.getD 0 0))) :
    s.flitsRead a f flits = s.trap kXlate (msgReply (flits.getD 0 0)) := by
  rw [State.flitsRead_aligned a f hc hr ha, State.access_invalid _ _ _ ha hi]

theorem State.flitsRead_denied (hi : s.cur.invalid ≠ some (msgReply (flits.getD 0 0)))
    (h : s.resolve s.threadAgent (msgReply (flits.getD 0 0)).toNat 8 .write = (u, .access)) :
    s.flitsRead a f flits = u.trap kAccess (msgReply (flits.getD 0 0)) := by
  rw [State.flitsRead_aligned a f hc hr ha, State.access_denied _ _ ha hi h]

theorem State.flitsRead_pending {loc : Nat} {po : BitVec 2} (hi : s.cur.invalid ≠ some (msgReply (flits.getD 0 0)))
    (h : s.resolve s.threadAgent (msgReply (flits.getD 0 0)).toNat 8 .write = (u, .ok loc po)) :
    s.flitsRead a f flits = (u.storeBytes u.threadAgent loc
      (wordBytes 8 (completionWord 0 (msgClass (flits.getD 0 0)) (msgOp (flits.getD 0 0)) 0))).forkMessage f.toNat flits := by
  rw [State.flitsRead_aligned a f hc hr ha, State.access_ok _ _ ha hi h]

end

/-- Ranges taken in the scoreboard of the acting sheet (R175). -/
def State.takeRanges (s : State) (l : List Range) : State :=
  s.setSheet s.curSheet { s.sheet s.curSheet with board := (s.sheet s.curSheet).board ++ l }

@[simp] theorem State.cur_takeRanges (s : State) (l : List Range) : (s.takeRanges l).cur = s.cur := by
  simp [State.takeRanges, State.cur, State.thread]

@[simp] theorem State.board_takeRanges (s : State) (l : List Range) :
    ((s.takeRanges l).sheet s.curSheet).board = (s.sheet s.curSheet).board ++ l := by
  simp [State.takeRanges]

/-- The ranges that a message takes (R175). -/
def State.messageRanges (s : State) (flits : List Word) : List Range :=
  (scoreRanges s.curSheet flits).map fun p => { op := some s.nextId, node := none, ctx := s.curCtx, first := p.1, last := p.2 }

/-- The operation is new and not started; the thread notes it, its ranges are taken, and it joins the operations. -/
theorem State.sendMessage_eq (s : State) (flits : List Word) : ∃ op : EngineOp,
    s.sendMessage flits = { (s.fresh.2.setCur { s.cur with
      sent := aset s.cur.sent (msgClass (flits.getD 0 0)) s.nextId }).takeRanges (s.messageRanges flits) with
      ops := s.ops ++ [(s.nextId, op)] } ∧
    op.flits = flits ∧ op.started = false ∧ op.status = none ∧ op.progress = 0 ∧ op.inst = s.curInstId ∧ op.sheet = s.curSheet ∧
    op.ctx = s.curCtx :=
  ⟨_, rfl, rfl, rfl, rfl, rfl, rfl, rfl, rfl⟩

/-- `amsg` completes where the scoreboard has room (R41, R103). -/
theorem State.forkMessage_room {s : State} {flits : List Word} (f : Nat) (h : s.boardRoom flits = true) :
    s.forkMessage f flits = (s.sendMessage flits).endWait.advance := if_pos h

theorem State.forkMessage_full {s : State} {flits : List Word} (f : Nat) (h : s.boardRoom flits = false) :
    s.forkMessage f flits = s.setCur { s.cur with wait := some (.amsg f flits) } := if_neg (by simp [h])

/-- What a message that leaves its sheet changes, and what of the rest it keeps. -/
theorem State.forkMessage_sent {s : State} {flits : List Word} (f : Nat) (h : s.boardRoom flits = true) : ∃ w op,
    s.forkMessage f flits = w ∧ w.ops = s.ops ++ [(s.nextId, op)] ∧ op.flits = flits ∧ op.started = false ∧ op.status = none ∧
    op.progress = 0 ∧ op.inst = s.curInstId ∧ op.sheet = s.curSheet ∧ op.ctx = s.curCtx ∧
    (w.sheet s.curSheet).board = (s.sheet s.curSheet).board ++ (scoreRanges s.curSheet flits).map (fun p =>
      { op := some s.nextId, node := none, ctx := s.curCtx, first := p.1, last := p.2 }) ∧
    w.cur = { s.cur with
      wait := none, sent := aset s.cur.sent (msgClass (flits.getD 0 0)) s.nextId, pc := s.cur.pc + 4 } ∧
    w.mem = s.mem ∧ w.insts = s.insts := by
  obtain ⟨op, hsend, hop⟩ := s.sendMessage_eq flits
  obtain ⟨hf, hst, hstatus, hp, hi, hs, hc⟩ := hop
  have hfork := State.forkMessage_room f h
  rw [hsend] at hfork
  refine ⟨_, op, hfork, rfl, hf, hst, hstatus, hp, hi, hs, hc, ?_, ?_, rfl, rfl⟩
  · rw [State.advance, State.sheet_setCur, State.endWait, State.sheet_setCur]
    have hb := State.board_takeRanges (s.fresh.2.setCur { s.cur with
      sent := aset s.cur.sent (msgClass (flits.getD 0 0)) s.nextId }) (s.messageRanges flits)
    rw [State.sheet_setCur] at hb
    exact hb
  · rw [State.advance, State.cur_setCur, State.endWait, State.cur_setCur]
    have ht := State.cur_takeRanges (s.fresh.2.setCur { s.cur with
      sent := aset s.cur.sent (msgClass (flits.getD 0 0)) s.nextId }) (s.messageRanges flits)
    rw [State.cur_setCur] at ht
    exact congrArg (fun x : Thread => ({ x with wait := none } : Thread).advance 4) ht

/-- Settles O25: the checks in their order, then the fork. -/
theorem messageSend : Obligations.MessageSend := by
  unfold Obligations.MessageSend
  intro s t a f bs
  refine ⟨fun h => congrArg Host.Outcome.next (doAmsg_misaligned f h), fun ha hr => ?_⟩
  have he : exec (.amsg a f) s = .next (t.flitsRead a f (wordsOf bs f.toNat)) := congrArg Host.Outcome.next (doAmsg_read ha hr)
  rw [he]
  extract_lets flits h reply
  simp only [reply, ← msgReply_eq, ← msgClass_eq, ← msgOp_eq]
  refine ⟨fun hk => ?_, fun hc hz hm => ?_, fun hc hz hm hi => ?_, fun hc hz hm hi u loc po => ⟨fun hu => ?_, fun hu => ?_⟩⟩
  · rw [State.flitsRead_illegal a f hk]; rfl
  · rw [State.flitsRead_misaligned a f hc hz hm]; rfl
  · rw [State.flitsRead_invalid a f hc hz hm hi]; rfl
  · rw [State.flitsRead_denied a f hc hz hm hi hu]; rfl
  · rw [State.flitsRead_pending a f hc hz hm hi hu]
    refine ⟨fun hroom => ?_, fun hfull => congrArg Host.Outcome.next (State.forkMessage_full f.toNat hfull)⟩
    obtain ⟨w, op, hw, hrest⟩ := State.forkMessage_sent f.toNat hroom
    exact ⟨w, op, congrArg Host.Outcome.next hw, hrest⟩

end Sys2Proof.Machine
end

section
/-! PROOF. The final write of an engine operation (O52). -/

namespace Sys2Proof.Machine

/-! ### An operation is gone (R175) -/

theorem aget?_filter_out {α : Type} (l : Assoc Nat α) (out : List Nat) (j : Nat) :
    aget? (l.filter fun p => !(out.contains p.1)) j = if out.contains j then none else aget? l j := by
  induction l with
  | nil => simp
  | cons p r ih =>
    obtain ⟨k, v⟩ := p
    by_cases hk : out.contains k
    · rw [List.filter_cons_of_neg (by simpa using hk), ih, aget?_cons]
      by_cases hj : j = k
      · rw [hj, if_pos hk, if_pos hk]
      · rw [if_neg hj]
    · rw [List.filter_cons_of_pos (by simpa using hk), aget?_cons, aget?_cons, ih]
      by_cases hj : j = k
      · rw [if_pos hj, if_pos hj, hj, if_neg hk]
      · rw [if_neg hj, if_neg hj]

/-- Operations removed are listed no more, and the others are as before. -/
theorem State.ops_dropOps (s : State) (ids : List Nat) :
    (s.dropOps ids).ops = s.ops.filter fun p => !(ids.contains p.1) := by
  have h (l : List Nat) (u : State) : (l.foldl State.freeRanges u).ops = u.ops := by
    induction l generalizing u with
    | nil => rfl
    | cons k r ih => exact ih _
  simp [State.dropOps, h]

theorem State.insts_dropOps (s : State) (ids : List Nat) : (s.dropOps ids).insts = s.insts := by
  have h (l : List Nat) (u : State) : (l.foldl State.freeRanges u).insts = u.insts := by
    induction l generalizing u with
    | nil => rfl
    | cons k r ih => exact ih _
  simp [State.dropOps, h]

/-- Of a sheet, the end of an operation changes the scoreboard only. -/
theorem State.sheet_freeRanges (s : State) (op n : Nat) : (s.freeRanges op).sheet n =
    { s.sheet n with board := (s.sheet n).board.filter fun r => decide (r.op ≠ some op) } := by
  simp only [State.sheet, State.freeRanges, agetD, aget?_amap]
  cases aget? s.sheets n <;> rfl

theorem State.sheet_dropOps_one (s : State) (k n : Nat) : (s.dropOps [k]).sheet n = (s.freeRanges k).sheet n := rfl

theorem State.thread_dropOps_one (s : State) (k sheet ctx : Nat) : (s.dropOps [k]).thread sheet ctx = s.thread sheet ctx := by
  rw [State.thread, State.sheet_dropOps_one, State.sheet_freeRanges]
  rfl

/-! ### The engine thread joins (R77, R175) -/

theorem State.signal_parts (s : State) (sheet ctx : Nat) (mask : BitVec 16) :
    (s.signal sheet ctx mask).mem = s.mem ∧ (s.signal sheet ctx mask).insts = s.insts ∧ (s.signal sheet ctx mask).ops = s.ops :=
  ⟨rfl, rfl, rfl⟩

/-- Flags set in a thread leave the scoreboards alone. -/
theorem State.board_signal (s : State) (sheet ctx n : Nat) (mask : BitVec 16) :
    ((s.signal sheet ctx mask).sheet n).board = (s.sheet n).board := by
  by_cases h : n = sheet
  · subst h; simp [State.signal, State.setThread]
  · simp [State.signal, State.setThread, State.sheet_setSheet_other _ _ h]

theorem State.events_signal (s : State) (sheet ctx : Nat) (mask : BitVec 16) :
    ((s.signal sheet ctx mask).thread sheet ctx).events = (s.thread sheet ctx).events ||| mask := by
  simp [State.signal]

section
variable (s : State) (k : Nat) (o : EngineOp)

theorem State.insts_joinOp : (s.joinOp k o).insts = s.insts := by
  unfold State.joinOp
  split
  · exact (State.signal_parts _ _ _ _).2.1.trans (State.insts_dropOps s [k])
  · exact State.insts_dropOps s [k]

theorem State.ops_joinOp : (s.joinOp k o).ops = s.ops.filter fun p => !([k].contains p.1) := by
  unfold State.joinOp
  split
  · exact (State.signal_parts _ _ _ _).2.2.trans (State.ops_dropOps s [k])
  · exact State.ops_dropOps s [k]

theorem State.aget?_ops_joinOp (j : Nat) : aget? (s.joinOp k o).ops j = if j = k then none else aget? s.ops j := by
  rw [State.ops_joinOp, aget?_filter_out]
  simp

/-- No range of the operation is left in any scoreboard. -/
theorem State.board_joinOp (n : Nat) : ∀ r ∈ ((s.joinOp k o).sheet n).board, r.op ≠ some k := by
  have h : ((s.joinOp k o).sheet n).board = (s.sheet n).board.filter fun r => decide (r.op ≠ some k) := by
    unfold State.joinOp
    split
    · rw [State.board_signal, State.sheet_dropOps_one, State.sheet_freeRanges]
    · rw [State.sheet_dropOps_one, State.sheet_freeRanges]
  rw [h]
  intro r hr
  simpa using (List.mem_filter.mp hr).2

/-- Under EVT the issuing thread gets event 0. -/
theorem State.events_joinOp : ((s.joinOp k o).thread o.sheet o.ctx).events =
    (s.thread o.sheet o.ctx).events ||| (if o.header.getLsbD 49 then 1 else 0) := by
  unfold State.joinOp msgEvt
  split
  · rw [State.events_signal, State.thread_dropOps_one]
  · exact (congrArg Thread.events (State.thread_dropOps_one _ _ _ _)).trans BitVec.or_zero.symm

end

/-! ### The final write (R80, R174) -/

theorem msgReply_toNat (h : Word) : (msgReply h).toNat = h.toNat % 2 ^ 48 := by
  rw [msgReply_eq, BitVec.toNat_ofNat]
  omega

/-- The old value of an atomic that is done comes first, then the completion word. -/
theorem State.finalWrite_ok {s u t : State} {o : EngineOp} {st : BitVec 4}
    (hu : (if msgClass o.header = 2 ∧ msgOp o.header = 2 ∧ st = 1 then
      s.putBytes o (o.header.toNat % 2 ^ 48 + 8) (natBytes 8 o.moved) else (s, .ok ())) = (u, .ok ()))
    (ht : u.putBytes o (o.header.toNat % 2 ^ 48) (wordBytes 8 (BitVec.ofNat 64 (st.toNat * 2 ^ 60 +
      msgClass o.header * 2 ^ 56 + msgOp o.header * 2 ^ 48 + o.progress % 2 ^ 48))) = (t, .ok ())) :
    s.finalWrite o st = (t, .ok ()) := by
  rw [← msgReply_toNat] at hu ht
  have hd : stDone = 1 := rfl
  simp only [State.finalWrite, hd, hu, Got.andThen, completionWord, ht]

section
variable {s : State} {k : Nat} {o : EngineOp}

/-- The status with which an operation ends: decided, or ILLEGAL for an unassigned op that may start. -/
theorem State.endStatus_some {st : BitVec 4} (h : o.status = some st ∨ (o.status = none ∧ st = 5 ∧ s.mayStart k o = true ∧
    flitCount (msgClass o.header) (msgOp o.header) = none)) : s.endStatus k o = some st := by
  rcases h with h | ⟨hn, rfl, hm, hf⟩
  · simp [State.endStatus, h]
  · simp [State.endStatus, hn, hm, hf, stIllegal]

theorem State.endStatus_none (hn : o.status = none) (hf : (flitCount (msgClass o.header) (msgOp o.header)).isSome = true) :
    s.endStatus k o = none := by
  obtain ⟨n, hf⟩ := Option.isSome_iff_exists.mp hf
  simp [State.endStatus, hn, hf]

theorem execEngineCompletion_undecided (ho : aget? s.ops k = some o) (hst : s.endStatus k o = none) :
    execEngineCompletion k s = .next s := by
  simp [execEngineCompletion, ho, hst]

theorem execEngineCompletion_joins {t : State} {st : BitVec 4} (ho : aget? s.ops k = some o) (hst : s.endStatus k o = some st)
    (hs : o.stall = none) (hh : s.opHeld o = false) (ha : o.awaitsCommit = false) (hi : o.invalid = false)
    (hw : s.finalWrite o st = (t, .ok ())) : execEngineCompletion k s = .next (t.joinOp k o) := by
  simp [execEngineCompletion, ho, hst, hs, hh, ha, hi, hw]

end

/-- Settles O52: the final write, then the join. -/
theorem engineJoins : Obligations.EngineJoins := by
  unfold Obligations.EngineJoins
  intro s t0 t k o ho
  simp only [← msgClass_eq, ← msgOp_eq]
  refine ⟨fun hn hf => execEngineCompletion_undecided ho (State.endStatus_none hn hf), fun st hst hs hh ha hi hu ht => ?_⟩
  refine ⟨t.joinOp k o, execEngineCompletion_joins ho (State.endStatus_some hst) hs hh ha hi (State.finalWrite_ok hu ht), ?_,
    State.joinOp_mem t k o, State.insts_joinOp t k o, fun j hj => ?_, State.board_joinOp t k o, fun _ => State.events_joinOp t k o⟩
  · rw [State.aget?_ops_joinOp, if_pos rfl]
  · rw [State.aget?_ops_joinOp, if_neg hj]

end Sys2Proof.Machine
end

section
/-! PROOF. The copy engine and the compositor (O51): how an operation starts, and how the loop of its units follows the pieces it reads and
writes. -/

namespace Sys2Proof.Machine

/-! ### An operation starts (R79, R173, R228) -/

/-- The operation is first to start and waits for no commit. -/
def State.ready (s : State) (k : Nat) (o : EngineOp) : Prop :=
  o.started = false ∧ s.mustAwait o = false ∧ s.mayStart k o = true

/-- The operation `o` of `s` runs on as `o1` from `s1`: it had started, or starts now and passes its checks. -/
def State.runsAs (s s1 : State) (k : Nat) (o o1 : EngineOp) : Prop :=
  o.invalid = false ∧ ((o.started = true ∧ o.awaitsCommit = false ∧ s1 = s ∧ o1 = o) ∨
    (s.ready k o ∧ o.check = none ∧ o1 = { o with started := true } ∧ s1 = s.setOp k { o with started := true }))

section
variable {s : State} {k cls op units : Nat} {o : EngineOp} {run : State → EngineOp → Nat → State}

/-- What every start asks first: the operation is of the class and number named, undecided, and neither stalled nor held. -/
def State.startable (s : State) (k cls op : Nat) (o : EngineOp) : Prop :=
  aget? s.ops k = some o ∧ msgClass o.header = cls ∧ msgOp o.header = op ∧ o.status = none ∧ o.stall = none ∧ s.opHeld o = false

theorem State.startOp_eq (h : s.startable k cls op o) : s.startOp k cls op =
    if o.started then if o.awaitsCommit then (s, none) else (s, some o)
    else if s.mustAwait o then (s.setOp k { o with afterCommit := true }, none)
    else if !(s.mayStart k o) then (s, none)
    else match o.check with
      | some st => (s.setOp k { o with started := true, status := some st }, none)
      | none => (s.setOp k { o with started := true }, some { o with started := true }) := by
  obtain ⟨ho, hc, hn, hst, hs, hh⟩ := h
  have hg : ¬(msgClass o.header ≠ cls ∨ msgOp o.header ≠ op ∨ o.status.isSome = true ∨ o.stall.isSome = true ∨ s.opHeld o = true) := by
    simp [hc, hn, hst, hs, hh]
  rw [State.startOp, ho]
  exact if_neg hg

theorem State.runOp_notStarted {t : State} (h : s.startOp k cls op = (t, none)) : s.runOp k cls op units run = t := by
  rw [State.runOp, h]

theorem State.runOp_started {t : State} {p : EngineOp} (h : s.startOp k cls op = (t, some p)) :
    s.runOp k cls op units run = if p.invalid then t.setOp k { p with status := some stXlate, invalid := false } else run t p units := by
  rw [State.runOp, h]

/-- A failed check decides the status, and no byte moves (R79). -/
theorem State.runOp_checkFails {st : BitVec 4} (h : s.startable k cls op o) (hr : s.ready k o) (hk : o.check = some st) :
    s.runOp k cls op units run = s.setOp k { o with started := true, status := some st } := by
  obtain ⟨hn, ha, hm⟩ := hr
  exact State.runOp_notStarted (by simp [State.startOp_eq h, hn, ha, hm, hk])

theorem State.runOp_mayNotStart (h : s.startable k cls op o) (hn : o.started = false) (ha : s.mustAwait o = false)
    (hm : s.mayStart k o = false) : s.runOp k cls op units run = s :=
  State.runOp_notStarted (by simp [State.startOp_eq h, hn, ha, hm])

theorem State.runOp_mustAwait (h : s.startable k cls op o) (hn : o.started = false) (ha : s.mustAwait o = true) :
    s.runOp k cls op units run = s.setOp k { o with afterCommit := true } :=
  State.runOp_notStarted (by simp [State.startOp_eq h, hn, ha])

theorem State.runOp_awaitsCommit (h : s.startable k cls op o) (hn : o.started = true) (ha : o.awaitsCommit = true) :
    s.runOp k cls op units run = s :=
  State.runOp_notStarted (by simp [State.startOp_eq h, hn, ha])

/-- A page of it was declared invalid while it slept (R307). -/
theorem State.runOp_invalid (h : s.startable k cls op o) (hn : o.started = true) (ha : o.awaitsCommit = false) (hi : o.invalid = true) :
    s.runOp k cls op units run = s.setOp k { o with status := some stXlate, invalid := false } := by
  rw [State.runOp_started (p := o) (t := s) (by simp [State.startOp_eq h, hn, ha]), if_pos hi]

theorem State.runOp_runs {s1 : State} {o1 : EngineOp} (h : s.startable k cls op o) (hr : s.runsAs s1 k o o1) :
    s.runOp k cls op units run = run s1 o1 units := by
  obtain ⟨hi, ⟨hn, ha, rfl, rfl⟩ | ⟨⟨hn, ha, hm⟩, hk, rfl, rfl⟩⟩ := hr
  · rw [State.runOp_started (p := o1) (t := s1) (by simp [State.startOp_eq h, hn, ha]), if_neg (by simp [hi])]
  · rw [State.runOp_started (p := { o with started := true }) (t := s.setOp k { o with started := true })
      (by simp [State.startOp_eq h, hn, ha, hm, hk]), if_neg (by simp [hi])]

end

/-- Each operation of the copy engine and the compositor begins with the start that all share. -/
theorem exec_engine_runOp {i : Instr} {k c n units : Nat} (s : State) (h : (i, c, n) ∈
    [(Instr.ceCopy k units, 0, 0), (.ceCopyc k units, 0, 1), (.ceFill k units, 0, 2), (.cePlane k units, 0, 3), (.ceGather k units, 0, 4),
      (.ceScatter k units, 0, 5), (.coCompose k units, 1, 0)]) : ∃ run, exec i s = .next (s.runOp k c n units run) := by
  simp only [List.mem_cons, List.not_mem_nil, or_false, Prod.mk.injEq] at h
  obtain ⟨rfl, rfl, rfl⟩ | ⟨rfl, rfl, rfl⟩ | ⟨rfl, rfl, rfl⟩ | ⟨rfl, rfl, rfl⟩ | ⟨rfl, rfl, rfl⟩ | ⟨rfl, rfl, rfl⟩ |
    ⟨rfl, rfl, rfl⟩ := h <;>
    exact ⟨_, rfl⟩

/-! ### The loop of the units (R174, R207) -/

/-- What an operation is once its output is written: DONE (R174). -/
def EngineOp.finished (p : EngineOp) (total : Nat) : EngineOp := if total ≤ p.moved then { p with status := some stDone } else p

/-- `n` steps that only read: they lead from `(x, p)` to `(t, q)`, and no byte of output is written. -/
inductive Reads (step : State → EngineOp → Got EngineOp) : Nat → State → EngineOp → State → EngineOp → Prop
  | none (x : State) (p : EngineOp) : Reads step 0 x p x p
  | more {n : Nat} {x y t : State} {p r q : EngineOp} (h : step x p = (y, .ok r)) (hm : r.moved = p.moved) (hr : Reads step n y r t q) :
      Reads step (n + 1) x p t q

theorem Reads.one {step : State → EngineOp → Got EngineOp} {x t : State} {p q : EngineOp} (h : step x p = (t, .ok q)) (hm : q.moved = p.moved) :
    Reads step 1 x p t q := .more h hm (.none _ _)

theorem Reads.moved_eq {step : State → EngineOp → Got EngineOp} {n : Nat} {x t : State} {p q : EngineOp} (h : Reads step n x p t q) :
    q.moved = p.moved := by
  induction h with
  | none => rfl
  | more _ hm _ ih => rw [ih, hm]

section
variable {k total parts fuel n : Nat} {x t u : State} {p q r : EngineOp} {old : State × EngineOp} {ends : EngineOp → EngineOp → Bool}
  {step : State → EngineOp → Got EngineOp}

/-- An operation whose output is written, or that has moved on by its units, is left as it stands. -/
theorem State.unitsFrom_zero : x.unitsFrom k p old total 0 fuel ends step = x.setOp k (p.finished total) := by
  unfold State.unitsFrom EngineOp.finished
  split <;> rfl

theorem State.unitsFrom_done (h : total ≤ p.moved) : x.unitsFrom k p old total parts fuel ends step = x.setOp k (p.finished total) := by
  unfold State.unitsFrom EngineOp.finished
  rw [if_pos h, if_pos h]

/-- Steps that only read pass the loop one by one. -/
theorem State.unitsFrom_reads (h : Reads step n x p t q) (hp : p.moved < total) (hf : n ≤ fuel) :
    x.unitsFrom k p old total (parts + 1) fuel ends step = t.unitsFrom k q old total (parts + 1) (fuel - n) ends step := by
  induction h generalizing fuel with
  | none => rfl
  | @more n x y t p r q hs hm _ ih =>
    obtain ⟨fuel, rfl⟩ : ∃ f, fuel = f + 1 := ⟨fuel - 1, by omega⟩
    rw [State.unitsFrom, if_neg (by omega), if_neg (by omega)]
    simp only [hs, hm, if_pos]
    rw [ih (by omega) (by omega), Nat.add_sub_add_right]

/-- A step that writes, counted as progress. -/
theorem State.unitsFrom_write (hs : step x p = (u, .ok r)) (hp : p.moved < total) (hm : r.moved ≠ p.moved) :
    x.unitsFrom k p old total (parts + 1) (fuel + 1) ends step =
      if ends p r then (u.opProgress p).unitsFrom k r (u.opProgress p, r) total parts fuel ends step
      else (u.opProgress p).unitsFrom k r old total (parts + 1) fuel ends step := by
  rw [State.unitsFrom, if_neg (by omega), if_neg (by omega)]
  simp only [hs, hm, if_false, Nat.add_sub_cancel]

/-- The step that ends the unit or the output ends the move. -/
theorem State.unitsFrom_last (h : Reads step n x p t q) (hp : p.moved < total) (hs : step t q = (u, .ok r)) (hm : r.moved ≠ q.moved)
    (he : total ≤ r.moved ∨ ends q r = true) (hf : n + 1 ≤ fuel) :
    x.unitsFrom k p old total 1 fuel ends step = (u.opProgress q).setOp k (r.finished total) := by
  obtain ⟨f, hf'⟩ : ∃ f, fuel - n = f + 1 := ⟨fuel - n - 1, by omega⟩
  rw [State.unitsFrom_reads (parts := 0) h hp (by omega), hf', State.unitsFrom_write hs (by rw [h.moved_eq]; exact hp) hm]
  split
  · exact State.unitsFrom_zero
  · next hn => exact State.unitsFrom_done (he.resolve_right hn)

/-- A step that ends neither is followed by the next piece. -/
theorem State.unitsFrom_piece (h : Reads step n x p t q) (hp : p.moved < total) (hs : step t q = (u, .ok r)) (hm : r.moved ≠ q.moved)
    (he : ends q r = false) (hf : n + 1 ≤ fuel) :
    x.unitsFrom k p old total 1 fuel ends step = (u.opProgress q).unitsFrom k r old total 1 (fuel - (n + 1)) ends step := by
  obtain ⟨f, hf'⟩ : ∃ f, fuel - n = f + 1 := ⟨fuel - n - 1, by omega⟩
  rw [State.unitsFrom_reads (parts := 0) h hp (by omega), hf', State.unitsFrom_write hs (by rw [h.moved_eq]; exact hp) hm,
    if_neg (by simp [he]), show fuel - (n + 1) = f by omega]

/-- A step that is stopped before anything is written stops the operation as it stood (R207). -/
theorem State.unitsFrom_stopped {e : Ans} {a : Nat} {kind : AccessKind} (hs : step x p = (t, .error (e, a, kind))) (hp : p.moved < total)
    (ho : p.moved = old.2.moved) :
    x.unitsFrom k p old total (parts + 1) (fuel + 1) ends step = t.stopOp k p e a kind := by
  rw [State.unitsFrom, if_neg (by omega), if_neg (by omega)]
  simp only [hs, State.stopWhole, if_pos ho]

end

/-! ### Pieces, each read and written (R176–R179) -/

/-- `p` is the operation `o` further on: its message and its forme are the same. -/
def EngineOp.same (o p : EngineOp) : Prop := p.flits = o.flits ∧ p.inst = o.inst

theorem EngineOp.same_refl (o : EngineOp) : o.same o := ⟨rfl, rfl⟩

theorem EngineOp.same.flit {o p : EngineOp} (h : o.same p) (j : Nat) : p.flit j = o.flit j := by
  rw [EngineOp.flit, h.1, EngineOp.flit]

theorem EngineOp.same.opProgress {o p : EngineOp} (h : o.same p) (s : State) : s.opProgress p = s.opProgress o := by
  rw [State.opProgress, h.2, State.opProgress]

theorem unitRoom_pos (a : Nat) {n : Nat} (h : 0 < n) : 0 < unitRoom a n := by
  unfold unitRoom
  omega

theorem State.writeStage_ok {t u : State} {q : EngineOp} {a unit : Nat}
    (h : t.putBytes q a (q.stage.take (unitRoom a q.stage.length)) = (u, .ok ())) :
    t.writeStage q a unit = (u, .ok (q.wrote (unitRoom a q.stage.length) unit)) := by
  simp only [State.writeStage, h, Got.andThen]

/-- How the stage of a piece is filled: what leads from a state and an operation to a state and an operation. -/
abbrev Fill := State → EngineOp → State → EngineOp → Prop

/-- Piece `j` of `c`: its stage is filled and written up to the end of the aligned unit at `dst`; the last piece, and no other, ends the
output or what `ends` says. -/
def Piece (o : EngineOp) (total unit c : Nat) (fill : Fill) (dst : EngineOp → Nat) (ends : EngineOp → EngineOp → Prop) (x : Nat → State)
    (p : Nat → EngineOp) (j : Nat) : Prop :=
  (p j).moved < total ∧ ∃ (t u : State) (q : EngineOp), fill (x j) (p j) t q ∧ q.stage ≠ [] ∧
    t.putBytes q (dst q) (q.stage.take (unitRoom (dst q) q.stage.length)) = (u, .ok ()) ∧
    x (j + 1) = u.opProgress o ∧ p (j + 1) = q.wrote (unitRoom (dst q) q.stage.length) unit ∧
    (j + 1 = c ↔ total ≤ (p (j + 1)).moved ∨ ends q (p (j + 1)))

/-- The steps carry out a piece: at most two reads fill its stage, then the stage is written. -/
def Carries (o : EngineOp) (unit : Nat) (fill : Fill) (dst : EngineOp → Nat) (step : State → EngineOp → Got EngineOp) : Prop :=
  ∀ x p t q, o.same p → fill x p t q → q.stage ≠ [] →
    o.same q ∧ ∃ n ≤ 2, Reads step n x p t q ∧ step t q = t.writeStage q (dst q) unit

section
variable {o : EngineOp} {total unit : Nat} {fill : Fill} {dst : EngineOp → Nat} {ends : EngineOp → EngineOp → Prop}
  {step : State → EngineOp → Got EngineOp} {endsB : EngineOp → EngineOp → Bool}

/-- The pieces after the first are pieces of a shorter move. -/
theorem Piece.tail {c j : Nat} {x : Nat → State} {p : Nat → EngineOp} (h : Piece o total unit (c + 1) fill dst ends x p (j + 1)) :
    Piece o total unit c fill dst ends (fun j => x (j + 1)) (fun j => p (j + 1)) j := by
  simpa [Piece] using h

/-- The loop follows the pieces, three steps at most for each. -/
theorem State.unitsFrom_pieces (hc : Carries o unit fill dst step) (he : ∀ q r, o.same q → o.same r → (ends q r ↔ endsB q r = true))
    (k : Nat) (old : State × EngineOp) (c : Nat) {fuel : Nat} (x : Nat → State) (p : Nat → EngineOp) (h0 : 0 < c) (hf : 3 * c ≤ fuel)
    (hs : o.same (p 0)) (hp : ∀ j < c, Piece o total unit c fill dst ends x p j) :
    (x 0).unitsFrom k (p 0) old total 1 fuel endsB step = (x c).setOp k ((p c).finished total) := by
  induction c generalizing x p fuel with
  | zero => omega
  | succ c ih =>
    obtain ⟨hm, t, u, q, hfill, hstage, hput, hx, hp1, hlast⟩ := hp 0 (by omega)
    obtain ⟨hq, n, hn, hreads, hwrite⟩ := hc _ _ _ _ hs hfill hstage
    rw [State.writeStage_ok hput, ← hp1] at hwrite
    have hs1 : o.same (p 1) := by rw [hp1]; exact hq
    have hmoved : (p 1).moved ≠ q.moved := by
      have := unitRoom_pos (dst q) (List.length_pos_iff.mpr hstage)
      rw [hp1, EngineOp.wrote]
      simp only
      omega
    have hx1 : u.opProgress q = x 1 := by rw [hq.opProgress, hx]
    by_cases hcz : c = 0
    · subst hcz
      have hend : total ≤ (p 1).moved ∨ endsB q (p 1) = true := (hlast.mp rfl).imp_right (he _ _ hq hs1).mp
      rw [State.unitsFrom_last hreads hm hwrite hmoved hend (by omega), hx1]
    · have hend : endsB q (p 1) = false := by
        rw [← Bool.not_eq_true, ← he _ _ hq hs1]
        exact fun hr => hcz (by have := hlast.mpr (.inr hr); omega)
      rw [State.unitsFrom_piece hreads hm hwrite hmoved hend (by omega), hx1]
      exact ih (fun j => x (j + 1)) (fun j => p (j + 1)) (by omega) (by omega) hs1 fun j hj => (hp (j + 1) (by omega)).tail

end

/-- The stage is kept, or, where it is empty, filled with what a read gives (R177). -/
def Filled (read : State → EngineOp → Got (List Byte)) (conv : List Byte → List Byte) : Fill := fun x p t q =>
  (p.stage = [] ∧ ∃ bs, read x p = (t, .ok bs) ∧ q = { p with stage := conv bs }) ∨ (p.stage ≠ [] ∧ t = x ∧ q = p)

/-- The index word of the element is read where it is not in hand, and then the stage is filled (R177). -/
def Indexed (base : Nat) (read : State → EngineOp → Nat → Got (List Byte)) : Fill := fun x p t q =>
  ∃ (j : Nat) (v : State), ((p.index = some j ∧ v = x) ∨ (p.index = none ∧ x.fetchIndex p base p.progress = (v, .ok j))) ∧
    Filled (fun y r => read y r j) id v { p with index := some j } t q

section
variable {o : EngineOp} {unit : Nat} {dst : EngineOp → Nat} {step : State → EngineOp → Got EngineOp}

theorem carries_filled {read : State → EngineOp → Got (List Byte)} {conv : List Byte → List Byte}
    (hr : ∀ x p, o.same p → p.stage = [] → step x p = Got.andThen (read x p) fun s bs => (s, .ok { p with stage := conv bs }))
    (hw : ∀ x p, o.same p → p.stage ≠ [] → step x p = x.writeStage p (dst p) unit) : Carries o unit (Filled read conv) dst step := by
  rintro x p t q hs (⟨he, bs, hread, rfl⟩ | ⟨-, rfl, rfl⟩) hq
  · refine ⟨hs, 1, by omega, .one ?_ rfl, hw _ _ hs hq⟩
    rw [hr x p hs he, hread]
    rfl
  · exact ⟨hs, 0, by omega, .none _ _, hw _ _ hs hq⟩

theorem carries_indexed {base : Nat} {read : State → EngineOp → Nat → Got (List Byte)}
    (hi : ∀ x p, o.same p → p.index = none →
      step x p = Got.andThen (x.fetchIndex p base p.progress) fun s i => (s, .ok { p with index := some i }))
    (hr : ∀ x p j, o.same p → p.index = some j → p.stage = [] →
      step x p = Got.andThen (read x p j) fun s bs => (s, .ok { p with stage := bs }))
    (hw : ∀ x p j, o.same p → p.index = some j → p.stage ≠ [] → step x p = x.writeStage p (dst p) unit) :
    Carries o unit (Indexed base read) dst step := by
  rintro x p t q hs ⟨j, v, hindex, hfill⟩ hq
  have hfilled : o.same q ∧ ∃ n ≤ 1, Reads step n v { p with index := some j } t q ∧ step t q = t.writeStage q (dst q) unit := by
    obtain ⟨he, bs, hread, rfl⟩ | ⟨-, rfl, rfl⟩ := hfill
    · have hread : read v { p with index := some j } j = (t, .ok bs) := hread
      refine ⟨hs, 1, Nat.le_refl 1, .one ?_ rfl, hw _ _ j hs rfl hq⟩
      rw [hr v { p with index := some j } j hs rfl he, hread]
      rfl
    · exact ⟨hs, 0, by omega, .none _ _, hw _ _ j hs rfl hq⟩
  obtain ⟨hqs, n, hn, hreads, hwrite⟩ := hfilled
  obtain ⟨hj, rfl⟩ | ⟨hj, hread⟩ := hindex
  · rw [← hj] at hreads
    exact ⟨hqs, n, by omega, hreads, hwrite⟩
  · refine ⟨hqs, n + 1, by omega, .more (r := { p with index := some j }) ?_ rfl hreads, hwrite⟩
    rw [hi x p hs hj, hread]
    rfl

end

/-! ### Images, each written from a whole tile (R152, R153) -/

theorem imageBytes_pos (q : Nat) : 0 < imageBytes q := by
  unfold imageBytes
  omega

section
variable {o : EngineOp} {q dst : Nat} {read : State → EngineOp → Got (List Byte)} {step : State → EngineOp → Got EngineOp}

/-- The tile is read piece by piece. -/
theorem reads_tile (hstep : ∀ x p, o.same p → step x p = x.planeStep p q dst read) (c : Nat) (x : Nat → State) (p : Nat → EngineOp)
    (hs : o.same (p 0)) (hp : ∀ j < c, (p j).stage.length < imageBytes q ∧
      ∃ bs, read (x j) (p j) = (x (j + 1), .ok bs) ∧ p (j + 1) = { p j with stage := (p j).stage ++ bs }) :
    o.same (p c) ∧ Reads step c (x 0) (p 0) (x c) (p c) := by
  induction c generalizing x p with
  | zero => exact ⟨hs, .none _ _⟩
  | succ c ih =>
    obtain ⟨hl, bs, hread, hp1⟩ := hp 0 (by omega)
    have hs1 : o.same (p 1) := by rw [hp1]; exact hs
    obtain ⟨hsc, hrest⟩ := ih (fun j => x (j + 1)) (fun j => p (j + 1)) hs1 fun j hj => hp (j + 1) (by omega)
    refine ⟨hsc, .more ?_ (by rw [hp1]) hrest⟩
    rw [hstep _ _ hs]
    simp only [State.planeStep, if_pos hl, hread, Got.andThen, hp1]

/-- The next unit of the image is written from the bytes of the tile. -/
theorem State.planeStep_write {x u : State} {p : EngineOp} {m : Nat} (hl : imageBytes q ≤ p.stage.length)
    (hm : m = unitRoom (dst + p.moved) (imageBytes q - p.moved % imageBytes q))
    (hput : x.putBytes p (dst + p.moved) ((List.range m).map fun j => imageByte (planesOf q) (p.moved % imageBytes q + j)
      ((packedSources (planesOf q) (p.moved % imageBytes q + j)).map fun b => p.stage.getD b 0)) = (u, .ok ())) :
    x.planeStep p q dst read =
      (u, .ok { p.wrote m 1 with stage := if p.moved % imageBytes q + m = imageBytes q then [] else p.stage }) := by
  subst hm
  simp only [State.planeStep, if_neg (Nat.not_lt.mpr hl), hput, Got.andThen]

end

/-! ### The moves that O51 speaks of -/

/-- One aligned unit of the destination, in at most eight pieces, is what `i` comes to. -/
def Moves (s s1 : State) (k : Nat) (o o1 : EngineOp) (i : Instr) (total unit : Nat) (fill : Fill) (dst : EngineOp → Nat)
    (ends : EngineOp → EngineOp → Prop) : Prop :=
  ∀ (c : Nat) (x : Nat → State) (p : Nat → EngineOp), 0 < c → c ≤ 8 → x 0 = s1 → p 0 = o1 →
    (∀ j < c, Piece o total unit c fill dst ends x p j) → exec i s = .next ((x c).setOp k ((p c).finished total))

/-- A tile read in `c` pieces and the next unit of its image written is what `i` comes to. -/
def Images (s s1 : State) (k : Nat) (o o1 : EngineOp) (i : Instr) (q total : Nat) (read : State → EngineOp → Got (List Byte)) : Prop :=
  ∀ (c : Nat) (x : Nat → State) (p : Nat → EngineOp) (u : State), c ≤ imageBytes q → x 0 = s1 → p 0 = o1 → o1.moved < total →
    (∀ j < c, (p j).stage.length < imageBytes q ∧
      ∃ bs, read (x j) (p j) = (x (j + 1), .ok bs) ∧ p (j + 1) = { p j with stage := (p j).stage ++ bs }) →
    imageBytes q ≤ (p c).stage.length →
    let at_ := o.flit 2 + o1.moved
    let off := o1.moved % imageBytes q
    let m := unitRoom at_ (imageBytes q - off)
    (at_ + m) % 8 = 0 ∨ total ≤ o1.moved + m →
    (x c).putBytes (p c) at_ ((List.range m).map fun j => imageByte (planesOf q) (off + j)
      ((packedSources (planesOf q) (off + j)).map fun b => (p c).stage.getD b 0)) = (u, .ok ()) →
    exec i s = .next ((u.opProgress o).setOp k (({ (p c).wrote m 1 with
      stage := if off + m = imageBytes q then [] else (p c).stage } : EngineOp).finished total))

section
variable {s s1 : State} {k total unit fuel : Nat} {o o1 : EngineOp} {i : Instr} {step : State → EngineOp → Got EngineOp}
  {endsB : EngineOp → EngineOp → Bool}

theorem moves_of_carries {fill : Fill} {dst : EngineOp → Nat} {ends : EngineOp → EngineOp → Prop}
    (hexec : exec i s = .next (s1.unitsFrom k o1 (s1, o1) total 1 fuel endsB step)) (hs : o.same o1) (hf : 24 ≤ fuel)
    (hc : Carries o unit fill dst step) (he : ∀ q r, o.same q → o.same r → (ends q r ↔ endsB q r = true)) :
    Moves s s1 k o o1 i total unit fill dst ends := by
  rintro c x p h0 h8 rfl rfl hp
  rw [hexec, State.unitsFrom_pieces hc he k _ c x p h0 (by omega) hs hp]

theorem images_of_planeStep {q : Nat} {read : State → EngineOp → Got (List Byte)}
    (hexec : exec i s = .next (s1.unitsFrom k o1 (s1, o1) total 1 fuel (endsUnit (o.flit 2)) step)) (hs : o.same o1)
    (hf : imageBytes q + 1 ≤ fuel) (hstep : ∀ x p, o.same p → step x p = x.planeStep p q (o.flit 2) read) :
    Images s s1 k o o1 i q total read := by
  rintro c x p u hc rfl rfl hmoved hp hl at_ off m hend hput
  obtain ⟨hsc, hreads⟩ := reads_tile hstep c x p hs hp
  have he : (p c).moved = (p 0).moved := hreads.moved_eq
  have hpos : 0 < m := unitRoom_pos _ (Nat.sub_pos_of_lt (Nat.mod_lt _ (imageBytes_pos q)))
  have hw := State.planeStep_write (read := read) (x := x c) (u := u) (dst := o.flit 2) (m := m) hl (by rw [he]) (by rw [he]; exact hput)
  rw [he] at hw
  rw [hexec, State.unitsFrom_last hreads hmoved ((hstep _ _ hsc).trans hw) _ _ (by omega), hsc.opProgress]
  · show (p c).moved + m ≠ (p c).moved
    omega
  · rw [endsUnit, decide_eq_true_eq]
    show total ≤ (p c).moved + m ∨ (o.flit 2 + ((p c).moved + m)) % 8 = 0
    rw [he, ← Nat.add_assoc]
    exact hend.symm

end

theorem endsUnit_iff (dst : Nat) (q r : EngineOp) : (dst + r.moved) % 8 = 0 ↔ endsUnit dst q r = true := by
  rw [endsUnit, decide_eq_true_eq]

theorem bitsOf_zero (v w : Nat) : bitsOf v 0 w = v % 2 ^ w := by
  simp [bitsOf]

end Sys2Proof.Machine
end

section
/-! PROOF. Each operation of the copy engine and the compositor is the loop of its own steps (O51). -/

namespace Sys2Proof.Machine

/-- An operation that runs is the one sent, of which only its start may be new. -/
theorem State.runsAs.same {s s1 : State} {k : Nat} {o o1 : EngineOp} (h : s.runsAs s1 k o o1) : o.same o1 := by
  obtain ⟨-, ⟨-, -, -, rfl⟩ | ⟨-, -, rfl, -⟩⟩ := h <;> exact ⟨rfl, rfl⟩

section
variable {s s1 : State} {k : Nat} {o o1 : EngineOp}

/-! ### `ce.copy` and `ce.copyc` (R177) -/

theorem exec_ceCopy (h : s.startable k 0 0 o) (hr : s.runsAs s1 k o o1) : exec (.ceCopy k 1) s =
    .next (s1.unitsFrom k o1 (s1, o1) (o.flit 3 % 2 ^ 32) 1 (stepFuel 1) (endsUnit (o.flit 2)) fun s p =>
      s.copyStep p (o.flit 3 % 2 ^ 32)) := by
  refine (congrArg Host.Outcome.next (State.runOp_runs h hr)).trans ?_
  simp only [State.runUnits, bitsOf_zero, hr.same.flit]

/-- What `ce.copy` reads next of its source. -/
def EngineOp.copyRead (o : EngineOp) (n : Nat) (x : State) (p : EngineOp) : Got (List Byte) :=
  x.fetchRun p (o.flit 1 + p.moved) (unitRoom (o.flit 1 + p.moved) (n - p.moved))

theorem copyStep_read {x : State} {p : EngineOp} {n : Nat} (hs : o.same p) (he : p.stage = []) :
    x.copyStep p n = Got.andThen (o.copyRead n x p) fun s bs => (s, .ok { p with stage := bs }) := by
  simp only [State.copyStep, he, List.isEmpty_nil, if_true, State.fetchUnit, EngineOp.copyRead, hs.flit]

theorem copyStep_write {x : State} {p : EngineOp} {n : Nat} (hs : o.same p) (he : p.stage ≠ []) :
    x.copyStep p n = x.writeStage p (o.flit 2 + p.moved) 1 := by
  rw [State.copyStep, if_neg (by simpa using he), hs.flit]

theorem ceCopy_moves (h : s.startable k 0 0 o) (hr : s.runsAs s1 k o o1) :
    Moves s s1 k o o1 (.ceCopy k 1) (o.flit 3 % 2 ^ 32) 1 (Filled (o.copyRead (o.flit 3 % 2 ^ 32)) id) (fun p => o.flit 2 + p.moved)
      (fun _ p => (o.flit 2 + p.moved) % 8 = 0) :=
  moves_of_carries (exec_ceCopy h hr) hr.same (by decide)
    (carries_filled (fun _ _ hs he => copyStep_read hs he) fun _ _ hs he => copyStep_write hs he) fun q r _ _ => endsUnit_iff _ q r

/-- What stops the first read of a unit stops the operation. -/
theorem ceCopy_stopped {t : State} {e : Ans} {a : Nat} {kind : AccessKind} (h : s.startable k 0 0 o) (hr : s.runsAs s1 k o o1)
    (hm : o1.moved < o.flit 3 % 2 ^ 32) (he : o1.stage = []) (hread : o.copyRead (o.flit 3 % 2 ^ 32) s1 o1 = (t, .error (e, a, kind))) :
    exec (.ceCopy k 1) s = .next (t.stopOp k o1 e a kind) := by
  rw [exec_ceCopy h hr]
  refine congrArg Host.Outcome.next (State.unitsFrom_stopped (parts := 0) (fuel := 79) ?_ hm rfl)
  rw [copyStep_read hr.same he, hread]
  rfl

/-- The bytes of the elements of a run, converted by the rules of `cvt` (R147). -/
def convertRun (x y : BitVec 3) (sat : Bool) (bs : List Byte) : List Byte :=
  ((elementsOf (elemBytes x.toNat) bs).map fun v => natBytes (elemBytes y.toNat) (convertLane x y sat v)).flatten

/-- What `ce.copyc` reads next of its source. -/
def EngineOp.convertRead (o : EngineOp) (n ex : Nat) (x : State) (p : EngineOp) : Got (List Byte) :=
  x.fetchRun p (o.flit 1 + p.progress * ex) (unitRoom (o.flit 1 + p.progress * ex) (n * ex - p.progress * ex))

/-- A step of `ce.copyc`. -/
def State.convertStep (s : State) (p : EngineOp) (n : Nat) (x y : BitVec 3) (sat : Bool) : Got EngineOp :=
  if p.stage.isEmpty then
    Got.andThen (p.convertRead n (elemBytes x.toNat) s p) fun s bs => (s, .ok { p with stage := convertRun x y sat bs })
  else s.writeStage p (p.flit 2 + p.moved) (elemBytes y.toNat)

theorem convertStep_read {s : State} {p : EngineOp} (n : Nat) (x y : BitVec 3) (sat : Bool) (hs : o.same p) (he : p.stage = []) :
    s.convertStep p n x y sat =
      Got.andThen (o.convertRead n (elemBytes x.toNat) s p) fun s bs => (s, .ok { p with stage := convertRun x y sat bs }) := by
  simp only [State.convertStep, he, List.isEmpty_nil, if_true, EngineOp.convertRead, hs.flit]

theorem convertStep_write {s : State} {p : EngineOp} (n : Nat) (x y : BitVec 3) (sat : Bool) (hs : o.same p) (he : p.stage ≠ []) :
    s.convertStep p n x y sat = s.writeStage p (o.flit 2 + p.moved) (elemBytes y.toNat) := by
  rw [State.convertStep, if_neg (by simpa using he), hs.flit]

section
variable {x y : BitVec 3} {sat : Bool} (h : s.startable k 0 1 o) (hr : s.runsAs s1 k o o1) (hx : x.toNat = o.flit 4 % 8)
  (hy : y.toNat = o.flit 4 / 256 % 8) (hsat : sat = decide (o.flit 4 / 65536 % 2 = 1))
include h hr hx hy hsat

theorem exec_ceCopyc : exec (.ceCopyc k 1) s =
    .next (s1.unitsFrom k o1 (s1, o1) (o.flit 3 % 2 ^ 32 * elemBytes y.toNat) 1 (stepFuel 1) (endsUnit (o.flit 2)) fun s p =>
      s.convertStep p (o.flit 3 % 2 ^ 32) x y sat) := by
  have hx' : BitVec.ofNat 3 (o.flit 4 % 2 ^ 3) = x := by
    rw [show o.flit 4 % 2 ^ 3 = x.toNat from hx.symm, BitVec.ofNat_toNat, BitVec.setWidth_eq]
  have hy' : BitVec.ofNat 3 (bitsOf (o.flit 4) 8 3) = y := by
    rw [show bitsOf (o.flit 4) 8 3 = y.toNat from hy.symm, BitVec.ofNat_toNat, BitVec.setWidth_eq]
  have hs' : decide (bitsOf (o.flit 4) 16 1 = 1) = sat := hsat.symm
  refine (congrArg Host.Outcome.next (State.runOp_runs h hr)).trans ?_
  simp only [State.runUnits, hr.same.flit, bitsOf_zero, hx', hy', hs']
  rfl

theorem ceCopyc_moves : Moves s s1 k o o1 (.ceCopyc k 1) (o.flit 3 % 2 ^ 32 * elemBytes y.toNat) (elemBytes y.toNat)
    (Filled (o.convertRead (o.flit 3 % 2 ^ 32) (elemBytes x.toNat)) (convertRun x y sat)) (fun p => o.flit 2 + p.moved)
    (fun _ p => (o.flit 2 + p.moved) % 8 = 0) :=
  moves_of_carries (exec_ceCopyc h hr hx hy hsat) hr.same (by decide)
    (carries_filled (fun _ _ hs he => convertStep_read _ x y sat hs he) fun _ _ hs he => convertStep_write _ x y sat hs he)
    fun q r _ _ => endsUnit_iff _ q r

end

/-! ### `ce.fill` (R177) -/

/-- A step of `ce.fill`. -/
def State.fillStep (s : State) (p : EngineOp) : Got EngineOp :=
  if p.stage.isEmpty then (s, .ok { p with stage := natBytes 8 (p.flit 3) }) else s.writeStage p (p.flit 1 + p.moved) 1

theorem exec_ceFill (h : s.startable k 0 2 o) (hr : s.runsAs s1 k o o1) : exec (.ceFill k 1) s =
    .next (s1.unitsFrom k o1 (s1, o1) (o.flit 2 % 2 ^ 32) 1 (stepFuel 1) (endsUnit (o.flit 1)) State.fillStep) := by
  refine (congrArg Host.Outcome.next (State.runOp_runs h hr)).trans ?_
  simp only [State.runUnits, hr.same.flit, bitsOf_zero]
  rfl

theorem natBytes_length (n v : Nat) : (natBytes n v).length = n := by simp [natBytes]

/-- The pattern is put in the stage, and written at an aligned address it ends the unit. -/
theorem ceFill_pattern {u : State} (h : s.startable k 0 2 o) (hr : s.runsAs s1 k o o1) (hm : o1.moved < o.flit 2 % 2 ^ 32)
    (he : o1.stage = []) (ha : (o.flit 1 + o1.moved) % 8 = 0)
    (hput : s1.putBytes { o1 with stage := natBytes 8 (o.flit 3) } (o.flit 1 + o1.moved) (natBytes 8 (o.flit 3)) = (u, .ok ())) :
    exec (.ceFill k 1) s = .next ((u.opProgress o).setOp k
      ((({ o1 with stage := natBytes 8 (o.flit 3) } : EngineOp).wrote 8 1).finished (o.flit 2 % 2 ^ 32))) := by
  have hroom : unitRoom (o.flit 1 + o1.moved) (natBytes 8 (o.flit 3)).length = 8 := by
    rw [unitRoom, natBytes_length, ha]
    rfl
  have hread : State.fillStep s1 o1 = (s1, .ok { o1 with stage := natBytes 8 (o.flit 3) }) := by
    rw [State.fillStep, he, List.isEmpty_nil, if_pos rfl, hr.same.flit]
  have htake : (natBytes 8 (o.flit 3)).take 8 = natBytes 8 (o.flit 3) := List.take_of_length_le (Nat.le_of_eq (natBytes_length 8 _))
  have hwrite : s1.fillStep { o1 with stage := natBytes 8 (o.flit 3) } =
      (u, .ok (({ o1 with stage := natBytes 8 (o.flit 3) } : EngineOp).wrote 8 1)) := by
    have hw := State.writeStage_ok (unit := 1) (t := s1) (u := u) (q := { o1 with stage := natBytes 8 (o.flit 3) })
      (a := o.flit 1 + o1.moved) (by rw [hroom, htake]; exact hput)
    rw [hroom] at hw
    rw [← hw, ← hr.same.flit 1]
    rfl
  rw [exec_ceFill h hr, State.unitsFrom_last (.one hread rfl) hm hwrite _ _ (by decide)]
  · rw [show (u.opProgress { o1 with stage := natBytes 8 (o.flit 3) }) = u.opProgress o from hr.same.opProgress u]
  · show o1.moved + 8 ≠ o1.moved
    omega
  · refine .inr ((endsUnit_iff _ _ _).mp ?_)
    show (o.flit 1 + (o1.moved + 8)) % 8 = 0
    omega

/-! ### `ce.plane` (R152, R177) -/

/-- What `ce.plane` reads next of a tile of its source. -/
def EngineOp.planeRead (o : EngineOp) (q : Nat) (x : State) (p : EngineOp) : Got (List Byte) :=
  let a := o.flit 1 + p.moved / imageBytes q * imageBytes q + p.stage.length
  x.fetchRun p a (unitRoom a (imageBytes q - p.stage.length))

theorem exec_cePlane (h : s.startable k 0 3 o) (hr : s.runsAs s1 k o o1) : exec (.cePlane k 1) s =
    .next (s1.unitsFrom k o1 (s1, o1) ((o.flit 3 / 256 % 256 + 1) * imageBytes (o.flit 3 % 4)) 1 (1 + imageBytes (o.flit 3 % 4))
      (endsUnit (o.flit 2)) fun s p => s.planeStep p (o.flit 3 % 4) (p.flit 2) (p.planeRead (o.flit 3 % 4))) := by
  refine (congrArg Host.Outcome.next (State.runOp_runs h hr)).trans ?_
  simp only [State.runUnits, hr.same.flit, bitsOf_zero]
  rfl

theorem cePlane_images (h : s.startable k 0 3 o) (hr : s.runsAs s1 k o o1) :
    Images s s1 k o o1 (.cePlane k 1) (o.flit 3 % 4) ((o.flit 3 / 256 % 256 + 1) * imageBytes (o.flit 3 % 4)) (o.planeRead (o.flit 3 % 4)) :=
  images_of_planeStep (exec_cePlane h hr) hr.same (by omega) fun x p hs => by
    simp only [State.planeStep, EngineOp.planeRead, hs.flit]

/-! ### `ce.gather` and `ce.scatter` (R177) -/

section
variable {e : Nat} {p : EngineOp} {x : State} {src dst : Nat → Nat}

theorem indexedStep_index (hs : o.same p) (hi : p.index = none) : x.indexedStep p e src dst =
    Got.andThen (x.fetchIndex p (o.flit 1) p.progress) fun s i => (s, .ok { p with index := some i }) := by
  simp only [State.indexedStep, hi, hs.flit]

theorem indexedStep_read {j : Nat} (hi : p.index = some j) (he : p.stage = []) : x.indexedStep p e src dst =
    Got.andThen (x.fetchRun p (src j + p.moved % e) (unitRoom (src j + p.moved % e) (e - p.moved % e))) fun s bs =>
      (s, .ok { p with stage := bs }) := by
  simp only [State.indexedStep, hi, he, List.isEmpty_nil, if_true, State.fetchUnit]

theorem indexedStep_write {j : Nat} (hi : p.index = some j) (he : p.stage ≠ []) : x.indexedStep p e src dst =
    x.writeStage p (dst j + p.moved % e) e := by
  have hf : p.stage.isEmpty = false := by simpa using he
  simp only [State.indexedStep, hi, hf]
  rfl

end

/-- What `ce.gather` reads next of the element that the index word names. -/
def EngineOp.gatherRead (o : EngineOp) (e : Nat) (x : State) (p : EngineOp) (j : Nat) : Got (List Byte) :=
  let a := o.flit 2 + j * e + p.moved % e
  x.fetchRun p a (unitRoom a (e - p.moved % e))

/-- What `ce.scatter` reads next of the element in its turn. -/
def EngineOp.scatterRead (o : EngineOp) (e : Nat) (x : State) (p : EngineOp) (_ : Nat) : Got (List Byte) :=
  let a := o.flit 2 + p.moved / e * e + p.moved % e
  x.fetchRun p a (unitRoom a (e - p.moved % e))

/-- Where the next byte of an element of `ce.scatter` goes. -/
def EngineOp.target (o : EngineOp) (e : Nat) (p : EngineOp) : Nat := o.flit 3 + (p.index.getD 0) * e + p.moved % e

theorem exec_ceGather (h : s.startable k 0 4 o) (hr : s.runsAs s1 k o o1) : let e := o.flit 4 / 2 ^ 32 % 2 ^ 16
    exec (.ceGather k 1) s = .next (s1.unitsFrom k o1 (s1, o1) (o.flit 4 % 2 ^ 32 * e) 1 (stepFuel 1) (endsUnit (o.flit 3)) fun s p =>
      s.indexedStep p e (fun i => p.flit 2 + i * e) fun _ => p.flit 3 + p.moved / e * e) := by
  refine (congrArg Host.Outcome.next (State.runOp_runs h hr)).trans ?_
  simp only [State.runUnits, hr.same.flit, bitsOf_zero]
  rfl

theorem ceGather_moves (h : s.startable k 0 4 o) (hr : s.runsAs s1 k o o1) : let e := o.flit 4 / 2 ^ 32 % 2 ^ 16
    Moves s s1 k o o1 (.ceGather k 1) (o.flit 4 % 2 ^ 32 * e) e (Indexed (o.flit 1) (o.gatherRead e))
      (fun p => o.flit 3 + p.moved / e * e + p.moved % e) (fun _ p => (o.flit 3 + p.moved) % 8 = 0) :=
  moves_of_carries (exec_ceGather h hr) hr.same (by decide)
    (carries_indexed (fun _ _ hs hi => indexedStep_index hs hi)
      (fun _ _ _ hs hi he => by rw [indexedStep_read hi he, hs.flit]; rfl)
      fun _ _ _ hs hi he => by rw [indexedStep_write hi he, hs.flit])
    fun q r _ _ => endsUnit_iff _ q r

theorem exec_ceScatter (h : s.startable k 0 5 o) (hr : s.runsAs s1 k o o1) : let e := o.flit 4 / 2 ^ 32 % 2 ^ 16
    exec (.ceScatter k 1) s = .next (s1.unitsFrom k o1 (s1, o1) (o.flit 4 % 2 ^ 32 * e) 1 (stepFuel 1)
      (fun q p => decide (p.index ≠ q.index) || decide (p.target e p % 8 = 0)) fun s p =>
        s.indexedStep p e (fun _ => p.flit 2 + p.moved / e * e) fun i => p.flit 3 + i * e) := by
  refine (congrArg Host.Outcome.next (State.runOp_runs h hr)).trans ?_
  simp only [State.runUnits, hr.same.flit, bitsOf_zero]
  rfl

theorem ceScatter_moves (h : s.startable k 0 5 o) (hr : s.runsAs s1 k o o1) : let e := o.flit 4 / 2 ^ 32 % 2 ^ 16
    Moves s s1 k o o1 (.ceScatter k 1) (o.flit 4 % 2 ^ 32 * e) e (Indexed (o.flit 1) (o.scatterRead e)) (o.target e)
      (fun q p => p.index ≠ q.index ∨ o.target e p % 8 = 0) :=
  moves_of_carries (exec_ceScatter h hr) hr.same (by decide)
    (carries_indexed (fun _ _ hs hi => indexedStep_index hs hi)
      (fun _ _ _ hs hi he => by rw [indexedStep_read hi he, hs.flit]; rfl)
      fun _ _ _ hs hi he => by rw [indexedStep_write hi he, hs.flit, EngineOp.target, hi]; rfl)
    fun q r _ hs => by simp only [EngineOp.target, hs.flit, Bool.or_eq_true, decide_eq_true_eq]

/-! ### `co.compose` (R178, R179) -/

/-- The stick is read once: one that is not aligned ends the operation with ALIGN (R178). -/
theorem coCompose_misaligned (h : s.startable k 1 0 o) (hr : s.runsAs s1 k o o1) (hst : o1.stick = []) (ha : o.flit 3 % 4 ≠ 0) :
    exec (.coCompose k 1) s = .next (s1.setOp k { o1 with status := some stAlign }) := by
  refine (congrArg Host.Outcome.next (State.runOp_runs h hr)).trans ?_
  rw [if_pos (List.isEmpty_iff.mpr hst), State.readStick, hr.same.flit, if_pos ha]

/-- A stick that can be read is kept where it is legal, and ends the operation with ILLEGAL where it is not (R76, R178). -/
theorem coCompose_stick {t : State} {bs : List Byte} (h : s.startable k 1 0 o) (hr : s.runsAs s1 k o o1) (hst : o1.stick = [])
    (ha : o.flit 3 % 4 = 0) (hread : s1.fetchRun o1 (o.flit 3) 64 = (t, .ok bs)) : exec (.coCompose k 1) s =
      .next (t.setOp k (if (stickOf (stickWords bs)).ok (o.flit 4) imageBytes then { o1 with stick := stickWords bs }
        else { o1 with status := some stIllegal })) := by
  refine (congrArg Host.Outcome.next (State.runOp_runs h hr)).trans ?_
  rw [if_pos (List.isEmpty_iff.mpr hst), State.readStick, hr.same.flit, hr.same.flit, if_neg (by simpa using ha), hread]
  simp only
  split <;> rfl

section
variable (h : s.startable k 1 0 o) (hr : s.runsAs s1 k o o1) (hst : o1.stick ≠ [])
include h hr hst

theorem exec_coCompose : let st := stickOf o1.stick
    exec (.coCompose k 1) s = .next (s1.unitsFrom k o1 (s1, o1) st.bytes 1 (stepFuel 1 + (st.plane.map imageBytes).getD 0)
      (endsUnit (o.flit 2)) fun s p => s.composeStep p st) := by
  refine (congrArg Host.Outcome.next (State.runOp_runs h hr)).trans ?_
  rw [if_neg (by simpa using hst), hr.same.flit]
  rfl

theorem coCompose_moves (hp : (stickOf o1.stick).plane = none) : let st := stickOf o1.stick
    Moves s s1 k o o1 (.coCompose k 1) st.bytes 1 (Filled (fun x p => x.walkElement p st (p.moved / st.emit.getD 1)) id)
      (fun p => o.flit 2 + p.moved) (fun _ p => (o.flit 2 + p.moved) % 8 = 0) :=
  moves_of_carries (exec_coCompose h hr hst) hr.same (Nat.le_add_right_of_le (by decide))
    (carries_filled (fun x p hs he => by simp only [State.composeStep, hp, he, List.isEmpty_nil, if_true, id])
      fun x p hs he => by
        have hf : p.stage.isEmpty = false := by simpa using he
        simp only [State.composeStep, hp, hf, hs.flit]
        rfl)
    fun q r _ _ => endsUnit_iff _ q r

theorem coCompose_images {q : Nat} (hp : (stickOf o1.stick).plane = some q) : let st := stickOf o1.stick
    Images s s1 k o o1 (.coCompose k 1) q st.bytes fun x p =>
      x.walkElement p st (p.moved / imageBytes q * imageBytes q + p.stage.length) :=
  images_of_planeStep (exec_coCompose h hr hst) hr.same (by rw [hp, Option.map_some, Option.getD_some, stepFuel]; omega) fun x p hs => by
    simp only [State.composeStep, hp, hs.flit]

end
end

/-- Settles O51: the start that all operations share, then the loop of each. -/
theorem engineOperations : Obligations.EngineOperations := by
  unfold Obligations.EngineOperations
  intro s s1 k o o1 ho hst hs hh ready begun runs fin filled indexed moves aligned images
  have startable {c n : Nat} (hc : msgClass o.header = c) (hn : msgOp o.header = n) : s.startable k c n o := ⟨ho, hc, hn, hst, hs, hh⟩
  refine ⟨fun i st units hi => ?_, fun hbad => ?_, fun hr hc => ?_, fun hr hc hn => ?_⟩
  · obtain ⟨run, he⟩ := exec_engine_runOp s hi
    rw [he]
    refine ⟨fun hready hk => ?_, fun hns ha hm => ?_, fun hns ha => ?_, fun hs ha => ?_, fun hs ha hi => ?_⟩
    · rw [State.runOp_checkFails (startable rfl rfl) hready hk]
    · rw [State.runOp_mayNotStart (startable rfl rfl) hns ha hm]
    · rw [State.runOp_mustAwait (startable rfl rfl) hns ha]
    · rw [State.runOp_awaitsCommit (startable rfl rfl) hs ha]
    · rw [State.runOp_invalid (startable rfl rfl) hs ha hi]
      rfl
  · rw [EngineOp.check, hbad]
    rfl
  · refine ⟨fun hn => ⟨ceCopy_moves (startable hc hn) hr, fun t a hm he => ⟨fun hread => ?_, fun hread => ?_⟩⟩,
      fun x y sat hn hx hy hsat => ceCopyc_moves (startable hc hn) hr hx hy hsat,
      fun u hn hm he ha hput => ceFill_pattern (startable hc hn) hr hm he ha hput,
      fun hn => cePlane_images (startable hc hn) hr, fun _ => ⟨fun hn => ?_, fun hn => ?_⟩⟩
    · exact ceCopy_stopped (startable hc hn) hr hm he hread
    · exact ceCopy_stopped (startable hc hn) hr hm he hread
    · exact ceGather_moves (startable hc hn) hr
    · exact ceScatter_moves (startable hc hn) hr
  · refine ⟨fun t bs hstick => ⟨coCompose_misaligned (startable hc hn) hr hstick, coCompose_stick (startable hc hn) hr hstick⟩,
      fun hstick => ⟨coCompose_moves (startable hc hn) hr hstick, fun q => coCompose_images (startable hc hn) hr hstick⟩⟩

end Sys2Proof.Machine
end

section
/-! PROOF. The system instructions, and the word that cannot be fetched (O15). -/

namespace Sys2Proof.Machine

/-! ### A trap that has a handler (R85) -/

section
variable {s : State} (kind : BitVec 8) (tval : Word) (code : BitVec 16) (h : s.cur.tvec ≠ 0)
include h

/-- The thread enters its handler from the state in which its issue group has ended. -/
theorem State.trapCode_enters : let u := s.giveBack.endGroupOf s.curSheet s.curCtx
    s.trapCode kind tval code = u.setCur (u.cur.enter (syncCause kind) tval) := by
  intro u
  have hs : u.curSheet = s.curSheet := by
    unfold u State.endGroupOf; simp only []; split <;> rfl
  have hc : u.curCtx = s.curCtx := by
    unfold u State.endGroupOf; simp only []; split <;> rfl
  have ht : u.cur.tvec = s.cur.tvec := by
    have e := congrArg Thread.tvec (State.thread_endGroupOf s.giveBack s.curSheet s.curCtx)
    rw [show s.giveBack.thread s.curSheet s.curCtx = s.cur from s.giveBack_cur] at e
    rw [State.cur, hs, hc]
    exact e
  exact if_neg (by rw [ht]; exact h)

theorem State.entering_trapCode : (s.trapCode kind tval code).cur.entering = true := by
  rw [State.trapCode_enters kind tval code h, State.cur_setCur]
  rfl

theorem State.insts_trapCode : (s.trapCode kind tval code).insts = s.insts := by
  rw [State.trapCode_enters kind tval code h, State.setCur_insts]
  unfold State.endGroupOf
  simp only []
  split <;> rfl

end

/-! ### The end of a launch leaves the rest of the tenancy (R303) -/

/-- From `s` to `t` no VF, record, bulkhead state or waiting record write changes, no operation is added, and each slice keeps its VF. -/
structure SameTenancy (s t : State) : Prop where
  vfs : t.vfs = s.vfs
  records : t.drover.records = s.drover.records
  writes : t.drover.recordWrites = s.drover.recordWrites
  states : ∀ b, (t.bulkhead b).state = (s.bulkhead b).state
  ops : t.ops ⊆ s.ops
  slices : ∀ k, (aget? t.slices k).map Slice.vf = (aget? s.slices k).map Slice.vf

theorem SameTenancy.refl (s : State) : SameTenancy s s := ⟨rfl, rfl, rfl, fun _ => rfl, List.Subset.refl _, fun _ => rfl⟩

theorem SameTenancy.trans {s t u : State} (h : SameTenancy s t) (h' : SameTenancy t u) : SameTenancy s u where
  vfs := h'.vfs.trans h.vfs
  records := h'.records.trans h.records
  writes := h'.writes.trans h.writes
  states b := (h'.states b).trans (h.states b)
  ops := List.Subset.trans h'.ops h.ops
  slices k := (h'.slices k).trans (h.slices k)

/-- A change of the bulkheads that keeps each one's state. -/
theorem State.state_amap_bulkheads {s t : State} {f : Nat → Bulkhead → Bulkhead} (ht : t.bulkheads = amap s.bulkheads f)
    (hf : ∀ n b, (f n b).state = b.state) (b : Nat) : (t.bulkhead b).state = (s.bulkhead b).state := by
  rw [State.bulkhead, ht, State.bulkhead, agetD, agetD, aget?_amap]
  cases aget? s.bulkheads b with
  | none => rfl
  | some v => exact hf b v

theorem State.foldl_freeRanges (l : List Nat) (s : State) :
    l.foldl State.freeRanges s = { s with sheets := (l.foldl State.freeRanges s).sheets } := by
  induction l generalizing s with
  | nil => rfl
  | cons k r ih => exact ih (s.freeRanges k)

theorem State.sameTenancy_dropOps (s : State) (ids : List Nat) : SameTenancy s (s.dropOps ids) := by
  rw [State.dropOps, State.foldl_freeRanges]
  exact ⟨rfl, rfl, rfl, fun _ => rfl, List.filter_sublist.subset, fun _ => rfl⟩

/-- A change of one slice changes nothing else. -/
theorem State.updSlice_eq (s : State) (id : Nat) (f : Slice → Slice) : s.updSlice id f = { s with slices := (s.updSlice id f).slices } := by
  unfold State.updSlice
  split <;> rfl

theorem State.sameTenancy_updSlice (s : State) (id : Nat) {f : Slice → Slice} (hf : ∀ x, (f x).vf = x.vf) :
    SameTenancy s (s.updSlice id f) := by
  have hs (k : Nat) : (aget? (s.updSlice id f).slices k).map Slice.vf = (aget? s.slices k).map Slice.vf := by
    unfold State.updSlice
    split
    · next x hx =>
      by_cases hk : k = id
      · subst hk
        simp [State.setSlice, hx, hf]
      · rw [State.setSlice, aget?_aset_other _ _ hk]
    · rfl
  rw [State.updSlice_eq]
  exact ⟨rfl, rfl, rfl, fun _ => rfl, List.Subset.refl _, hs⟩

theorem State.sameTenancy_payEnergy (s : State) (i : Inst) (now : Bool) : SameTenancy s (s.payEnergy i now) := by
  unfold State.payEnergy
  extract_lets e u
  have hu : SameTenancy s u := ⟨rfl, rfl, rfl, fun _ => rfl, List.Subset.refl _, fun _ => rfl⟩
  exact hu.trans (u.sameTenancy_updSlice i.slice fun _ => rfl)

theorem State.insts_payEnergy (s : State) (i : Inst) (now : Bool) : (s.payEnergy i now).insts = s.insts := by
  rw [State.payEnergy, State.updSlice_eq]

section
variable {s : State} (hw : s.drover.recordWrites = [])
include hw

/-- Where no record write waits, a phase boundary lets waiting windows into effect and does nothing else (R282). -/
theorem State.boundary_eq (tenant : Nat) : s.boundary tenant = if s.phaseRuns tenant then s
    else { s with bulkheads := amap s.bulkheads fun _ b => if b.tag.toNat = tenant then b.applyWindows else b } := by
  have hd : { s.drover with recordWrites := [] } = s.drover := by rw [← hw]
  unfold State.boundary
  simp only [hw, List.filter_nil, List.foldl_nil, State.updDrover, hd]

theorem State.sameTenancy_boundary (tenant : Nat) : SameTenancy s (s.boundary tenant) := by
  rw [State.boundary_eq hw]
  split
  · exact .refl s
  · refine ⟨rfl, rfl, rfl, State.state_amap_bulkheads (f := fun _ b => if b.tag.toNat = tenant then b.applyWindows else b) rfl ?_,
      List.Subset.refl _, fun _ => rfl⟩
    intro _ b
    split <;> rfl

theorem State.insts_boundary (tenant : Nat) : (s.boundary tenant).insts = s.insts := by
  rw [State.boundary_eq hw]
  split <;> rfl

end

section
variable {s : State} {id : Nat} {i : Inst} (hw : s.drover.recordWrites = [])
include hw

theorem State.freeChase_parts : SameTenancy s (s.freeChase id i) ∧ (s.freeChase id i).insts = adel s.insts id := by
  have hp := s.sameTenancy_payEnergy i true
  unfold State.freeChase
  extract_lets shs u d v
  have hv : SameTenancy u v := by
    refine ⟨rfl, rfl, rfl, State.state_amap_bulkheads
      (f := fun n b => if i.bulkheads.contains n then { b with phaseEnded := u.time } else b) rfl ?_, List.Subset.refl _, fun _ => rfl⟩
    intro _ b
    split <;> rfl
  have hvw : v.drover.recordWrites = [] := (hp.trans hv).writes.trans hw
  refine ⟨(hp.trans hv).trans (State.sameTenancy_boundary hvw _), (State.insts_boundary hvw _).trans ?_⟩
  show adel u.insts id = adel s.insts id
  rw [State.insts_payEnergy]

theorem State.removeInst_parts (hi : aget? s.insts id = some i) :
    SameTenancy s (s.removeInst id) ∧ (s.removeInst id).insts = adel s.insts id := by
  rw [State.removeInst, hi]
  simp only
  have hd := s.sameTenancy_dropOps (s.opsSinceCut id i.cutsDone)
  have he (u : State) : SameTenancy u (u.updDrover fun d => d.endReplay id) :=
    ⟨rfl, rfl, rfl, fun _ => rfl, List.Subset.refl _, fun _ => rfl⟩
  have hu := (hd.trans (he _)).trans (State.sameTenancy_updSlice _ i.slice (f := fun x => { x with lastCut := i.lastCut }) fun _ => rfl)
  obtain ⟨hf, hins⟩ := State.freeChase_parts (id := id) (i := i) (hu.writes.trans hw)
  refine ⟨hu.trans hf, hins.trans ?_⟩
  rw [State.updSlice_eq]
  exact congrArg (adel · id) (State.insts_dropOps s _)

end

/-! ### A reset that meets nothing (R294) -/

theorem State.dropOps_nil (s : State) : s.dropOps [] = s := by
  have ho : (s.dropOps []).ops = s.ops := List.filter_eq_self.mpr fun _ _ => rfl
  have hp : (s.dropOps []).package.packets = s.package.packets := List.filter_eq_self.mpr fun _ _ => rfl
  have ht : (s.dropOps []).drover.tags = s.drover.tags := List.filter_eq_self.mpr fun p _ => by cases p.2.who <;> rfl
  have h : s.dropOps [] = { s with
      ops := (s.dropOps []).ops, package := { s.package with packets := (s.dropOps []).package.packets },
      drover := { s.drover with tags := (s.dropOps []).drover.tags } } := rfl
  rw [h, ho, hp, ht]

/-- A bulkhead whose sheets have issued nothing has nothing to cancel. -/
theorem State.cancelOps_none {s : State} {bh : Nat} (h : s.opsFrom bh = []) : s.cancelOps bh = s := by
  rw [State.cancelOps, h]
  exact s.dropOps_nil

theorem State.attestedChange_untrusted {s : State} {n : Nat} (h : s.tdiRuns n = false) : s.attestedChange n = s := by
  rw [State.attestedChange, h]
  rfl

theorem State.foldl_attestedChange {s : State} {l : List Nat} (h : ∀ n ∈ l, s.tdiRuns n = false) : l.foldl State.attestedChange s = s := by
  induction l with
  | nil => rfl
  | cons n r ih =>
    rw [List.foldl_cons, State.attestedChange_untrusted (h n List.mem_cons_self)]
    exact ih fun m hm => h m (List.mem_cons_of_mem n hm)

/-- What the hypervisor is shown of the holders is the drover's alone. -/
theorem State.foldl_setMask (l : List Nat) (bh : Nat) (v : Bool) (s : State) :
    ∃ d, l.foldl (fun s t => s.setMask t bh v) s = { s with drover := d } := by
  induction l generalizing s with
  | nil => exact ⟨s.drover, rfl⟩
  | cons n r ih => exact ih (s.setMask n bh v)

/-- A reset of a bulkhead without operations, formes and attested tenants puts it in RESET, and changes nothing else but what the
drover keeps of its holders. -/
theorem State.resetBh_quiet {s : State} {bh : Nat} (ha : (s.bulkhead bh).state = .active)
    (ht : ∀ n ∈ (s.bulkhead bh).holders, s.tdiRuns n = false) (ho : s.opsFrom bh = []) (hi : s.instsOn bh = []) :
    ∃ b d, b.state = .reset ∧ s.resetBh bh false = { s.setBulkhead bh b with drover := d } := by
  unfold State.resetBh
  extract_lets b free u r v w x
  rw [if_pos (.inl ha)]
  have hu : u = s := State.foldl_attestedChange ht
  obtain ⟨d, hd⟩ : ∃ d, w = { v with drover := d } := by
    unfold w
    split
    · exact State.foldl_setMask _ _ _ v
    · exact ⟨v.drover, rfl⟩
  have hv : v = s.setBulkhead bh { s.bulkhead bh with
      state := .reset, busy := .resetLine, free := free, windows := [0, 0, 0, 0], windowWrites := [],
      nextTag := if free then 0 else b.tag } := by unfold v r; rw [hu]
  have hx : x = w := State.cancelOps_none (by rw [hd, hv]; exact ho)
  have hn : x.instsOn bh = [] := by rw [hx, hd, hv]; exact hi
  rw [hn, hx, hd, hv]
  exact ⟨_, d, rfl, rfl⟩

theorem State.tdiRuns_congr {s t : State} (hr : t.drover.records = s.drover.records) (hv : ∀ v, (t.vf v).tdi = (s.vf v).tdi) (n : Nat) :
    t.tdiRuns n = s.tdiRuns n := by
  have h : t.record n = s.record n := by rw [State.record, hr, State.record]
  simp only [State.tdiRuns, State.confidential, State.activeTenant, State.vfsOf, h, hv]

/-- Once the only forme on a bulkhead is gone, the bulkhead holds none. -/
theorem instsOn_removed {s t : State} {bh id : Nat} (h : s.instsOn bh = [id]) (ht : t.insts = adel s.insts id) : t.instsOn bh = [] := by
  rw [State.instsOn, List.map_eq_nil_iff, List.filter_eq_nil_iff, ht]
  intro p hp hb
  obtain ⟨hp, hne⟩ := List.mem_filter.mp hp
  have hmem : p.1 ∈ s.instsOn bh := List.mem_map_of_mem (List.mem_filter.mpr ⟨hp, hb⟩)
  rw [h, List.mem_singleton] at hmem
  exact (of_decide_eq_true hne) hmem

theorem State.completions_postCompletion (s : State) (vf : Nat) (c : Completion) :
    ((s.postCompletion vf c).vf vf).completions = (s.vf vf).completions ++ [c] := by
  rw [State.postCompletion, State.vf_setVf]

theorem State.tdi_postCompletion (s : State) (vf : Nat) (c : Completion) (v : Nat) : ((s.postCompletion vf c).vf v).tdi = (s.vf v).tdi := by
  unfold State.postCompletion
  by_cases h : v = vf
  · subst h
    rw [State.vf_setVf]
  · rw [State.vf_setVf_other _ _ h]

/-- The launch of a forme ends: forme and slice are gone, and one record of it waits for the VF of the slice. -/
theorem State.endLaunch_parts {s : State} {id : Nat} {i : Inst} {x : Slice} (kind : BitVec 8) (code : BitVec 16)
    (hw : s.drover.recordWrites = []) (hi : aget? s.insts id = some i) (hx : aget? s.slices i.slice = some x) (hid : x.inst = some id) :
    ∃ (r : State) (c : Completion), SameTenancy s r ∧ r.insts = adel s.insts id ∧ c.status = 2 ∧ c.kind = kind ∧
      s.endLaunch id kind code = ({ r with slices := adel r.slices i.slice } : State).postCompletion x.vf c := by
  obtain ⟨hs, hins⟩ := State.removeInst_parts hw hi
  obtain ⟨y, hy, hyv⟩ : ∃ y, aget? (s.removeInst id).slices i.slice = some y ∧ y.vf = x.vf := by
    have h := hs.slices i.slice
    rw [hx] at h
    exact Option.map_eq_some_iff.mp h
  refine ⟨s.removeInst id, y.completion (s.removeInst id).time 2 0 kind code, hs, hins, rfl, rfl, ?_⟩
  simp only [State.endLaunch, hi, hx, State.endSlice, hid, agetD, hy, Option.getD_some, hyv]

/-! ### A fetch outside the code region (R82, R306) -/

section
variable {s : State} (hc : inCode s.curCtx (s.fetchAddr s.curSheet s.curCtx).toNat = false)
include hc

/-- Of a thread that enters no handler it is a trap, of which EPC is the address fetched. -/
theorem exec_fetchFault_trap (he : s.cur.entering = false) (ht : s.cur.tvec ≠ 0) :
    let addr := s.fetchAddr s.curSheet s.curCtx
    exec .instructionFetchFault s = .next ((s.trap kAccess addr).setCur { (s.trap kAccess addr).cur with epc := addr }) := by
  have hent (addr : Word) : (s.trap kAccess addr).cur.entering = true := State.entering_trapCode kAccess addr 0 ht
  show execInstructionFetchFault s = _
  simp [execInstructionFetchFault, State.strayFetch, hc, he, hent]

/-- Of a thread that enters one it is a double fault; with no operation to cancel, the launch ends, if it is a thread of one, and the
bulkhead is reset. -/
theorem exec_fetchFault_double {u : State} (he : s.cur.entering = true) (ho : s.opsFrom (bhOf s.curSheet) = [])
    (hu : (s.curInst = none ∧ u = s) ∨ ∃ id i, s.curInst = some (id, i) ∧ u = s.endLaunch id kDoubleFault 0) :
    exec .instructionFetchFault s = .next (u.resetBh (bhOf s.curSheet) false) := by
  show execInstructionFetchFault s = _
  obtain ⟨hi, rfl⟩ | ⟨id, i, hi, rfl⟩ := hu <;>
    simp [execInstructionFetchFault, State.strayFetch, hc, he, State.cancelOps_none ho, hi]

theorem fetchFault_traps (he : s.cur.entering = false) (ht : s.cur.tvec ≠ 0) : let addr := s.fetchAddr s.curSheet s.curCtx
    ∃ t, exec .instructionFetchFault s = .next t ∧ t.mem = s.mem ∧ t.insts = s.insts ∧
      t.cur = { (s.trap 0x0A addr).cur with epc := addr } ∧ t.cur.pc = s.cur.tvec ∧ t.cur.tval = addr ∧ t.cur.regs = s.cur.regs ∧
      t.cur.cause = 0x7800000000000000 ||| 0x0A := by
  intro addr
  obtain ⟨-, hcause, htval, hpc, -, hregs, -⟩ := s.trapCode_handled kAccess addr 0 ht
  refine ⟨_, exec_fetchFault_trap hc he ht, State.trap_mem s kAccess addr, State.insts_trapCode kAccess addr 0 ht, ?_⟩
  rw [State.cur_setCur]
  exact ⟨rfl, hpc, htval, hregs, hcause⟩

/-- The double fault of a thread of no launch resets the bulkhead. -/
theorem fetchFault_resets (he : s.cur.entering = true) (hi : s.curInst = none) (ha : (s.bulkhead (bhOf s.curSheet)).state = .active)
    (ho : s.opsFrom (bhOf s.curSheet) = []) (hn : s.instsOn (bhOf s.curSheet) = []) (hh : (s.bulkhead (bhOf s.curSheet)).holders = []) :
    ∃ t, exec .instructionFetchFault s = .next t ∧ (t.bulkhead (bhOf s.curSheet)).state = .reset := by
  obtain ⟨b, d, hb, hr⟩ := State.resetBh_quiet ha (by simp [hh]) ho hn
  refine ⟨_, exec_fetchFault_double hc he ho (.inl ⟨hi, rfl⟩), ?_⟩
  rw [hr]
  exact (congrArg Bulkhead.state (State.bulkhead_setBulkhead s _ b)).trans hb

/-- The double fault of a thread of a launch ends the launch with DOUBLE_FAULT and resets the bulkhead. -/
theorem fetchFault_endsLaunch {id : Nat} {i : Inst} {x : Slice} (he : s.cur.entering = true) (hci : s.curInst = some (id, i))
    (hi : aget? s.insts id = some i) (hx : aget? s.slices i.slice = some x) (hid : x.inst = some id)
    (ha : (s.bulkhead (bhOf s.curSheet)).state = .active) (hn : s.instsOn (bhOf s.curSheet) = [id]) (ho : s.opsFrom (bhOf s.curSheet) = [])
    (hw : s.drover.recordWrites = []) (ht : ∀ n, s.tdiRuns n = false) :
    ∃ t c, exec .instructionFetchFault s = .next t ∧ (t.bulkhead (bhOf s.curSheet)).state = .reset ∧
      aget? t.insts id = none ∧ aget? t.slices i.slice = none ∧
      (t.vf x.vf).completions = (s.vf x.vf).completions ++ [c] ∧ c.status = 2 ∧ c.kind = 0x0C := by
  obtain ⟨r, c, hr, hins, hstatus, hkind, hend⟩ := State.endLaunch_parts kDoubleFault 0 hw hi hx hid
  have hvf (n : Nat) : r.vf n = s.vf n := by rw [State.vf, hr.vfs, State.vf]
  let u := ({ r with slices := adel r.slices i.slice } : State).postCompletion x.vf c
  have huvf : (u.vf x.vf).completions = (s.vf x.vf).completions ++ [c] :=
    (State.completions_postCompletion _ _ c).trans (congrArg (·.completions ++ [c]) (hvf x.vf))
  have htdi (v : Nat) : (u.vf v).tdi = (s.vf v).tdi :=
    (State.tdi_postCompletion _ _ c v).trans (congrArg Vf.tdi (hvf v))
  have hops : u.opsFrom (bhOf s.curSheet) = [] := by
    rw [State.opsFrom, List.filter_eq_nil_iff] at ho ⊢
    exact fun p hp => ho p (hr.ops hp)
  obtain ⟨b, d, hb, hreset⟩ := State.resetBh_quiet (s := u) ((hr.states _).trans ha)
    (fun n _ => (State.tdiRuns_congr (t := u) hr.records htdi n).trans (ht n)) hops (instsOn_removed hn hins)
  refine ⟨_, c, exec_fetchFault_double hc he ho (.inr ⟨id, i, hci, hend.symm⟩), ?_⟩
  rw [hreset]
  refine ⟨(congrArg Bulkhead.state (State.bulkhead_setBulkhead u _ b)).trans hb, ?_, aget?_adel_same _ _, huvf, hstatus, hkind⟩
  show aget? r.insts id = none
  rw [hins, aget?_adel_same]

end

/-! ### Returning without a report to close (R114) -/

theorem State.closeReport_none {s : State} (h : ∀ id i, s.curInst = some (id, i) → i.openReport = none) : s.closeReport = s := by
  unfold State.closeReport
  split
  · rfl
  · next id i hi => simp [h id i hi]

theorem exec_eret_plain {s : State} (h : ∀ id i, s.curInst = some (id, i) → i.openReport = none) :
    exec .eret s = .next (s.setCur { s.cur with pc := s.cur.epc }) :=
  congrArg Host.Outcome.next (State.closeReport_none (s := s.goto s.cur.epc) h)

/-- Settles O15: each instruction by its meaning, the fetch that fails by the three cases of R82 and R306. -/
theorem systemInstructions : Obligations.SystemInstructions := by
  unfold Obligations.SystemInstructions
  intro s c w
  refine ⟨rfl, rfl, rfl, rfl, fun hc => ⟨fun he ht _ => fetchFault_traps hc he ht, fetchFault_resets hc,
    fun _ _ _ he => fetchFault_endsLaunch hc he⟩, fun hi => ?_, fun id i hi ho => ?_⟩
  · exact exec_eret_plain fun id i h => by rw [hi] at h; cases h
  · exact exec_eret_plain fun id' i' h => by rw [hi] at h; cases h; exact ho

end Sys2Proof.Machine
end

section
/-! PROOF. Stores and loads (O20): what is stored is read back, and nothing else changes. -/

namespace Sys2Proof.Machine

/-! ### The byte a forme reads at a location (R225) -/

/-- The byte a forme reads at a location: what it holds there, else memory. -/
def State.byteSeen (s : State) (inst x : Nat) : Byte :=
  (((aget? s.insts inst).map Inst.held).bind (aget? · x)).getD (s.mem.get x)

/-- Bytes loaded are the bytes seen, one by one. -/
theorem State.loadBytes_eq (s : State) (inst loc n : Nat) :
    s.loadBytes inst loc n = (List.range n).map fun k => s.byteSeen inst (loc + k) := by
  unfold State.loadBytes State.byteSeen
  cases aget? s.insts inst with
  | none => rfl
  | some i =>
    dsimp only
    split
    · next h => simp [List.isEmpty_iff.mp h, Memory.read]
    · rfl

theorem State.loadBytes_congr {s t : State} {inst loc n : Nat} (h : ∀ k < n, s.byteSeen inst (loc + k) = t.byteSeen inst (loc + k)) :
    s.loadBytes inst loc n = t.loadBytes inst loc n := by
  rw [State.loadBytes_eq, State.loadBytes_eq]
  exact List.map_congr_left fun k hk => h k (List.mem_range.mp hk)

/-! ### Bytes held -/

/-- Bytes held are found in their order, and no other held byte changes. -/
theorem aget?_holdBytes (h : Assoc Nat Byte) (loc x : Nat) (bs : List Byte) :
    aget? (holdBytes h loc bs) x = if loc ≤ x ∧ x < loc + bs.length then some (bs.getD (x - loc) 0) else aget? h x := by
  induction bs generalizing h loc with
  | nil => rw [if_neg (by simp)]; rfl
  | cons b r ih =>
    rw [holdBytes, ih, List.length_cons]
    rcases Nat.lt_trichotomy x loc with hlt | rfl | hgt
    · rw [if_neg (by omega), if_neg (by omega), aget?_aset_other _ _ (by omega)]
    · rw [if_neg (by omega), if_pos (by omega), aget?_aset_same, Nat.sub_self, List.getD_cons_zero]
    · have hin : (loc + 1 ≤ x ∧ x < loc + 1 + r.length) ↔ loc ≤ x ∧ x < loc + (r.length + 1) := by omega
      rw [aget?_aset_other _ _ (by omega), show x - loc = x - (loc + 1) + 1 by omega, List.getD_cons_succ]
      simp only [hin]

/-- Asking for cuts changes nothing that is held. -/
theorem State.held_wantCuts (s : State) (bh id : Nat) :
    (aget? (s.wantCuts bh).insts id).map Inst.held = (aget? s.insts id).map Inst.held := by
  simp only [State.wantCuts, aget?_amap, Option.map_map]
  congr 1
  funext i
  simp only [Function.comp_apply]
  split <;> rfl

/-! ### A store (R225, R229) -/

section
variable {s : State} {g : Agent} {loc : Nat} {bs : List Byte}

/-- A write by no forme, or to TS or SS, is made at once. -/
theorem State.storeBytes_direct (h : aget? s.insts g.inst = none ∨ isSheetScratch loc = true) :
    s.storeBytes g loc bs = { s with mem := s.mem.write loc bs } := by
  unfold State.storeBytes
  split
  · rfl
  · next i hi => rw [if_pos (h.resolve_left (by simp [hi]))]

variable {i : Inst} (hi : aget? s.insts g.inst = some i) (hs : isSheetScratch loc = false)
include hi hs

/-- Any other write leaves memory alone. -/
theorem State.storeBytes_held_mem : (s.storeBytes g loc bs).mem = s.mem := by
  simp only [State.storeBytes, hi, hs, Bool.false_eq_true, if_false]
  split <;> rfl

/-- It adds the bytes to what its forme holds, and to no other. -/
theorem State.held_storeBytes (id : Nat) : (aget? (s.storeBytes g loc bs).insts id).map Inst.held =
    if id = g.inst then some (holdBytes i.held loc bs) else (aget? s.insts id).map Inst.held := by
  have hset (j : Inst) : (aget? (s.setInst g.inst j).insts id).map Inst.held =
      if id = g.inst then some j.held else (aget? s.insts id).map Inst.held := by
    split
    · next h => simp [State.setInst, h]
    · next h => rw [State.setInst, aget?_aset_other _ _ h]
  simp only [State.storeBytes, hi, hs, Bool.false_eq_true, if_false]
  split
  · rw [State.held_wantCuts, hset]
  · rw [hset]

theorem State.byteSeen_storeBytes_own (x : Nat) : (s.storeBytes g loc bs).byteSeen g.inst x =
    if loc ≤ x ∧ x < loc + bs.length then bs.getD (x - loc) 0 else s.byteSeen g.inst x := by
  simp only [State.byteSeen, State.held_storeBytes hi hs, State.storeBytes_held_mem hi hs, if_true, Option.bind_some,
    aget?_holdBytes, hi, Option.map_some]
  split <;> rfl

theorem State.byteSeen_storeBytes_other {id : Nat} (x : Nat) (h : id ≠ g.inst) :
    (s.storeBytes g loc bs).byteSeen id x = s.byteSeen id x := by
  simp only [State.byteSeen, State.held_storeBytes hi hs, State.storeBytes_held_mem hi hs, if_neg h]

/-- The bytes stored are loaded again. -/
theorem State.loadBytes_storeBytes : (s.storeBytes g loc bs).loadBytes g.inst loc bs.length = bs := by
  rw [State.loadBytes_eq]
  refine List.ext_getElem (by simp) fun k hk _ => ?_
  have hk : k < bs.length := by simpa using hk
  rw [List.getElem_map, List.getElem_range, State.byteSeen_storeBytes_own hi hs, if_pos (by omega), Nat.add_sub_cancel_left,
    List.getD_eq_getElem?_getD, List.getElem?_eq_getElem hk, Option.getD_some]

end

/-- Settles O20: a direct write is a write of memory; a held one changes, of the bytes seen, those of its forme where it is made. -/
theorem storeThenLoad : Obligations.StoreThenLoad := by
  unfold Obligations.StoreThenLoad
  intro s g loc bs hwf
  refine ⟨fun hd => ?_, fun i hi hs => ⟨State.storeBytes_held_mem hi hs, fun _ => State.loadBytes_storeBytes hi hs,
    fun x hx => State.loadBytes_congr fun k hk => ?_,
    fun id x n hid => State.loadBytes_congr fun k _ => State.byteSeen_storeBytes_other hi hs _ hid⟩⟩
  · rw [State.storeBytes_direct hd]
    exact ⟨fun x => Memory.get_write hwf loc x bs, rfl⟩
  · obtain rfl : k = 0 := by omega
    rw [State.byteSeen_storeBytes_own hi hs, if_neg (by omega)]

end Sys2Proof.Machine
end

section
/-! PROOF. Accesses of the host through its BARs (part of O57): what waits, what fails, and what is read and written. -/

namespace Sys2Proof.Machine

/-! ### What waits (R226, R333) -/

/-- The state in which a request of the host waits as the last. -/
def State.queueHost (s : State) (r : HostRequest) : State := s.updPackage fun p => { p with hostWaits := p.hostWaits ++ [r] }

/-- No write waits on the link that a request comes on. -/
def State.linkFree (s : State) (link : Nat) : Prop := ∀ x ∈ s.package.hostWaits, x.isWrite = true → x.path.2.link ≠ link

section
variable {s t : State} {r : HostRequest}

theorem State.host_behind (h : ∃ x ∈ s.package.hostWaits, x.before r = true) : s.host r = s.queueHost r :=
  if_pos (List.any_eq_true.mpr h)

theorem State.linkFree.notBehind (h : s.linkFree r.path.2.link) : (s.package.hostWaits.any fun w => w.before r) = false := by
  refine List.any_eq_false.mpr fun x hx => ?_
  have := h x hx
  simp only [HostRequest.before, Bool.and_eq_true, decide_eq_true_eq, not_and]
  exact fun hw => absurd hw.2 (this hw.1)

theorem State.host_performed (h : s.linkFree r.path.2.link) (hp : s.perform r = (t, true)) : s.host r = t := by
  simp only [State.host, h.notBehind, hp, Bool.false_eq_true, if_false]

theorem State.host_held (h : s.linkFree r.path.2.link) (hp : s.perform r = (t, false)) : s.host r = t.queueHost r := by
  simp only [State.host, h.notBehind, hp, Bool.false_eq_true, if_false, State.queueHost]

end

/-! ### The bytes of an access (R334) -/

/-- The answers of bytes that may all be reached, from a location on. -/
def reached (d n : Nat) : List HostAns := (List.range n).map fun k => .ok (d + k) false

theorem reached_succ (d n : Nat) : reached d (n + 1) = .ok d false :: reached (d + 1) n := by
  simp only [reached, List.range_succ_eq_map, List.map_cons, List.map_map, Nat.add_zero, List.cons.injEq, true_and]
  exact List.map_congr_left fun k _ => by simp [Nat.add_right_comm, Nat.add_assoc]

theorem State.hostBytes_reached {s : State} {w : Window3} {write : Bool} {off d n : Nat}
    (h : ∀ k < n, s.hostByte w (off + k) write = (s, .ok (d + k) false)) : s.hostBytes w off n write = (s, reached d n) := by
  induction n generalizing off d with
  | zero => rfl
  | succ n ih =>
    have hr := ih (off := off + 1) (d := d + 1) fun k hk => by
      rw [Nat.add_assoc, Nat.add_assoc, Nat.add_comm 1]
      exact h (k + 1) (by omega)
    have h0 := h 0 (by omega)
    rw [Nat.add_zero, Nat.add_zero] at h0
    simp only [State.hostBytes, h0, hr, reached_succ]

theorem State.hostBytes_none (s : State) (off n : Nat) (write : Bool) : s.hostBytes .none off n write = (s, List.replicate n .ur) := by
  induction n generalizing off with
  | zero => rfl
  | succ n ih => simp only [State.hostBytes, State.hostByte, ih, List.replicate_succ]

theorem line_notin_reached (d n : Nat) : (reached d n).contains .line = false := by
  simp [reached]

theorem firstFailure_reached (d n : Nat) : firstFailure (reached d n) = none := by
  simp [firstFailure, reached]

theorem readStatus_reached (m : Memory) (d n : Nat) : readStatus m (reached d n) = .data (m.read d n) := by
  rw [readStatus, firstFailure_reached]
  simp [reached, Memory.read]

theorem Memory.scatter_performed_reached (m : Memory) (d : Nat) (bs : List Byte) :
    m.scatter (performed (reached d bs.length) bs) = m.write d bs := by
  induction bs generalizing m d with
  | nil => rfl
  | cons b r ih =>
    rw [List.length_cons, reached_succ, Memory.write, ← ih]
    rfl

/-- Bytes written are read back. -/
theorem Memory.read_write {m : Memory} (h : m.wf = true) (d : Nat) (bs : List Byte) : (m.write d bs).read d bs.length = bs := by
  refine List.ext_getElem (by simp [Memory.read]) fun k hk hk' => ?_
  simp only [Memory.read, List.getElem_map, List.getElem_range, Memory.get_write h]
  rw [if_pos (by omega), Nat.add_sub_cancel_left, List.getD_eq_getElem?_getD, List.getElem?_eq_getElem hk', Option.getD_some]

theorem Memory.get_write_outside {m : Memory} (h : m.wf = true) {d a : Nat} (bs : List Byte) (ha : a < d ∨ d + bs.length ≤ a) :
    (m.write d bs).get a = m.get a := by
  rw [Memory.get_write h, if_neg (by omega)]

/-! ### What reading a register changes (R335, R338) -/

theorem State.mem_readEffects (s : State) (fn bar off size : Nat) : (s.readEffects fn bar off size).mem = s.mem := by
  unfold State.readEffects
  extract_lets touches u
  (repeat' split) <;> rfl

theorem State.sent_readEffects (s : State) (fn bar off size : Nat) :
    (s.readEffects fn bar off size).package.sent = s.package.sent := by
  unfold State.readEffects
  extract_lets touches u
  (repeat' split) <;> rfl

/-! ### Each access by where it goes (R299, R334) -/

section
variable {s t : State} {fn bar off size : Nat} {bs : List Byte} {ide : Bool} {op : HostAtomicOp} {v c : Word} {l : List HostAns}

section
variable (h : s.outsideIde fn ide = true)
include h

theorem State.hostRead_outside : s.hostRead fn bar off size ide = (s.send (.host .ur), true) := by
  simp only [State.hostRead, h, if_true]

theorem State.hostWrite_outside : s.hostWrite fn bar off bs ide = (s, true) := by
  simp only [State.hostWrite, h, if_true]

theorem State.hostAtomic_outside : s.hostAtomic fn bar off size op v c ide = (s.send (.host .ur), true) := by
  simp only [State.hostAtomic, h, true_or, if_true]

end

section
variable (h : s.outsideIde fn ide = false) (hr : isRegisterBar fn bar = true)
include hr

theorem State.hostAtomic_register : s.hostAtomic fn bar off size op v c ide = (s.send (.host .ur), true) := by
  simp only [State.hostAtomic, hr, true_or, or_true, if_true]

include h

theorem State.hostRead_register : s.hostRead fn bar off size ide =
    ((s.send (.host (.data ((List.range size).map fun k => s.registerByte fn bar (off + k))))).readEffects fn bar off size, true) := by
  simp only [State.hostRead, h, hr, Bool.false_eq_true, if_false, if_true]

theorem State.hostWrite_register : s.hostWrite fn bar off bs ide = (s.writeRegisters fn bar off bs, true) := by
  simp only [State.hostWrite, h, hr, Bool.false_eq_true, if_false, if_true]

end

section
variable (h : s.outsideIde fn ide = false) (hr : isRegisterBar fn bar = false)
include h hr

theorem State.hostRead_window (hb : s.hostBytes (s.windowOf fn bar) off size false = (t, l)) : s.hostRead fn bar off size ide =
    if l.contains .line then (t, false) else (t.send (.host (readStatus t.mem l)), true) := by
  simp only [State.hostRead, h, hr, hb, Bool.false_eq_true, if_false]

theorem State.hostWrite_window (hb : s.hostBytes (s.windowOf fn bar) off bs.length true = (t, l)) : s.hostWrite fn bar off bs ide =
    if l.contains .line then (t, false) else (t.outsideWrite (performed l bs), true) := by
  simp only [State.hostWrite, h, hr, hb, Bool.false_eq_true, if_false]

variable (hs : size = 4 ∨ size = 8)
include hs

theorem State.hostAtomic_misaligned (ha : off % size ≠ 0) : s.hostAtomic fn bar off size op v c ide = (s.send (.host .ca), true) := by
  have hs' : ¬(size ≠ 4 ∧ size ≠ 8) := by omega
  simp only [State.hostAtomic, h, hr, hs', Bool.false_eq_true, or_self, if_false, ha, ne_eq, not_false_eq_true, if_true]

theorem State.hostAtomic_reached {d : Nat} (ha : off % size = 0)
    (hb : ∀ k < size, s.hostByte (s.windowOf fn bar) (off + k) false = (s, .ok (d + k) false)) :
    let old := s.mem.read d size
    let new := natBytes size (hostAtomicNew op (8 * size) (leNat old) v.toNat c.toNat)
    s.hostAtomic fn bar off size op v c ide = ((s.outsideWrite (performed (reached d size) new)).send (.host (.data old)), true) := by
  have hs' : ¬(size ≠ 4 ∧ size ≠ 8) := by omega
  simp only [State.hostAtomic, h, hr, hs', Bool.false_eq_true, or_self, if_false, ha, ne_eq, not_true_eq_false,
    State.hostBytes_reached hb, line_notin_reached, firstFailure_reached, readStatus_reached]

end

/-- The bytes of a write that are all performed are stored, and no others. -/
theorem State.outsideWrite_reached (hm : s.mem.wf = true) {n : Nat} (hl : bs.length = n) (d : Nat) :
    let u := s.outsideWrite (performed (reached d n) bs)
    u.mem.read d n = bs ∧ ∀ a, a < d ∨ d + n ≤ a → u.mem.get a = s.mem.get a := by
  subst hl
  have hu : (s.outsideWrite (performed (reached d bs.length) bs)).mem = s.mem.write d bs :=
    Memory.scatter_performed_reached s.mem d bs
  exact ⟨by rw [hu, Memory.read_write hm], fun a ha => by rw [hu, Memory.get_write_outside hm bs ha]⟩

end

/-! ### The instructions (R213, R332–R334) -/

section
variable {s t : State} {fn bar off size : Nat} {bs : List Byte} {h : HostPath} {op : HostAtomicOp} {v c : Word}

/-- A request that comes after no other is the access itself. -/
theorem exec_host_performed {r : HostRequest} {i : Instr} (hf : s.linkFree r.path.2.link) (hi : exec i s = .next (s.host r))
    (hp : s.perform r = (t, true)) : exec i s = .next t := by
  rw [hi, State.host_performed hf hp]

theorem exec_hostRead (hf : s.linkFree h.link) (hp : s.hostRead fn bar off size h.ide = (t, true)) :
    exec (.hostRead fn bar off size h) s = .next t :=
  exec_host_performed (r := .read fn bar off size h) hf rfl hp

theorem exec_hostWrite (hf : s.linkFree h.link) (hp : s.hostWrite fn bar off bs h.ide = (t, true)) :
    exec (.hostWrite fn bar off bs h) s = .next t :=
  exec_host_performed (r := .write fn bar off bs h) hf rfl hp

theorem exec_hostAtomic (hf : s.linkFree h.link) (hp : s.hostAtomic fn bar off size op v c h.ide = (t, true)) :
    exec (.hostAtomic fn bar off size op v c h) s = .next t :=
  exec_host_performed (r := .atomic fn bar off size op v c h) hf rfl hp

/-- Each access waits behind a write that comes before it. -/
theorem exec_host_behind : ∀ p ∈ [(Instr.hostRead fn bar off size h, HostRequest.read fn bar off size h),
      (.hostWrite fn bar off bs h, .write fn bar off bs h), (.hostAtomic fn bar off size op v c h, .atomic fn bar off size op v c h)],
    (∃ x ∈ s.package.hostWaits, x.before p.2 = true) → exec p.1 s = .next (s.queueHost p.2) := by
  intro p hp hx
  rw [← State.host_behind hx]
  simp only [List.mem_cons, List.not_mem_nil, or_false] at hp
  obtain rfl | rfl | rfl := hp <;> rfl

variable (hf : s.linkFree h.link)
include hf

theorem exec_host_outside (ho : s.outsideIde fn h.ide = true) :
    exec (.hostRead fn bar off size h) s = .next (s.send (.host .ur)) ∧ exec (.hostWrite fn bar off bs h) s = .next s ∧
    ∀ op v c, exec (.hostAtomic fn bar off size op v c h) s = .next (s.send (.host .ur)) :=
  ⟨exec_hostRead hf (State.hostRead_outside ho), exec_hostWrite hf (State.hostWrite_outside ho),
    fun _ _ _ => exec_hostAtomic hf (State.hostAtomic_outside ho)⟩

variable (ho : s.outsideIde fn h.ide = false)
include ho

theorem exec_host_registers (hr : isRegisterBar fn bar = true) :
    (∃ t, exec (.hostRead fn bar off size h) s = .next t ∧ t.package.sent = s.package.sent ++
        [.host (.data ((List.range size).map fun k => s.registerByte fn bar (off + k)))] ∧ t.mem = s.mem) ∧
    exec (.hostWrite fn bar off bs h) s = .next (s.writeRegisters fn bar off bs) ∧
    ∀ op v c, exec (.hostAtomic fn bar off size op v c h) s = .next (s.send (.host .ur)) :=
  ⟨⟨_, exec_hostRead hf (State.hostRead_register ho hr), State.sent_readEffects _ _ _ _ _, State.mem_readEffects _ _ _ _ _⟩,
    exec_hostWrite hf (State.hostWrite_register ho hr), fun _ _ _ => exec_hostAtomic hf (State.hostAtomic_register hr)⟩

variable (hr : isRegisterBar fn bar = false)
include hr

theorem exec_hostRead_noWindow (hw : s.windowOf fn bar = .none) (hs : 0 < size) :
    exec (.hostRead fn bar off size h) s = .next (s.send (.host .ur)) := by
  have hb := s.hostBytes_none off size false
  rw [← hw] at hb
  refine exec_hostRead hf ((State.hostRead_window ho hr hb).trans ?_)
  obtain ⟨n, rfl⟩ := Nat.exists_eq_add_one.mpr hs
  simp [readStatus, firstFailure, List.replicate_succ]

theorem exec_hostRead_reached {d : Nat} (hb : ∀ k < size, s.hostByte (s.windowOf fn bar) (off + k) false = (s, .ok (d + k) false)) :
    exec (.hostRead fn bar off size h) s = .next (s.send (.host (.data (s.mem.read d size)))) := by
  refine exec_hostRead hf ((State.hostRead_window ho hr (State.hostBytes_reached hb)).trans ?_)
  rw [line_notin_reached, readStatus_reached]
  rfl

theorem exec_hostRead_held {l : List HostAns} (hb : s.hostBytes (s.windowOf fn bar) off size false = (t, l)) (hl : l.contains .line = true) :
    exec (.hostRead fn bar off size h) s = .next (t.queueHost (.read fn bar off size h)) := by
  refine congrArg Host.Outcome.next (State.host_held (r := .read fn bar off size h) hf ?_)
  exact (State.hostRead_window ho hr hb).trans (if_pos hl)

variable (hm : s.mem.wf = true)
include hm

theorem exec_hostWrite_reached {d : Nat}
    (hb : ∀ k < bs.length, s.hostByte (s.windowOf fn bar) (off + k) true = (s, .ok (d + k) false)) :
    ∃ t, exec (.hostWrite fn bar off bs h) s = .next t ∧ t.mem.read d bs.length = bs ∧
    ∀ a, a < d ∨ d + bs.length ≤ a → t.mem.get a = s.mem.get a := by
  refine ⟨s.outsideWrite (performed (reached d bs.length) bs), exec_hostWrite hf ?_, State.outsideWrite_reached hm rfl d⟩
  rw [State.hostWrite_window ho hr (State.hostBytes_reached hb), line_notin_reached]
  rfl

theorem exec_hostAtomic_reached {d : Nat} (hs : size = 4 ∨ size = 8) (ha : off % size = 0)
    (hb : ∀ k < size, s.hostByte (s.windowOf fn bar) (off + k) false = (s, .ok (d + k) false)) :
    ∃ t, exec (.hostAtomic fn bar off size op v c h) s = .next t ∧
    t.package.sent = s.package.sent ++ [.host (.data (s.mem.read d size))] ∧
    t.mem.read d size = natBytes size (hostAtomicNew op (8 * size) (leNat (s.mem.read d size)) v.toNat c.toNat) ∧
    ∀ a, a < d ∨ d + size ≤ a → t.mem.get a = s.mem.get a := by
  exact ⟨_, exec_hostAtomic hf (State.hostAtomic_reached ho hr hs ha hb), rfl, State.outsideWrite_reached hm (natBytes_length _ _) d⟩

end

end Sys2Proof.Machine
end

section
/-! PROOF. Function Level Reset and the host links (part of O57): launches that end, and vectors that waited for a link. -/

namespace Sys2Proof.Machine

/-! ### Lists and folds -/

theorem mem_of_aget? {κ α : Type} [DecidableEq κ] {l : Assoc κ α} {k : κ} {v : α} (h : aget? l k = some v) : (k, v) ∈ l := by
  induction l with
  | nil => cases h
  | cons p r ih =>
    rw [aget?_cons] at h
    split at h
    · next hk => cases h; subst hk; exact List.mem_cons_self
    · exact List.mem_cons_of_mem _ (ih h)

theorem mem_aset {κ α : Type} [DecidableEq κ] {l : Assoc κ α} {k : κ} {v : α} {p : κ × α} (h : p ∈ aset l k v) : p = (k, v) ∨ p ∈ l := by
  induction l with
  | nil => exact .inl (List.mem_singleton.mp h)
  | cons q r ih =>
    unfold aset at h
    split at h
    · exact (List.mem_cons.mp h).imp_right (List.mem_cons_of_mem _)
    · obtain rfl | h := List.mem_cons.mp h
      · exact .inr List.mem_cons_self
      · exact (ih h).imp_right (List.mem_cons_of_mem _)

/-- What every step of a fold keeps, the fold keeps. -/
theorem State.foldl_same {α β : Type} (g : State → α) {f : State → β → State} (h : ∀ s x, g (f s x) = g s) (l : List β) (s : State) :
    g (l.foldl f s) = g s := by
  induction l generalizing s with
  | nil => rfl
  | cons x r ih => exact (ih (f s x)).trans (h s x)

/-! ### The end of a forme leaves the VFs alone, and gives no VF a slice (R303) -/

/-- From `s` to `t` no VF changes, and every slice stood in the list before, with its VF. -/
structure KeepsVfs (s t : State) : Prop where
  vfs : t.vfs = s.vfs
  slices : ∀ p ∈ t.slices, ∃ q ∈ s.slices, q.1 = p.1 ∧ q.2.vf = p.2.vf

theorem KeepsVfs.of_eq {s t : State} (hv : t.vfs = s.vfs) (hs : t.slices = s.slices) : KeepsVfs s t :=
  ⟨hv, fun p hp => ⟨p, hs ▸ hp, rfl, rfl⟩⟩

theorem KeepsVfs.refl (s : State) : KeepsVfs s s := .of_eq rfl rfl

theorem KeepsVfs.trans {s t u : State} (h : KeepsVfs s t) (h' : KeepsVfs t u) : KeepsVfs s u where
  vfs := h'.vfs.trans h.vfs
  slices p hp := by
    obtain ⟨q, hq, hk, hv⟩ := h'.slices p hp
    obtain ⟨o, ho, hk', hv'⟩ := h.slices q hq
    exact ⟨o, ho, hk'.trans hk, hv'.trans hv⟩

theorem State.keepsVfs_updSlice (s : State) (id : Nat) {f : Slice → Slice} (hf : ∀ x, (f x).vf = x.vf) : KeepsVfs s (s.updSlice id f) := by
  unfold State.updSlice
  split
  · next x hx =>
    refine ⟨rfl, fun p hp => ?_⟩
    obtain rfl | hp := mem_aset hp
    · exact ⟨(id, x), mem_of_aget? hx, rfl, (hf x).symm⟩
    · exact ⟨p, hp, rfl, rfl⟩
  · exact .refl s

theorem State.keepsVfs_dropOps (s : State) (ids : List Nat) : KeepsVfs s (s.dropOps ids) := by
  rw [State.dropOps, State.foldl_freeRanges]
  exact .of_eq rfl rfl

/-- Asking the bulkheads changes the bulkheads only. -/
theorem State.askBulkheads_eq (s : State) (tenant : Nat) (old new : BitVec 512) :
    s.askBulkheads tenant old new = { s with bulkheads := (s.askBulkheads tenant old new).bulkheads } := by
  have h : ({ s.askBulkheads tenant old new with bulkheads := [] } : State) = { s with bulkheads := [] } :=
    State.foldl_same (fun s : State => { s with bulkheads := [] }) (fun s n => by split <;> rfl) _ s
  exact congrArg (fun t : State => { t with bulkheads := (s.askBulkheads tenant old new).bulkheads }) h

theorem State.keepsVfs_applyWrite (s : State) (p : Nat × BitVec 512 × BitVec 512) : KeepsVfs s (s.applyWrite p) := by
  unfold State.applyWrite
  extract_lets r
  split
  · exact .of_eq rfl rfl
  · split
    · exact .of_eq rfl rfl
    · unfold State.applyRecord
      extract_lets old u w
      have hw : KeepsVfs s w := by unfold w; rw [State.askBulkheads_eq]; exact .of_eq rfl rfl
      split
      · exact hw
      · exact hw.trans (.of_eq rfl rfl)

theorem State.keepsVfs_boundary (s : State) (tenant : Nat) : KeepsVfs s (s.boundary tenant) := by
  have hfold (l : List (Nat × BitVec 512 × BitVec 512)) (u : State) : KeepsVfs u (l.foldl State.applyWrite u) := by
    induction l generalizing u with
    | nil => exact .refl u
    | cons p r ih => exact (u.keepsVfs_applyWrite p).trans (ih _)
  unfold State.boundary
  split
  · exact .refl s
  · extract_lets mine u v
    have hu : KeepsVfs s u := .of_eq rfl rfl
    exact (hu.trans (hfold mine u)).trans (.of_eq rfl rfl)

theorem State.keepsVfs_payEnergy (s : State) (i : Inst) (now : Bool) : KeepsVfs s (s.payEnergy i now) := by
  unfold State.payEnergy
  extract_lets e u
  have hu : KeepsVfs s u := .of_eq rfl rfl
  exact hu.trans (u.keepsVfs_updSlice i.slice fun _ => rfl)

theorem State.keepsVfs_freeChase (s : State) (id : Nat) (i : Inst) : KeepsVfs s (s.freeChase id i) := by
  unfold State.freeChase
  extract_lets shs u d v
  have hv : KeepsVfs u v := .of_eq rfl rfl
  exact ((s.keepsVfs_payEnergy i true).trans hv).trans (v.keepsVfs_boundary _)

theorem State.keepsVfs_removeInst (s : State) (id : Nat) : KeepsVfs s (s.removeInst id) := by
  unfold State.removeInst
  split
  · exact .refl s
  · next i _ =>
    have hr (u : State) : KeepsVfs u (u.updDrover fun d => d.endReplay id) := .of_eq rfl rfl
    have hu (u : State) : KeepsVfs u (u.updSlice i.slice fun x => { x with lastCut := i.lastCut }) := u.keepsVfs_updSlice _ fun _ => rfl
    exact (((s.keepsVfs_dropOps _).trans (hr _)).trans (hu _)).trans (State.keepsVfs_freeChase _ id i)

/-! ### Function Level Reset (R332) -/

/-- A slice that ends is gone. -/
theorem State.dropSlice_parts (s : State) (id : Nat) : KeepsVfs s (s.dropSlice id) ∧ ∀ p ∈ (s.dropSlice id).slices, p.1 ≠ id := by
  unfold State.dropSlice
  extract_lets u
  have hu : KeepsVfs s u := by
    unfold u
    split
    · exact s.keepsVfs_removeInst _
    · exact .refl s
  refine ⟨hu.trans ⟨rfl, fun p hp => ⟨p, (List.mem_filter.mp hp).1, rfl, rfl⟩⟩, fun p hp => ?_⟩
  exact of_decide_eq_true (List.mem_filter.mp hp).2

theorem State.foldl_dropSlice_parts (s : State) (l : List Nat) :
    KeepsVfs s (l.foldl State.dropSlice s) ∧ ∀ p ∈ (l.foldl State.dropSlice s).slices, p.1 ∉ l := by
  induction l generalizing s with
  | nil => exact ⟨.refl s, fun _ _ => List.not_mem_nil⟩
  | cons id r ih =>
    obtain ⟨hk, hgone⟩ := s.dropSlice_parts id
    obtain ⟨hkr, hgoner⟩ := ih (s.dropSlice id)
    refine ⟨hk.trans hkr, fun p hp => ?_⟩
    obtain ⟨q, hq, he, -⟩ := hkr.slices p hp
    exact List.not_mem_cons_of_ne_of_not_mem (he ▸ hgone q hq) (hgoner p hp)

theorem State.vfSlices_foldl_dropSlice (s : State) (vf : Nat) : ((s.vfSlices vf).foldl State.dropSlice s).vfSlices vf = [] := by
  obtain ⟨hk, hgone⟩ := s.foldl_dropSlice_parts (s.vfSlices vf)
  rw [State.vfSlices, List.map_eq_nil_iff, List.filter_eq_nil_iff]
  intro p hp hv
  obtain ⟨q, hq, he, hvf⟩ := hk.slices p hp
  have hin : q.1 ∈ s.vfSlices vf := List.mem_map_of_mem (List.mem_filter.mpr ⟨hq, by rw [hvf]; exact hv⟩)
  exact hgone p hp (he ▸ hin)

theorem exec_vfFlr (s : State) (vf : Nat) : ∃ t, exec (.vfFlr vf) s = .next t ∧ t.vfSlices vf = [] ∧ (t.vf vf).lrBase = 0 ∧
    (t.vf vf).lrSize = 0 ∧ (t.vf vf).crSize = 0 ∧ (t.vf vf).erSize = 0 ∧ (t.vf vf).tdi = (s.vf vf).tdi ∧
    ∀ k x, aget? t.drover.tags k = some x → x.vf = vf → x.answered ≠ none := by
  let u := (s.vfSlices vf).foldl State.dropSlice s
  have hu : u.vf vf = s.vf vf := congrArg (agetD · vf Vf.reset) (s.foldl_dropSlice_parts _).1.vfs
  refine ⟨_, rfl, s.vfSlices_foldl_dropSlice vf, ?_⟩
  simp only [State.vf_setVf]
  refine ⟨rfl, rfl, rfl, rfl, congrArg Vf.tdi hu, fun k x hx hv ha => ?_⟩
  have hk := (List.mem_filter.mp (mem_of_aget? hx)).2
  simp [hv, ha] at hk

/-! ### Vectors that wait for a link (R328, R344) -/

/-- From `s` to `t` vectors that waited are signalled on a link, and none comes to wait. -/
structure Signalled (link : Nat) (s t : State) : Prop where
  up : t.signalLink = s.signalLink
  sent : s.package.sent ⊆ t.package.sent
  left : ∀ vf, (t.vf vf).signals ⊆ (s.vf vf).signals
  gone : ∀ vf, ∀ k ∈ (s.vf vf).signals, k ∈ (t.vf vf).signals ∨ .msix (vf + 1) k link ∈ t.package.sent

theorem Signalled.refl (link : Nat) (s : State) : Signalled link s s := ⟨rfl, List.Subset.refl _, fun _ => List.Subset.refl _, fun _ _ h => .inl h⟩

theorem Signalled.trans {link : Nat} {s t u : State} (h : Signalled link s t) (h' : Signalled link t u) : Signalled link s u where
  up := h'.up.trans h.up
  sent := List.Subset.trans h.sent h'.sent
  left vf := List.Subset.trans (h'.left vf) (h.left vf)
  gone vf k hk := (h.gone vf k hk).elim (h'.gone vf k) fun hs => .inr (h'.sent hs)

/-- On a link that is up, vectors are sent. -/
theorem State.foldl_signalVector {s : State} {link : Nat} (vf : Nat) (h : s.signalLink = some link) (l : List Nat) :
    l.foldl (fun s k => s.signalVector vf k) s =
      { s with package := { s.package with sent := s.package.sent ++ l.map (.msix (vf + 1) · link) } } := by
  induction l generalizing s with
  | nil => simp
  | cons k r ih =>
    have hk : s.signalVector vf k = s.send (.msix (vf + 1) k link) := by simp only [State.signalVector, h]
    rw [List.foldl_cons, hk, ih (s := s.send _) h]
    simp [State.send]

theorem State.signalDue_eq {s : State} {link : Nat} (vf : Nat) (h : s.signalLink = some link) : s.signalDue vf =
    { s.setVf vf { s.vf vf with signals := [] } with
      package := { s.package with sent := s.package.sent ++ (s.vf vf).signals.map (.msix (vf + 1) · link) } } :=
  State.foldl_signalVector (s := s.setVf vf { s.vf vf with signals := [] }) vf h _

theorem State.signalled_signalDue {s : State} {link : Nat} (vf : Nat) (h : s.signalLink = some link) :
    Signalled link s (s.signalDue vf) ∧ ((s.signalDue vf).vf vf).signals = [] := by
  rw [State.signalDue_eq vf h]
  have hs : ((s.setVf vf { s.vf vf with signals := [] }).vf vf).signals = [] := by rw [State.vf_setVf]
  have ho {n : Nat} (hn : n ≠ vf) : ((s.setVf vf { s.vf vf with signals := [] }).vf n).signals = (s.vf n).signals :=
    congrArg Vf.signals (State.vf_setVf_other s _ hn)
  refine ⟨⟨rfl, List.subset_append_left _ _, fun n k hk => ?_, fun n k hk => ?_⟩, hs⟩
  · by_cases hn : n = vf
    · subst hn
      exact absurd ((congrArg (k ∈ ·) hs).mp hk) List.not_mem_nil
    · exact (congrArg (k ∈ ·) (ho hn)).mp hk
  · by_cases hn : n = vf
    · subst hn
      exact .inr (List.mem_append_right _ (List.mem_map_of_mem hk))
    · exact .inl ((congrArg (k ∈ ·) (ho hn)).mpr hk)

theorem State.signalled_foldl {s : State} {link : Nat} (h : s.signalLink = some link) (l : List Nat) :
    Signalled link s (l.foldl State.signalDue s) ∧ ∀ vf ∈ l, ((l.foldl State.signalDue s).vf vf).signals = [] := by
  induction l generalizing s with
  | nil => exact ⟨.refl link s, fun _ h => absurd h List.not_mem_nil⟩
  | cons v r ih =>
    obtain ⟨hd, hv⟩ := State.signalled_signalDue v h
    obtain ⟨hr, hall⟩ := ih (hd.up.trans h)
    refine ⟨hd.trans hr, fun vf hvf => ?_⟩
    obtain rfl | hvf := List.mem_cons.mp hvf
    · exact List.subset_nil.mp (hv ▸ hr.left vf)
    · exact hall vf hvf

/-- With a link up, all vectors that wait are signalled on it. -/
theorem State.signalAll_up {s : State} {link : Nat} (h : s.signalLink = some link) (vf : Nat) :
    (s.signalAll.vf vf).signals = [] ∧ ∀ k ∈ (s.vf vf).signals, .msix (vf + 1) k link ∈ s.signalAll.package.sent := by
  let l := (s.vfs.filter fun p => !p.2.signals.isEmpty).map Prod.fst
  have ha : s.signalAll = l.foldl State.signalDue s := by
    rw [State.signalAll, h]
    rfl
  obtain ⟨hs, hl⟩ := State.signalled_foldl h l
  have hnone : (s.signalAll.vf vf).signals = [] := by
    rw [ha]
    by_cases hvf : vf ∈ l
    · exact hl vf hvf
    · refine List.subset_nil.mp fun k hk => ?_
      have hk := hs.left vf hk
      rw [State.vf, agetD] at hk
      cases hv : aget? s.vfs vf with
      | none => rw [hv] at hk; exact hk
      | some v =>
        rw [hv] at hk
        exact absurd (List.mem_map_of_mem (List.mem_filter.mpr ⟨mem_of_aget? hv, by simpa using List.ne_nil_of_mem hk⟩)) hvf
  refine ⟨hnone, fun k hk => ?_⟩
  have := hs.gone vf k hk
  rw [← ha, hnone] at this
  exact this.resolve_left List.not_mem_nil

theorem State.signalAll_none {s : State} (h : s.signalLink = none ∨ ∀ p ∈ s.vfs, p.2.signals = []) : s.signalAll = s := by
  unfold State.signalAll
  split
  · rfl
  · next hl =>
    have hv := h.resolve_left fun hn => hl (by rw [hn]; rfl)
    rw [List.filter_eq_nil_iff.mpr fun p hp => by simp [hv p hp]]
    rfl

/-- The package but for what it has sent. -/
def State.packageUnsent (s : State) : Package := { s.package with sent := [] }

theorem State.packageUnsent_signalAll (s : State) : s.signalAll.packageUnsent = s.packageUnsent := by
  have hv (s : State) (vf k : Nat) : (s.signalVector vf k).packageUnsent = s.packageUnsent := by
    unfold State.signalVector
    split <;> rfl
  have hd (s : State) (vf : Nat) : (s.signalDue vf).packageUnsent = s.packageUnsent :=
    State.foldl_same State.packageUnsent (fun s k => hv s vf k) _ _
  unfold State.signalAll
  split
  · rfl
  · exact State.foldl_same State.packageUnsent hd _ s

/-- Signalling changes, of the package, only what it has sent. -/
theorem State.package_signalAll (s : State) : s.signalAll.package = { s.package with sent := s.signalAll.package.sent } :=
  congrArg (fun p : Package => { p with sent := s.signalAll.package.sent }) s.packageUnsent_signalAll

theorem exec_hostLinkRetrain (s : State) (link : Nat) (up : Bool) :
    let u := s.updPackage fun p => { p with linkUp := p.linkUp.set link up }
    (u.signalLink = none ∨ (∀ p ∈ s.vfs, p.2.signals = []) → exec (.hostLinkRetrain link up) s = .next u) ∧
    ∃ t, exec (.hostLinkRetrain link up) s = .next t ∧ t.package.linkUp = u.package.linkUp ∧ t.mem = s.mem ∧
      (u.signalLink ≠ none → ∀ vf, (t.vf vf).signals = [] ∧ ∀ k ∈ (s.vf vf).signals, ∃ l, .msix (vf + 1) k l ∈ t.package.sent) := by
  intro u
  refine ⟨fun h => congrArg Host.Outcome.next (State.signalAll_none h), u.signalAll, rfl,
    by rw [u.package_signalAll], u.signalAll_mem, fun hl vf => ?_⟩
  obtain ⟨link, hlink⟩ := Option.ne_none_iff_exists'.mp hl
  obtain ⟨hnone, hsent⟩ := State.signalAll_up hlink vf
  exact ⟨hnone, fun k hk => ⟨link, hsent k hk⟩⟩

end Sys2Proof.Machine
end

section
/-! PROOF. Bring-up, far memory, shared units and the scrubbers, and with them the statement about the package and its host (O57). -/

namespace Sys2Proof.Machine

/-! ### Memory without a cell, and frames -/

/-- A location that is in no cell reads zero. -/
theorem Memory.get_absent {m : Memory} {a : Nat} (h : ∀ c ∈ m, c.1 ≠ a) : m.get a = 0 := by
  induction m with
  | nil => rfl
  | cons c r ih =>
    rw [Memory.get, if_neg (h c List.mem_cons_self).symm, ih fun d hd => h d (List.mem_cons_of_mem _ hd), ite_self]

/-- Where all cells of a place are taken out, the place reads zero. -/
theorem Memory.get_filter_out {m : Memory} {p : Nat → Bool} {a : Nat} (h : p a = true) :
    Memory.get (m.filter fun c => !(p c.1)) a = 0 := by
  refine Memory.get_absent fun c hc he => ?_
  have hp := (List.mem_filter.mp hc).2
  rw [he, h] at hp
  cases hp

theorem or_valid {e : Byte} (h : e.getLsbD 7 = true) : e ||| 0x80 = e := by
  revert e
  decide

theorem or_valid_valid (e : Byte) : (e ||| 0x80).getLsbD 7 = true := by
  rw [BitVec.getLsbD_or]
  simp

theorem and_invalid (e : Byte) : (e &&& 0x7F).getLsbD 7 = false := by
  rw [BitVec.getLsbD_and]
  simp

/-- Entries made invalid of some frames are invalid there. -/
theorem agetD_amap_invalid {l : Assoc Nat Byte} {out : Nat → Prop} [DecidablePred out] {f : Nat} (h : out f) :
    (agetD (amap l fun k e => if out k then e &&& 0x7F else e) f 0).getLsbD 7 = false := by
  rw [agetD, aget?_amap]
  cases aget? l f with
  | none => simp
  | some e => simp only [Option.map_some, Option.getD_some, h, if_true, and_invalid]

/-! ### Frames become valid (R280) -/

/-- A frame that becomes valid changes, of the drover, its entry only. -/
theorem State.frames_validFrame (s : State) (g f : Nat) : agetD (s.validFrame g).drover.frames f 0 =
    if f = g then agetD s.drover.frames f 0 ||| 0x80 else agetD s.drover.frames f 0 := by
  unfold State.validFrame
  extract_lets e
  split
  · next he =>
    split
    · next h => subst h; exact (or_valid he).symm
    · rfl
  · split
    · next h => subst h; exact agetD_aset_same _ _ _ _
    · next h => exact agetD_aset_other _ _ _ h

theorem State.expander_validFrame (s : State) (g : Nat) : (s.validFrame g).package.expander = s.package.expander := by
  unfold State.validFrame
  extract_lets e
  split <;> rfl

theorem State.mem_validFrame_sub (s : State) (g : Nat) : (s.validFrame g).mem ⊆ s.mem := by
  unfold State.validFrame
  extract_lets e
  split
  · exact List.Subset.refl _
  · exact List.filter_sublist.subset

/-- A frame of DM that was not valid is zero once it is. -/
theorem State.mem_validFrame_fresh {s : State} {g : Nat} (hg : g < 1024) (h : (agetD s.drover.frames g 0).getLsbD 7 = false) :
    ∀ c ∈ (s.validFrame g).mem, c.1 / 2 ^ 30 ≠ g := by
  intro c hc he
  rw [State.validFrame, h] at hc
  have hp := (List.mem_filter.mp hc).2
  simp only [hg, if_true, Bool.not_eq_true', Bool.and_eq_false_iff, decide_eq_false_iff_not] at hp
  omega

theorem State.frames_foldl_validFrame (l : List Nat) (s : State) (f : Nat) :
    agetD (l.foldl State.validFrame s).drover.frames f 0 =
      if f ∈ l then agetD s.drover.frames f 0 ||| 0x80 else agetD s.drover.frames f 0 := by
  induction l generalizing s with
  | nil => rfl
  | cons g r ih =>
    rw [List.foldl_cons, ih, State.frames_validFrame]
    by_cases hg : f = g
    · subst hg
      simp only [if_true, List.mem_cons, true_or, BitVec.or_assoc, BitVec.or_self, ite_self]
    · simp only [hg, if_false, List.mem_cons, false_or]

theorem State.mem_foldl_validFrame_fresh {l : List Nat} {s : State} {f : Nat} (hf : f < 1024) (hl : f ∈ l)
    (h : (agetD s.drover.frames f 0).getLsbD 7 = false) : ∀ c ∈ (l.foldl State.validFrame s).mem, c.1 / 2 ^ 30 ≠ f := by
  have hsub (l : List Nat) (s : State) : (l.foldl State.validFrame s).mem ⊆ s.mem := by
    induction l generalizing s with
    | nil => exact List.Subset.refl _
    | cons g r ih => exact List.Subset.trans (ih _) (s.mem_validFrame_sub g)
  induction l generalizing s with
  | nil => cases hl
  | cons g r ih =>
    by_cases hg : f = g
    · subst hg
      exact fun c hc => State.mem_validFrame_fresh hf h c (hsub r _ hc)
    · refine ih ((List.mem_cons.mp hl).resolve_left hg) ?_
      rw [State.frames_validFrame, if_neg hg]
      exact h

/-- Frames of a row are those of a list. -/
theorem State.foldl_validFrame_range (s : State) (first n : Nat) : (List.range n).foldl (fun s j => s.validFrame (first + j)) s =
    ((List.range n).map (first + ·)).foldl State.validFrame s := List.foldl_map.symm

theorem mem_range_add {first n f : Nat} : f ∈ (List.range n).map (first + ·) ↔ first ≤ f ∧ f < first + n := by
  simp only [List.mem_map, List.mem_range]
  exact ⟨by rintro ⟨k, hk, rfl⟩; omega, fun h => ⟨f - first, by omega, by omega⟩⟩

/-! ### Firmware (R297, R351) -/

theorem le_foldl_max (l : List Nat) (a : Nat) : a ≤ l.foldl max a ∧ ∀ x ∈ l, x ≤ l.foldl max a := by
  induction l generalizing a with
  | nil => exact ⟨Nat.le_refl a, fun _ h => absurd h List.not_mem_nil⟩
  | cons b r ih =>
    obtain ⟨ha, hr⟩ := ih (max a b)
    refine ⟨Nat.le_trans (Nat.le_max_left a b) ha, fun x hx => ?_⟩
    obtain rfl | hx := List.mem_cons.mp hx
    · exact Nat.le_trans (Nat.le_max_right a x) ha
    · exact hr x hx

section
variable {s : State} {l : List FirmwareImage}

theorem exec_powerGood_verified (h : ∀ x ∈ bootImages l s.package.nextImages, ∃ m, x = some m ∧ s.verifies m = true) :
    ∃ t, exec (.powerGood l) s = .next t ∧ t.package.boot = .running ∧ t.mem = State.reset.mem ∧ t.insts = [] ∧
      t.package.retired = s.package.retired ∧
      ∃ n, t.package.fuse = some n ∧ s.fuseCount ≤ n ∧ ∀ m, some m ∈ bootImages l s.package.nextImages → m.version ≤ n := by
  have hok : ((bootImages l s.package.nextImages).all fun m => match m with
      | some m => s.verifies m
      | none => false) = true := by
    refine List.all_eq_true.mpr fun x hx => ?_
    obtain ⟨m, rfl, hm⟩ := h x hx
    exact hm
  obtain ⟨hs, hl⟩ := le_foldl_max (((bootImages l s.package.nextImages).filterMap id).map fun m => m.version) s.fuseCount
  refine ⟨_, congrArg Host.Outcome.next (if_pos hok), rfl, rfl, rfl, rfl, _, rfl, hs, fun m hm => hl _ ?_⟩
  exact List.mem_map_of_mem (List.mem_filterMap.mpr ⟨some m, hm, rfl⟩)

theorem exec_powerGood_refused (h : ∃ x ∈ bootImages l s.package.nextImages, ∀ m, x = some m → s.verifies m = false) :
    ∃ t, exec (.powerGood l) s = .next t ∧ t.package.boot = .recovery ∧ t.package.fuse = s.package.fuse := by
  have hno : ¬((bootImages l s.package.nextImages).all fun m => match m with
      | some m => s.verifies m
      | none => false) = true := by
    obtain ⟨x, hx, hv⟩ := h
    intro ha
    have hx := List.all_eq_true.mp ha x hx
    cases x with
    | none => cases hx
    | some m => exact absurd hx (by simp [hv m rfl])
  exact ⟨_, congrArg Host.Outcome.next (if_neg hno), rfl, rfl⟩

end

theorem exec_perstDeassert (s : State) : ∃ t, exec .perstDeassert s = .next t ∧ t.package.perst = true ∧
    (∀ x ∈ t.package.linkUp, x = true) ∧ t.mem = s.mem := by
  refine ⟨_, rfl, ?_, ?_, State.signalAll_mem _⟩
  · rw [State.package_signalAll]
    rfl
  · rw [State.package_signalAll]
    intro x hx
    obtain ⟨y, -, rfl⟩ := List.mem_map.mp hx
    rfl

/-! ### Memory and bulkheads start (R280, R346, R351) -/

section
variable {s : State}

theorem exec_memoryTrained_off (u : TrainedUnit) (h : s.package.boot ≠ .running) : exec (.memoryTrained u) s = .next s :=
  congrArg Host.Outcome.next (if_pos h)

variable (h : s.package.boot = .running)
include h

theorem exec_memoryTrained_stack (k : Nat) : ∃ t, exec (.memoryTrained (.stack k)) s = .next t ∧ ∀ f,
    agetD t.drover.frames f 0 = (if f / 64 = k then agetD s.drover.frames f 0 ||| 0x80 else agetD s.drover.frames f 0) ∧
    (k < 12 → f / 64 = k → (agetD s.drover.frames f 0).getLsbD 7 = false → ∀ a, a / 2 ^ 30 = f → t.mem.get a = 0) := by
  have hmem (f : Nat) : f ∈ (List.range 64).map (64 * k + ·) ↔ f / 64 = k := by rw [mem_range_add]; omega
  refine ⟨_, congrArg Host.Outcome.next ((if_neg (not_not_intro h)).trans (s.foldl_validFrame_range (64 * k) 64)), fun f => ⟨?_, ?_⟩⟩
  · rw [State.frames_foldl_validFrame]
    simp only [hmem]
  · intro hk hf hv a ha
    have hz := State.mem_foldl_validFrame_fresh (s := s) (show f < 1024 by omega) ((hmem f).mpr hf) hv
    exact Memory.get_absent fun c hc he => hz c hc (he ▸ ha)

variable (k half f n : Nat)

theorem exec_memoryTrained_expander (hx : s.expanderFits { port := k, half := half, first := f, frames := n } = true) :
    ∃ t, exec (.memoryTrained (.expander k half f n)) s = .next t ∧
      ({ port := k, half := half, first := f, frames := n } : Expander) ∈ t.package.expander ∧
      ∀ g, f ≤ g → g < f + n → (agetD t.drover.frames g 0).getLsbD 7 = true := by
  have hx' : ¬(!(s.expanderFits { port := k, half := half, first := f, frames := n })) = true := by rw [hx]; decide
  refine ⟨_, congrArg Host.Outcome.next (((if_neg (not_not_intro h)).trans (if_neg hx')).trans (State.foldl_validFrame_range _ f n)), ?_, ?_⟩
  · rw [State.foldl_same (fun s => s.package.expander) State.expander_validFrame]
    exact List.mem_cons_self
  · intro g hg hgn
    rw [State.frames_foldl_validFrame, if_pos (mem_range_add.mpr ⟨hg, hgn⟩)]
    exact or_valid_valid _

theorem exec_memoryTrained_clash (hx : s.expanderFits { port := k, half := half, first := f, frames := n } = false) :
    exec (.memoryTrained (.expander k half f n)) s = .next s := by
  have hx' : (!(s.expanderFits { port := k, half := half, first := f, frames := n })) = true := by rw [hx]; rfl
  exact congrArg Host.Outcome.next ((if_neg (not_not_intro h)).trans (if_pos hx'))

theorem exec_bulkheadBringup {bh : Nat} (hs : (s.bulkhead bh).started = false) (hf : (s.bulkhead bh).state = .free) :
    ∃ t, exec (.bulkheadBringup bh) s = .next t ∧ (t.bulkhead bh).mhz = 700 ∧ (t.bulkhead bh).busy = .zeroising ∧
    ∀ a, inScratch bh a = true → t.mem.get a = 0 := by
  let u := s.setBulkhead bh { s.bulkhead bh with mhz := 700, rail := 400 }
  have hu : ((u.zeroise bh).bulkhead bh).mhz = 700 := congrArg Bulkhead.mhz (State.bulkhead_setBulkhead s bh _)
  refine ⟨_, congrArg Host.Outcome.next (if_pos ⟨h, hs, hf⟩), ?_, ?_, fun a ha => Memory.get_filter_out ha⟩
  · exact (congrArg Bulkhead.mhz (State.bulkhead_setBulkhead (u.zeroise bh) bh _)).trans hu
  · exact congrArg Bulkhead.busy (State.bulkhead_setBulkhead (u.zeroise bh) bh _)

end

/-! ### Far memory (R328, R346) -/

theorem exec_cxlFrameResident {s : State} {f : Nat} (h : s.hasFrame f = true) (hf : 1024 ≤ f) :
    ∃ t, exec (.cxlFrameResident f) s = .next t ∧ f ∈ t.package.resident := by
  by_cases hr : f ∈ s.package.resident
  · exact ⟨s, congrArg Host.Outcome.next (if_neg (by simp [hr])), hr⟩
  · exact ⟨_, congrArg Host.Outcome.next (if_pos (by simp [h, hf, hr])), List.mem_cons_self⟩

theorem exec_cxlFrameResident_dm (s : State) {f : Nat} (hf : f < 1024) : exec (.cxlFrameResident f) s = .next s := by
  have h : decide (1024 ≤ f) = false := decide_eq_false (by omega)
  refine congrArg Host.Outcome.next (if_neg ?_)
  simp only [h, Bool.and_false, Bool.false_and, Bool.false_eq_true, not_false_eq_true]

theorem exec_cxlFrameLost_passing (s : State) (f n : Nat) : ∃ t, exec (.cxlFrameLost f n false) s = .next t ∧ t.drover = s.drover ∧
    ∀ k, k ∈ t.package.resident ↔ k ∈ s.package.resident ∧ ¬(1024 ≤ k ∧ f ≤ k ∧ k < f + n) := by
  refine ⟨_, rfl, rfl, fun k => List.mem_filter.trans (and_congr_right fun _ => ?_)⟩
  simp only [Bool.not_eq_true', Bool.and_eq_false_iff, decide_eq_false_iff_not]
  omega

theorem exec_cxlFrameLost_lasting (s : State) (f n : Nat) : ∃ t, exec (.cxlFrameLost f n true) s = .next t ∧
    ∀ k, 1024 ≤ k → f ≤ k → k < f + n → (agetD t.drover.frames k 0).getLsbD 7 = false := by
  refine ⟨_, rfl, fun k hk hf hn => ?_⟩
  unfold State.loseFrames
  extract_lets out u hit v w
  have ho : out k = true := by simp [out, hk, hf, hn]
  rw [if_pos rfl, State.foldl_same State.drover (f := fun s k => s.send (.wake (BitVec.ofNat 16 k))) fun _ _ => rfl]
  exact agetD_amap_invalid (out := (out · = true)) ho

/-! ### Shared units (R296, R328) -/

theorem exec_sharedUnitFault_stack (s : State) (k : Nat) : ∃ t, exec (.sharedUnitFault (.hbmStack k) true) s = .next t ∧
    t.package.replace = true ∧ ∀ f, f / 64 = k → (agetD t.drover.frames f 0).getLsbD 7 = false := by
  refine ⟨((s.noteUnitFault (.hbmStack k)).1).loseStack k, rfl, rfl, fun f hf => ?_⟩
  exact agetD_amap_invalid (out := fun f => f / 64 = k) hf

theorem exec_sharedUnitFault_link (s : State) (k : Nat) : ∃ t, exec (.sharedUnitFault (.hostLink k) false) s = .next t ∧
    t.package.linkUp = s.package.linkUp.set k false ∧ t.mem = s.mem := by
  refine ⟨_, rfl, ?_⟩
  simp only [Bool.false_or]
  split <;> exact ⟨rfl, rfl⟩

/-! ### The scrubbers (R325, R326) -/

theorem exec_scrubLine_single {s : State} {a b : Nat} (h : scratchBh a = some b) : exec (.scrubLine a .single) s =
    .next (s.setBulkhead b { s.bulkhead b with corrected := (s.bulkhead b).corrected + 1 }) := by
  show Host.Outcome.next (s.countCorrected a) = _
  rw [State.countCorrected, h]

theorem exec_scrubLine_scratch {s : State} {a b : Nat} (h : scratchBh a = some b) :
    ∃ t, exec (.scrubLine a (.lost false)) s = .next t ∧ ∀ c, c / 256 = a / 256 → t.mem.get c = 0 := by
  refine ⟨s.loseLine a false, rfl, fun c hc => ?_⟩
  rw [State.loseLine, h]
  refine Memory.get_absent fun d hd he => ?_
  have hp := (List.mem_filter.mp hd).2
  simp only [Bool.or_eq_true, decide_eq_true_eq] at hp
  omega

theorem State.package_tellTenant (s : State) (tenant : Nat) (e : EventRec) : (s.tellTenant tenant e).package = s.package :=
  State.foldl_same State.package (f := fun s v => s.postEvent v e) (fun _ _ => rfl) _ s

theorem exec_scrubLine_physical {s : State} {a : Nat} (h : scratchBh a = none) (hf : frameOf a ≠ none) :
    ∃ t, exec (.scrubLine a (.lost false)) s = .next t ∧ a / 256 ∈ t.package.poisoned ∧ t.mem = s.mem := by
  have hl : s.loseLine a false = s.losePhysical a := by
    rw [State.loseLine, h]
    exact if_pos (Option.isSome_iff_ne_none.mpr hf)
  refine ⟨s.losePhysical a, congrArg Host.Outcome.next hl, ?_, State.tellTenant_mem _ _ _⟩
  rw [State.losePhysical, State.package_tellTenant]
  show a / 256 ∈ if s.package.poisoned.contains (a / 256) then s.package.poisoned else a / 256 :: s.package.poisoned
  split
  · next hc => exact List.contains_iff_mem.mp hc
  · exact List.mem_cons_self

/-- Settles O57: each instruction by the lemmas about it. -/
theorem hostAndBringup : Obligations.HostAndBringup := by
  unfold Obligations.HostAndBringup
  refine ⟨fun s fn bar off size h bs => ?_, exec_vfFlr, exec_hostLinkRetrain, fun _ => rfl,
    fun s l => ⟨exec_powerGood_verified, exec_powerGood_refused⟩, exec_perstDeassert,
    fun s k => ⟨fun hb => exec_memoryTrained_stack hb k, fun half f n hb => ⟨exec_memoryTrained_expander hb k half f n,
      exec_memoryTrained_clash hb k half f n⟩, fun u => exec_memoryTrained_off u⟩,
    fun s bh hb => exec_bulkheadBringup hb,
    fun s f n => ⟨exec_cxlFrameResident, exec_cxlFrameResident_dm s, exec_cxlFrameLost_passing s f n, exec_cxlFrameLost_lasting s f n⟩,
    fun s k => ⟨exec_sharedUnitFault_stack s k, exec_sharedUnitFault_link s k⟩,
    fun s a => ⟨rfl, fun b hb => ⟨exec_scrubLine_single hb, exec_scrubLine_scratch hb⟩, exec_scrubLine_physical,
      fun b => ⟨_, rfl, List.mem_cons_self, rfl⟩⟩⟩
  exact ⟨fun op v c => exec_host_behind, fun hf => ⟨exec_host_outside hf, fun ho => ⟨exec_host_registers hf ho,
    fun hr => ⟨exec_hostRead_noWindow hf ho hr, fun d => exec_hostRead_reached hf ho hr, fun t l => exec_hostRead_held hf ho hr,
      fun d hm => exec_hostWrite_reached hf ho hr hm, fun op v c d hm hs => ⟨fun ha => exec_hostAtomic hf (State.hostAtomic_misaligned ho hr hs ha),
        exec_hostAtomic_reached hf ho hr hm hs⟩⟩⟩⟩⟩

end Sys2Proof.Machine
end

section
/-! PROOF. The registers by which a driver works its rings, answers stalls, supervises budgets and invalidates translations (O54). -/

namespace Sys2Proof.Machine

/-! ### The drover reads memory and leaves the registers of the VFs alone (R336) -/

theorem State.vfs_remoteAns (s : State) (tenant va len : Nat) (k : AccessKind) : (s.remoteAns tenant va len k).1.vfs = s.vfs := by
  have hmeet (u : State) (a : Ans) : (u.meetAns k a).1.vfs = u.vfs := by
    cases a with
    | ok loc po => simp only [State.meetAns]; split <;> rfl
    | _ => rfl
  have ht := congrArg State.vfs (s.translate_frame tenant va)
  unfold State.remoteAns
  split
  · next u leaf p hu => rw [hu] at ht; exact (hmeet u _).trans ht
  all_goals next hu => rw [hu] at ht; exact ht

theorem State.vfs_remoteRun (tenant n : Nat) (k : AccessKind) (s : State) (va : Nat) (got : List Nat) :
    (s.remoteRun tenant va n k got).1.vfs = s.vfs := by
  induction n generalizing s va got with
  | zero => rfl
  | succ n ih =>
    have ha := s.vfs_remoteAns tenant va 1 k
    unfold State.remoteRun
    split
    · next hu => rw [hu] at ha; exact (ih _ _ _).trans ha
    · next hu => rw [hu] at ha; exact ha

theorem State.vf_droverRead {s t : State} {tenant va n : Nat} {got : Option (List Byte)} (h : s.droverRead tenant va n = (t, got))
    (vf : Nat) : t.vf vf = s.vf vf := by
  have hv := State.vfs_remoteRun tenant n .read s va []
  unfold State.droverRead at h
  refine congrArg (agetD · vf Vf.reset) ?_
  split at h
  all_goals next hu => rw [hu] at hv; cases h; exact hv

/-! ### One read of a slot (R341) -/

/-- The packet of a slot is validated, and the drover is done with the slot. -/
def State.slotDone (s : State) (vf : Nat) (p : List Byte) : State := (s.validate vf p).setVf vf ((s.validate vf p).vf vf).nextSlot

/-- The address of the slot at LRHEAD. -/
def Vf.slot (x : Vf) : Nat := x.lrBase.toNat + 64 * x.lrHead.toNat

/-- A slot on pages that are there is read: its packet passes and is validated, or is to be read again, or is torn. -/
theorem State.readSlot_eq {s t : State} {vf : Nat} {p : List Byte} (hm : s.ringMisses vf (s.vf vf).slot 64 = false)
    (hr : s.droverRead (s.vfTenant vf) (s.vf vf).slot 64 = (t, some p)) : s.readSlot vf =
      if packetPasses p (s.vf vf).expect then (t.slotDone vf p, true)
      else if (s.vf vf).tries < 8 then (t.setVf vf { t.vf vf with tries := (s.vf vf).tries + 1 }, false)
      else (t.tornSlot vf, true) := by
  unfold Vf.slot at hm hr
  simp only [State.readSlot, hm, hr, Bool.false_eq_true, if_false]
  rfl

theorem State.serveRings_none {s : State} (h : s.nextRing = none) (fuel : Nat) : s.serveRings fuel = s := by
  cases fuel with
  | zero => rfl
  | succ n => simp only [State.serveRings, h]

theorem State.serveRings_one {s : State} {vf : Nat} (h : s.nextRing = some vf) :
    s.serveRings 1 = (({ s with drover := { s.drover with lastVf := vf } } : State).readSlot vf).1 := by
  simp only [State.serveRings, h]

/-! ### `KICK` (R338, R341) -/

theorem tail_toNat (v : Word) : (v.extractLsb' 0 16).toNat = v.toNat % 2 ^ 16 := by
  simp

theorem tail_setWidth {v : Word} (h : v.toNat < 2 ^ 16) : (v.extractLsb' 0 16).setWidth 64 = v :=
  BitVec.eq_of_toNat_eq (by simp; omega)

theorem reserved_zero_iff (v : Word) : v.extractLsb' 16 48 = 0 ↔ v.toNat < 2 ^ 16 := by
  have := v.isLt
  rw [← BitVec.toNat_inj]
  simp [Nat.shiftRight_eq_div_pow]
  omega

section
variable {s : State} {vf : Nat} {v : Word}

theorem exec_kick_bad (h : (s.vf vf).lrSize = 0 ∨ (s.vf vf).lrSize.toNat ≤ v.toNat % 2 ^ 16 ∨ 2 ^ 16 ≤ v.toNat) :
    exec (.kick vf v) s = .next (s.setVf vf { s.vf vf with kickIgnored := true }) := by
  refine congrArg Host.Outcome.next (if_pos ?_)
  rw [tail_toNat, Ne, reserved_zero_iff, Nat.not_lt]
  exact h

theorem exec_kick_good (hs : (s.vf vf).lrSize ≠ 0) (hv : v.toNat < 2 ^ 16) (ht : v.toNat < (s.vf vf).lrSize.toNat) :
    let s1 := s.setVf vf { s.vf vf with lrTail := v }
    exec (.kick vf v) s = .next (s1.serveRings s1.allDue) := by
  refine congrArg Host.Outcome.next ((if_neg ?_).trans (by rw [tail_setWidth hv]))
  rw [tail_toNat, Ne, reserved_zero_iff, Nat.mod_eq_of_lt hv]
  exact fun h => h.elim hs (by omega)

theorem exec_kick_idle (hs : (s.vf vf).lrSize ≠ 0) (hv : v.toNat < 2 ^ 16) (ht : v.toNat < (s.vf vf).lrSize.toNat)
    (hd : (s.setVf vf { s.vf vf with lrTail := v }).allDue = 0) :
    exec (.kick vf v) s = .next (s.setVf vf { s.vf vf with lrTail := v }) := by
  rw [exec_kick_good hs hv ht, hd]
  rfl

theorem exec_kick_slot (hs : (s.vf vf).lrSize ≠ 0) (hv : v.toNat < 2 ^ 16) (ht : v.toNat < (s.vf vf).lrSize.toNat) :
    let s1 := s.setVf vf { s.vf vf with lrTail := v }
    let s2 : State := { s1 with drover := { s1.drover with lastVf := vf } }
    ∀ t p, s1.allDue = 1 → s1.nextRing = some vf → s2.ringMisses vf (s.vf vf).slot 64 = false →
      s2.droverRead (s2.vfTenant vf) (s.vf vf).slot 64 = (t, some p) → packetPasses p (s.vf vf).expect = true →
      exec (.kick vf v) s = .next (t.slotDone vf p) := by
  intro s1 s2 t p hd hn hm hr hp
  have hx : s2.vf vf = { s.vf vf with lrTail := v } := State.vf_setVf s vf _
  have hslot : (s2.vf vf).slot = (s.vf vf).slot := by rw [hx]; rfl
  rw [← hslot] at hm hr
  rw [exec_kick_good hs hv ht, hd, State.serveRings_one hn, State.readSlot_eq hm hr, if_pos (by rw [hx]; exact hp)]

end

/-! ### The slot that failed is read again (R341) -/

section
variable {s t : State} {vf : Nat} {p : List Byte}

theorem exec_launchSlotReread_due {r : State × Bool} (ht : (s.vf vf).tries ≠ 0) (hr : s.readSlot vf = r) (hn : r.1.nextRing = none) :
    exec (.launchSlotReread vf) s = .next r.1 := by
  subst hr
  exact congrArg Host.Outcome.next ((if_neg ht).trans (State.serveRings_none hn _))

theorem exec_launchSlotReread_none (ht : (s.vf vf).tries = 0) : exec (.launchSlotReread vf) s = .next s :=
  congrArg Host.Outcome.next (if_pos ht)

theorem State.tornSlot_posts (hv : t.vf vf = s.vf vf) : ∃ e : EventRec, ((t.tornSlot vf).vf vf).events = (s.vf vf).events ++ [e] ∧
    e.kind = 3 ∧ e.tag = (s.vf vf).expect ∧ ((t.tornSlot vf).vf vf).expect = (s.vf vf).expect + 1 ∧ ((t.tornSlot vf).vf vf).tries = 0 := by
  rw [State.tornSlot, State.vf_setVf, State.postEvent, State.vf_setVf, hv]
  exact ⟨_, rfl, rfl, rfl, rfl, rfl⟩

theorem exec_launchSlotReread_read (ht : (s.vf vf).tries ≠ 0) (hm : s.ringMisses vf (s.vf vf).slot 64 = false)
    (hr : s.droverRead (s.vfTenant vf) (s.vf vf).slot 64 = (t, some p)) :
    (packetPasses p (s.vf vf).expect = false → (s.vf vf).tries < 8 →
      (t.setVf vf { t.vf vf with tries := (s.vf vf).tries + 1 }).nextRing = none →
      exec (.launchSlotReread vf) s = .next (t.setVf vf { t.vf vf with tries := (s.vf vf).tries + 1 })) ∧
    (packetPasses p (s.vf vf).expect = false → 8 ≤ (s.vf vf).tries → (t.tornSlot vf).nextRing = none → ∃ (u : State) (e : EventRec),
      exec (.launchSlotReread vf) s = .next u ∧ (u.vf vf).events = (s.vf vf).events ++ [e] ∧ e.kind = 3 ∧ e.tag = (s.vf vf).expect ∧
      (u.vf vf).expect = (s.vf vf).expect + 1 ∧ (u.vf vf).tries = 0) ∧
    (packetPasses p (s.vf vf).expect = true → (t.slotDone vf p).nextRing = none →
      exec (.launchSlotReread vf) s = .next (t.slotDone vf p)) := by
  have heq := State.readSlot_eq hm hr
  refine ⟨fun hp h8 => exec_launchSlotReread_due (r := (_, false)) ht ?_, fun hp h8 hn => ?_,
    fun hp => exec_launchSlotReread_due (r := (_, true)) ht (heq.trans (if_pos hp))⟩
  · exact heq.trans ((if_neg (by simp [hp])).trans (if_pos h8))
  · obtain ⟨e, he⟩ := State.tornSlot_posts (State.vf_droverRead hr vf)
    have htorn := heq.trans ((if_neg (by simp [hp])).trans (if_neg (Nat.not_lt.mpr h8)))
    exact ⟨_, e, exec_launchSlotReread_due ht htorn hn, he⟩

end

/-! ### Validation (R342) -/

section
variable {t : State} {vf : Nat} {p : List Byte}

theorem State.validate_malformed (h : packetOp p = false) : t.validate vf p = t.postCompletion vf (refusedRecord p t.time 1) := by
  simp only [State.validate, h, Bool.not_false, if_true]

theorem State.validate_refused {u : State} {r : BitVec 8} (h : packetOp p = true)
    (hc : t.checkPhase (t.vfTenant vf) (pf p 256 48) (pf p 320 48) 0 = (u, .error r)) :
    t.validate vf p = u.postCompletion vf (refusedRecord p u.time r) := by
  simp only [State.validate, h, hc, Bool.not_true, Bool.false_eq_true, if_false]

theorem State.validate_queued {u : State} {a : PhaseAsk} (h : packetOp p = true)
    (hc : t.checkPhase (t.vfTenant vf) (pf p 256 48) (pf p 320 48) 0 = (u, .ok a)) : ∃ y : Slice,
    aget? (t.validate vf p).slices u.nextId = some y ∧ y.state = .queued ∧ y.vf = vf ∧ y.stamp.toNat = pf p 0 16 ∧
      y.image = some a.image ∧ y.n = a.n ∧ y.die = a.die := by
  simp only [State.validate, h, hc, Bool.not_true, Bool.false_eq_true, if_false]
  have hstamp : pf p 0 16 < 2 ^ 16 := Nat.mod_lt _ (by decide)
  exact ⟨_, aget?_aset_same _ _ _, rfl, rfl, Nat.mod_eq_of_lt hstamp, rfl, rfl, rfl⟩

end

/-! ### Verdicts and budgets (R242, R307, R338) -/

section
variable {s : State} {vf : Nat} {tag stamp : BitVec 16} {n : BitVec 47}

theorem State.answer_outstanding {t : FaultTag} (ht : aget? s.drover.tags tag.toNat = some t) (hv : t.vf = vf) (ha : t.answered = none)
    (mapped : Bool) : aget? (s.answer vf tag mapped).drover.tags tag.toNat = some { t with answered := some mapped } := by
  simp [State.answer, ht, hv, ha, State.send, State.updDrover]

theorem State.answer_ignored (h : ∀ t, aget? s.drover.tags tag.toNat = some t → t.vf ≠ vf ∨ t.answered ≠ none) (mapped : Bool) :
    s.answer vf tag mapped = s := by
  unfold State.answer
  split
  · rfl
  · next t ht => exact if_pos ((h t ht).imp_right Option.isSome_iff_ne_none.mpr)

theorem exec_superGrant_running {id : Nat} {y : Slice} (h : s.running? vf stamp = some (id, y)) : exec (.superGrant vf stamp n) s =
    .next (s.setSlice id { y with work := if y.workFree then y.work else y.work + n.toNat, heldForBudget := false }) := by
  show Host.Outcome.next (s.grantUnits vf stamp n) = _
  simp only [State.grantUnits, h]

theorem State.grantUnits_none (h : s.running? vf stamp = none) : s.grantUnits vf stamp n = s := by
  simp only [State.grantUnits, h]

theorem exec_superEnd_none (h : s.running? vf stamp = none) : exec (.superEnd vf stamp n) s = .next s := by
  show execSuperEnd vf stamp n s = _
  simp only [execSuperEnd, State.grantUnits_none h, h]

theorem exec_superEnd_running {j : Nat} {z : Slice} (h : (s.grantUnits vf stamp n).running? vf stamp = some (j, z)) :
    exec (.superEnd vf stamp n) s = .next ((s.grantUnits vf stamp n).endSlice j 2 0 0x06 0) := by
  show execSuperEnd vf stamp n s = _
  simp only [execSuperEnd, h]
  rfl

end

/-! ### Translations (R337, R338) -/

section
variable {s : State} {vf : Nat}

theorem exec_tlbinvAll : exec (.tlbinvAll vf) s = .next (s.setVf vf { s.vf vf with tlbinv := 0x8000000000000001 }) :=
  congrArg (fun w => Host.Outcome.next (s.setVf vf { s.vf vf with tlbinv := w })) (ite_self _)

theorem exec_tlbinvDone (h : (s.vf vf).tlbinv ≠ 0) : ∃ t, exec (.tlbinvDone vf) s = .next t ∧ (t.vf vf).tlbinv = 0 ∧
    ∀ c, c ∈ t.drover.cached ↔ c ∈ s.drover.cached ∧
      ¬(c.tenant = s.vfTenant vf ∧ ((s.vf vf).tlbinv.getLsbD 0 = true ∨ c.vpage = (s.vf vf).tlbinv.toNat / 2 ^ 16 % 2 ^ 32)) := by
  refine ⟨_, congrArg Host.Outcome.next (if_neg h), by rw [State.vf_setVf], fun c => List.mem_filter.trans (and_congr_right fun _ => ?_)⟩
  simp only [Bool.not_eq_true', Bool.and_eq_false_iff, Bool.or_eq_false_iff, decide_eq_false_iff_not, Classical.not_and_iff_not_or_not,
    not_or, Bool.not_eq_true]
  rfl

end

/-! ### Rings, STATUS and PFERR (R335, R338) -/

section
variable {s : State} {vf : Nat}

theorem State.writeRing_busy (h : s.vfBusy vf = true) (f : Vf → Vf) :
    s.writeRing vf f = s.setVf vf { s.vf vf with ringIgnored := true } := if_pos h

theorem State.writeRing_idle (h : s.vfBusy vf = false) (f : Vf → Vf) : s.writeRing vf f = s.setVf vf (f (s.vf vf)) :=
  if_neg (by simp [h])

/-- A bit of a word of six bits. -/
theorem bitWord_getLsbD (a b c d e f : Bool) :
    (bitWord [a, b, c, d, e, f]).getLsbD 1 = b ∧ (bitWord [a, b, c, d, e, f]).getLsbD 5 = f := by
  revert a b c d e f
  decide

theorem exec_statusRead : ∃ t w, exec (.statusRead vf) s = .next t ∧ t.package.sent = s.package.sent ++ [.register w] ∧
    (t.vf vf).ringIgnored = false ∧ (t.vf vf).kickIgnored = false ∧ w.getLsbD 1 = (s.vf vf).ringIgnored ∧
    w.getLsbD 5 = (s.vf vf).kickIgnored := by
  refine ⟨_, s.statusWord vf, rfl, rfl, ?_, ?_, (bitWord_getLsbD ..).1, (bitWord_getLsbD ..).2⟩ <;> rw [State.clearStatus, State.vf_setVf]

end

/-- Settles O54: each register by the lemmas about it. -/
theorem launchRegisters : Obligations.LaunchRegisters := by
  unfold Obligations.LaunchRegisters
  intro s vf v tag stamp n x done
  refine ⟨exec_kick_bad, fun hs hv ht => ⟨exec_kick_idle hs hv ht, exec_kick_slot hs hv ht⟩,
    fun t p ht hm hr => exec_launchSlotReread_read ht hm hr,
    fun t p => ⟨State.validate_malformed, fun u r => State.validate_refused, fun u a => State.validate_queued⟩,
    exec_launchSlotReread_none,
    fun t ht hv ha => ⟨_, _, rfl, rfl, State.answer_outstanding ht hv ha true, State.answer_outstanding ht hv ha false,
      s.answer_mem vf tag true, s.answer_mem vf tag false⟩,
    fun h => ⟨congrArg Host.Outcome.next (State.answer_ignored h true), congrArg Host.Outcome.next (State.answer_ignored h false)⟩,
    fun id y => exec_superGrant_running,
    fun h => ⟨congrArg Host.Outcome.next (State.grantUnits_none h), exec_superEnd_none h⟩,
    fun j z => exec_superEnd_running, rfl, exec_tlbinvAll, exec_tlbinvDone,
    fun h => ⟨congrArg Host.Outcome.next (State.writeRing_busy h _), congrArg Host.Outcome.next (State.writeRing_busy h _),
      congrArg Host.Outcome.next (State.writeRing_busy h _)⟩,
    fun h => ⟨congrArg Host.Outcome.next (State.writeRing_idle h _), congrArg Host.Outcome.next (State.writeRing_idle h _),
      congrArg Host.Outcome.next (State.writeRing_idle h _)⟩,
    exec_statusRead, _, rfl, rfl, rfl, rfl⟩

end Sys2Proof.Machine
end

section
/-! PROOF. Caps, sensors, energy windows and rate windows, and the answers of management (O58). -/

namespace Sys2Proof.Machine

/-! ### Caps (R286, R352) -/

section
variable {s : State} {m : Word}

/-- The sequence number of a cap message (R352). -/
theorem bitsOf_high (m : Word) : bitsOf m.toNat 32 32 = m.toNat / 2 ^ 32 :=
  Nat.mod_eq_of_lt (by have := m.isLt; omega)

theorem exec_capMessage_accepted (hh : m.toNat % 2 ^ 16 ≠ 0) (h1 : 1 ≤ (m.toNat / 2 ^ 32 + 2 ^ 32 - s.package.capSeq) % 2 ^ 32)
    (h2 : (m.toNat / 2 ^ 32 + 2 ^ 32 - s.package.capSeq) % 2 ^ 32 ≤ 2 ^ 31 - 1) :
    let w := max 600 (min 2400 (m.toNat / 2 ^ 16 % 2 ^ 16))
    exec (.capMessage m) s = .next ({ s with package := { s.package with
      capSeq := m.toNat / 2 ^ 32, cap := some (w, s.time + m.toNat % 2 ^ 16 * 1000000) } }.send (.cap (m.toNat / 2 ^ 32) w)) := by
  intro w
  show execCapMessage m s = _
  simp only [execCapMessage, bitsOf_high, bitsOf_zero, if_pos (And.intro hh (And.intro h1 h2))]
  rfl

theorem exec_capMessage_refused (h : m.toNat % 2 ^ 16 = 0 ∨ (m.toNat / 2 ^ 32 + 2 ^ 32 - s.package.capSeq) % 2 ^ 32 = 0 ∨
    2 ^ 31 ≤ (m.toNat / 2 ^ 32 + 2 ^ 32 - s.package.capSeq) % 2 ^ 32) :
    exec (.capMessage m) s = .next (s.send (.cap s.package.capSeq s.capInForce)) := by
  show execCapMessage m s = _
  simp only [execCapMessage, bitsOf_high, bitsOf_zero]
  rw [if_neg (by omega)]

theorem exec_capHorizonExpiry_set {w e : Nat} (h : s.package.cap = some (w, e)) : exec .capHorizonExpiry s =
    .next (if e ≤ s.time then { s with package := { s.package with cap := none } } else s) := by
  show execCapHorizonExpiry s = _
  simp only [execCapHorizonExpiry, h]
  rfl

theorem exec_capHorizonExpiry_none (h : s.package.cap = none) : exec .capHorizonExpiry s = .next s ∧ s.capInForce = 1500 := by
  refine ⟨?_, by simp only [State.capInForce, h]⟩
  show execCapHorizonExpiry s = _
  simp only [execCapHorizonExpiry, h]

end

/-! ### The millisecond's scale of the bulkheads (R352) -/

/-- A bulkhead with its rail measured. -/
def Bulkhead.measured (b : Bulkhead) (mv : List Nat) (n : Nat) : Bulkhead := if b.rail = 0 then b else { b with rail := mv.getD n b.rail }

/-- What the millisecond's measurement makes of a bulkhead. -/
def State.scaled (s : State) (mv : List Nat) (n : Nat) (b : Bulkhead) : Bulkhead :=
  match vote (b.measured mv n).currents with
  | none => b.measured mv n
  | some amps => { b.measured mv n with
      capFactor := if amps.toNat * (b.measured mv n).rail = 0 then 2048 else max 512 (min 2048 (s.shareMw * 1024 / (amps.toNat * (b.measured mv n).rail))) }

theorem exec_capScaleTick (mv : List Nat) (s : State) : exec (.capScaleTick mv) s =
    .next ((List.range 64).foldl (fun t n => t.setBulkhead n (s.scaled mv n (t.bulkhead n))) s) := rfl

theorem Bulkhead.measured_eq (b : Bulkhead) (mv : List Nat) (n : Nat) :
    b.measured mv n = { b with rail := if b.rail = 0 then 0 else mv.getD n b.rail } := by
  unfold Bulkhead.measured
  split
  · next h => rw [← h]
  · rfl

theorem State.scaled_none {s : State} {b : Bulkhead} (mv : List Nat) (n : Nat) (h : vote b.currents = none) :
    s.scaled mv n b = { b with rail := if b.rail = 0 then 0 else mv.getD n b.rail } := by
  simp only [State.scaled, Bulkhead.measured_eq, h]

theorem State.scaled_some {s : State} {b : Bulkhead} {a : Int} (mv : List Nat) (n : Nat) (h : vote b.currents = some a) :
    let rail := if b.rail = 0 then 0 else mv.getD n b.rail
    s.scaled mv n b = { b with rail := rail, capFactor :=
      if a.toNat * rail = 0 then 2048 else max 512 (min 2048 (s.capInForce * 1000 / 64 * 1024 / (a.toNat * rail))) } := by
  simp only [State.scaled, Bulkhead.measured_eq, h]
  rfl

/-- Bulkheads replaced one after another, each once. -/
theorem State.bulkhead_foldl_setBulkhead (f : Nat → Bulkhead → Bulkhead) {l : List Nat} (hl : l.Nodup) {n : Nat} (s : State) :
    (l.foldl (fun t k => t.setBulkhead k (f k (t.bulkhead k))) s).bulkhead n = if n ∈ l then f n (s.bulkhead n) else s.bulkhead n := by
  induction l generalizing s with
  | nil => rfl
  | cons k r ih =>
    obtain ⟨hk, hr⟩ := List.nodup_cons.mp hl
    rw [List.foldl_cons, ih hr]
    by_cases h : n = k
    · subst h
      simp [hk]
    · simp [h, State.bulkhead_setBulkhead_other s _ h]

theorem capScaleTick_parts (s : State) (mv : List Nat) : ∃ t, exec (.capScaleTick mv) s = .next t ∧ t.mem = s.mem ∧ ∀ n < 64,
    t.bulkhead n = s.scaled mv n (s.bulkhead n) := by
  refine ⟨_, exec_capScaleTick mv s, ?_, fun n hn => ?_⟩
  · exact State.foldl_same State.mem (f := fun t n => t.setBulkhead n (s.scaled mv n (t.bulkhead n))) (fun _ _ => rfl) _ s
  · rw [State.bulkhead_foldl_setBulkhead (s.scaled mv) List.nodup_range s, if_pos (List.mem_range.mpr hn)]

/-! ### Sensors (R353) -/

/-- The allowances of the sheets of a list are at their minimum, and of the other sheets of a bulkhead as they were. -/
theorem State.edgeAllow_foldl_throttled (l : List Nat) {s : State} {n : Nat} (h : n ∈ l ∨ (s.sheet n).edgeAllow = Quad.all 8) :
    ((l.foldl (fun s k => s.setSheet k (s.sheet k).throttled) s).sheet n).edgeAllow = Quad.all 8 := by
  induction l generalizing s with
  | nil => exact h.resolve_left List.not_mem_nil
  | cons k r ih =>
    refine ih ?_
    by_cases hk : n = k
    · subst hk
      exact .inr (congrArg Sheet.edgeAllow (State.sheet_setSheet s n _))
    · rw [State.sheet_setSheet_other s _ hk]
      exact h.imp_left fun hm => (List.mem_cons.mp hm).resolve_left hk

/-- The limit of 105 °C, with its way back at 100 °C, after a vote. -/
def Bulkhead.hotAt (b : Bulkhead) (t : Option Int) : Bool :=
  match t with
  | none => b.hot
  | some v => if b.hot then decide (100 ≤ v) else decide (105 < v)

/-- Both kinds of sensors have two valid ones. -/
def twoValid (ts cs : List Sensor) : Bool := decide (2 ≤ (validReadings ts).length) && decide (2 ≤ (validReadings cs).length)

/-- A bulkhead after a sample with these sensors. -/
def Bulkhead.sampled (b : Bulkhead) (ts cs : List Sensor) : Bulkhead :=
  let n := if twoValid ts cs then b.validFor + 1 else 0
  { b with temps := ts, currents := cs, validFor := n, hot := b.hotAt (vote ts), degraded := !(twoValid ts cs) || (b.degraded && decide (n < 64)) }

theorem exec_sensorSample (bh : Nat) (ts cs : List Int) (s : State) :
    let b := (s.bulkhead bh).sampled (sampleAll true (s.bulkhead bh).temps ts (s.bhEnergy bh))
      (sampleAll false (s.bulkhead bh).currents cs (s.bhEnergy bh))
    exec (.sensorSample bh ts cs) s = .next (if b.hot then (s.setBulkhead bh b).throttle bh else s.setBulkhead bh b) := rfl

theorem sensorSample_parts (s : State) (bh : Nat) (ts cs : List Int) :
    let x := sampleAll true (s.bulkhead bh).temps ts (s.bhEnergy bh)
    ∃ t, exec (.sensorSample bh ts cs) s = .next t ∧ (t.bulkhead bh).temps = x ∧ t.mem = s.mem ∧
    (∀ v, vote x = some v → 105 < v → (t.bulkhead bh).hot = true ∧ ∀ sh ∈ bhSheets bh, (t.sheet sh).edgeAllow = Quad.all 8) ∧
    (∀ v, vote x = some v → v < 100 → (t.bulkhead bh).hot = false ∧ t.sheets = s.sheets) ∧
    ((validReadings x).length < 2 → (t.bulkhead bh).degraded = true) := by
  intro x
  obtain ⟨b, hb⟩ : ∃ b, b = (s.bulkhead bh).sampled x (sampleAll false (s.bulkhead bh).currents cs (s.bhEnergy bh)) := ⟨_, rfl⟩
  have hexec : exec (.sensorSample bh ts cs) s = .next (if b.hot then (s.setBulkhead bh b).throttle bh else s.setBulkhead bh b) :=
    hb ▸ exec_sensorSample bh ts cs s
  have hhot : b.hot = (s.bulkhead bh).hotAt (vote x) := hb ▸ rfl
  have hbh (t : State) (ht : t = if b.hot then (s.setBulkhead bh b).throttle bh else s.setBulkhead bh b) : t.bulkhead bh = b := by
    subst ht
    split <;> exact State.bulkhead_setBulkhead s bh b
  refine ⟨_, hexec, by rw [hbh _ rfl, hb]; rfl, by split <;> rfl, fun v hv h => ?_, fun v hv h => ?_, fun h => ?_⟩
  · have hh : b.hot = true := by
      rw [hhot, hv]
      simp only [Bulkhead.hotAt]
      split <;> simp <;> omega
    refine ⟨by rw [hbh _ rfl]; exact hh, fun sh hsh => ?_⟩
    rw [if_pos hh]
    exact State.edgeAllow_foldl_throttled (bhSheets bh) (.inl hsh)
  · have hh : b.hot = false := by
      rw [hhot, hv]
      simp only [Bulkhead.hotAt]
      split <;> simp <;> omega
    refine ⟨by rw [hbh _ rfl]; exact hh, by simp [hh]⟩
  · rw [hbh _ rfl]
    have : twoValid x (sampleAll false (s.bulkhead bh).currents cs (s.bhEnergy bh)) = false := by
      simp only [twoValid, Bool.and_eq_false_iff, decide_eq_false_iff_not]
      omega
    simp only [hb, Bulkhead.sampled, this, Bool.not_false, Bool.true_or]

/-! ### Windows of 128 cycles (R243, R262, R263) -/

theorem Quad.get_ofFn {α : Type} (f : Nat → α) {k : Nat} (h : k < 4) : (Quad.ofFn f).get k = f k := by
  match k, h with
  | 0, _ | 1, _ | 2, _ | 3, _ => rfl

/-- A sheet after a window of energy e. -/
def State.windowed (s : State) (sheet e : Nat) : Sheet :=
  let sh := s.sheet sheet
  let sh' := if (s.bulkhead (bhOf sheet)).hot then sh.throttled else sh.adjust e (s.capShare sheet)
  { sh' with
    wideUsed := [], edgeUsed := Quad.all 0, activity := Quad.all [], past := [], energy := e,
    spent := Quad.ofFn fun c => sh.spent.get c + s.energyOf (sh.activity.get c) }

theorem exec_allowanceWindow (sheet : Nat) (s : State) : exec (.allowanceWindow sheet) s =
    .next ({ s with free := s.free + 1 }.setSheet sheet (s.windowed sheet (s.estimate (s.sheet sheet) + Config.otherEnergy s.free))) := rfl

theorem State.edgeAllow_windowed (s : State) (sheet e : Nat) {p : Nat} (hp : p < 4) : (s.windowed sheet e).edgeAllow.get p =
    if (s.bulkhead (bhOf sheet)).hot then 8 else nextAllowance e (s.capShare sheet) 256 ((s.sheet sheet).edgeAllow.get p) := by
  unfold State.windowed
  split
  · exact Quad.get_all 8 p
  · exact Quad.get_ofFn _ hp

theorem allowanceWindow_parts (s : State) (sheet : Nat) : let sh := s.sheet sheet
    let e := s.estimate sh + Config.otherEnergy s.free
    let share := s.capShare sheet
    ∃ t, exec (.allowanceWindow sheet) s = .next t ∧ t.mem = s.mem ∧ (t.sheet sheet).activity = Quad.all [] ∧
    (t.sheet sheet).edgeUsed = Quad.all 0 ∧ (t.sheet sheet).energy = e ∧ (∀ n, n ≠ sheet → t.sheet n = s.sheet n) ∧
    (∀ c < 4, (t.sheet sheet).spent.get c = sh.spent.get c + s.energyOf (sh.activity.get c)) ∧
    (∀ p < 4, (t.sheet sheet).edgeAllow.get p = if (s.bulkhead (bhOf sheet)).hot then 8 else
      if share < e then max (sh.edgeAllow.get p - sh.edgeAllow.get p / 8) 8
      else if 16 * e < 15 * share then min (sh.edgeAllow.get p + 16) 256 else sh.edgeAllow.get p) := by
  intro sh e share
  refine ⟨_, exec_allowanceWindow sheet s, rfl, ?_⟩
  rw [State.sheet_setSheet]
  exact ⟨rfl, rfl, rfl, fun n hn => State.sheet_setSheet_other _ _ hn, fun c hc => Quad.get_ofFn _ hc,
    fun p hp => s.edgeAllow_windowed sheet e hp⟩

/-! ### What a slice is charged (R19, R243) -/

theorem State.aget?_updInst (s : State) (id : Nat) (f : Inst → Inst) : aget? (s.updInst id f).insts id = (aget? s.insts id).map f := by
  unfold State.updInst
  split
  · next i hi => rw [hi]; exact aget?_aset_same _ _ _
  · next hi => rw [hi]; rfl

theorem State.updInst_eq (s : State) (id : Nat) (f : Inst → Inst) : s.updInst id f = { s with insts := (s.updInst id f).insts } := by
  unfold State.updInst
  split <;> rfl

/-- A rank written on one sheet. -/
def State.rankSheet (ctx : Nat) (r : BitVec 16) (s : State) (sh : Nat) : State :=
  s.setSheet sh { s.sheet sh with rank := (s.sheet sh).rank.set ctx r }

theorem State.spent_rankSheet (ctx : Nat) (r : BitVec 16) (s : State) (sh n : Nat) : ((s.rankSheet ctx r sh).sheet n).spent = (s.sheet n).spent := by
  by_cases h : n = sh
  · subst h
    rw [State.rankSheet, State.sheet_setSheet]
  · exact congrArg Sheet.spent (State.sheet_setSheet_other s _ h)

/-- A rank that is written changes no slice, no byte, and nothing that a context has spent. -/
theorem State.writeRank_parts (s : State) (id : Nat) (i : Inst) (r : BitVec 16) : (s.writeRank id i r).slices = s.slices ∧
    (s.writeRank id i r).mem = s.mem ∧ ∀ n, ((s.writeRank id i r).sheet n).spent = (s.sheet n).spent := by
  have hw : s.writeRank id i r = (i.sheets.foldl (State.rankSheet i.ctx r) s).updInst id fun i => { i with forme := { i.forme with rank := r } } := rfl
  rw [hw, State.updInst_eq]
  exact ⟨State.foldl_same State.slices (f := State.rankSheet i.ctx r) (fun _ _ => rfl) i.sheets s,
    State.foldl_same State.mem (f := State.rankSheet i.ctx r) (fun _ _ => rfl) i.sheets s, fun n => State.foldl_same (fun s => (s.sheet n).spent) (fun s k => s.spent_rankSheet i.ctx r k n) i.sheets s⟩

section
variable {s : State} {id : Nat} {i : Inst} {x : Slice}

theorem State.slice_payEnergy (hx : aget? s.slices i.slice = some x) (now : Bool) :
    aget? (s.payEnergy i now).slices i.slice = some (x.chargeEnergy (s.energyDue i now)) := by
  simp only [State.payEnergy, State.updSlice, hx]
  exact aget?_aset_same _ _ _

theorem State.spent_payEnergy (now : Bool) {sh : Nat} (h : sh ∈ i.sheets) : ((s.payEnergy i now).sheet sh).spent.get i.ctx = 0 := by
  have hs (l : Assoc Nat Sheet) : ((agetD (amap l fun n v => if i.sheets.contains n then { v with spent := v.spent.set i.ctx 0 } else v)
      sh Sheet.reset).spent).get i.ctx = 0 := by
    rw [agetD, aget?_amap]
    cases aget? l sh with
    | none => exact Quad.get_all 0 _
    | some v => simp [h]
  unfold State.payEnergy
  rw [State.updSlice_eq]
  exact hs s.sheets

theorem exec_energyRefresh (hi : aget? s.insts id = some i) (hx : aget? s.slices i.slice = some x) :
    ∃ r, exec (.energyRefresh id) s = .next (s.payEnergy i false) ∨ exec (.energyRefresh id) s = .next ((s.payEnergy i false).writeRank id i r) := by
  show ∃ r, execEnergyRefresh id s = _ ∨ execEnergyRefresh id s = _
  simp only [execEnergyRefresh, hi, hx]
  refine ⟨withPrio i.forme.rank (x.chargeEnergy (s.energyDue i false)).curPrio, ?_⟩
  split
  · exact .inl rfl
  · exact .inr rfl

theorem energyRefresh_parts (hi : aget? s.insts id = some i) (hx : aget? s.slices i.slice = some x) :
    ∃ t, exec (.energyRefresh id) s = .next t ∧ aget? t.slices i.slice = some (x.chargeEnergy (s.energyDue i false)) ∧
    (∀ sh ∈ i.sheets, (t.sheet sh).spent.get i.ctx = 0) ∧ t.mem = s.mem := by
  have hslice := State.slice_payEnergy hx false
  obtain ⟨r, he | he⟩ := exec_energyRefresh hi hx
  · exact ⟨_, he, hslice, fun sh => State.spent_payEnergy false, s.payEnergy_mem i false⟩
  · obtain ⟨hs, hm, hp⟩ := (s.payEnergy i false).writeRank_parts id i r
    exact ⟨_, he, hs ▸ hslice, fun sh hsh => by rw [hp, State.spent_payEnergy false hsh], hm.trans (s.payEnergy_mem i false)⟩

end

/-! ### Rate windows (R265–R269) -/

/-- A pinned forme has no event (R266). -/
theorem State.decideOn_pinned {i : Inst} (h : i.pinned = true) (s : State) (high low aid : Nat) (a : Actor) :
    s.decideOn i high low aid a = none := by
  simp [State.decideOn, Inst.free, h]

/-- Decisions add changes and nothing else that a window counts; of a pinned forme there is none. -/
theorem State.decideAll_parts {s : State} {id : Nat} {i : Inst} (hi : aget? s.insts id = some i) (high low : Nat) (l : List (Nat × Actor)) :
    ∃ j, aget? (s.decideAll id high low l).insts id = some j ∧ j.window = i.window ∧ (i.pinned = true → j.changes = i.changes) := by
  induction l generalizing s i with
  | nil => exact ⟨i, hi, rfl, fun _ => rfl⟩
  | cons p r ih =>
    simp only [State.decideAll, hi]
    split
    · exact ih hi
    · next c hc =>
      have hu := (s.fresh.2).aget?_updInst id fun i => i.startChange { c with id := s.fresh.1 }
      obtain ⟨j, hj, hw, -⟩ := ih (hu.trans (congrArg (Option.map _) hi))
      refine ⟨j, hj, hw, fun hp => ?_⟩
      rw [State.decideOn_pinned hp] at hc
      cases hc

/-- The windows at or below L counted toward an unclone, of every actor (R267). -/
def Inst.countLows (low : Nat) (i : Inst) : Inst :=
  { i with forme := { i.forme with actors := amap i.forme.actors fun _ a => a.countLow low } }

theorem Inst.actors_nextWindow {i : Inst} {k : Nat} {a : Actor} (h : aget? i.nextWindow.forme.actors k = some a) :
    a.inOcc = Quad.all 0 ∧ a.firedAt = a.started := by
  rw [Inst.nextWindow, aget?_amap, Option.map_eq_some_iff] at h
  obtain ⟨b, -, rfl⟩ := h
  exact ⟨rfl, rfl⟩

section
variable {s : State} {id : Nat} {i : Inst} (hi : aget? s.insts id = some i)
include hi

theorem exec_rateWindowEnd_early (h : i.cycle < 4096 * (i.window + 1)) : exec (.rateWindowEnd id) s = .next s := by
  show execRateWindowEnd id s = _
  simp only [execRateWindowEnd, hi, h, if_true]

theorem rateWindowEnd_parts (h : 4096 * (i.window + 1) ≤ i.cycle) :
    ∃ t u, exec (.rateWindowEnd id) s = .next t ∧ aget? t.insts id = some u ∧ t.mem = s.mem ∧
      u.window = i.window + 1 ∧ (∀ k a, aget? u.forme.actors k = some a → a.inOcc = Quad.all 0 ∧ a.firedAt = a.started) ∧
      (i.pinned = true → u.changes = i.changes) := by
  let low := recField (s.record i.tenant) 320 4
  obtain ⟨l, tiles, he⟩ : ∃ l tiles, exec (.rateWindowEnd id) s = .next { ((s.updInst id (Inst.countLows low)).decideAll id
      (recField (s.record i.tenant) 324 4) low l).updInst id Inst.nextWindow with tiles := tiles } := by
    show ∃ l tiles, execRateWindowEnd id s = _
    simp only [execRateWindowEnd, hi, Nat.not_lt.mpr h, if_false]
    exact ⟨_, _, rfl⟩
  have hu := (s.aget?_updInst id (Inst.countLows low)).trans (congrArg (Option.map _) hi)
  obtain ⟨j, hj, hw, hp⟩ := State.decideAll_parts hu (recField (s.record i.tenant) 324 4) low l
  refine ⟨_, j.nextWindow, he, (State.aget?_updInst _ id _).trans (congrArg (Option.map _) hj), ?_, congrArg (· + 1) hw,
    fun k a => Inst.actors_nextWindow, hp⟩
  exact (State.updInst_mem _ _ _).trans ((State.decideAll_mem _ _ _ _ _).trans (s.updInst_mem _ _))

end

/-! ### Measurements (R298) -/

section
variable {s : State} {vf : Nat}

theorem exec_spdmGetMeasurements_image {j : Nat} {x : FirmwareImage} (hj : j < 4) (hx : s.package.images[j]? = some x) :
    exec (.spdmGetMeasurements vf (j + 1)) s = .next (s.answerMeasurement (j + 1) (x.measurement.setWidth 512)) := by
  show execSpdmGetMeasurements vf (j + 1) s = _
  match j, hj with
  | 0, _ | 1, _ | 2, _ | 3, _ => simp only [execSpdmGetMeasurements, hx]

theorem exec_spdmGetMeasurements_tenant {j : Nat} (hj : j < 5) (ht : s.vfTenant vf ≠ 0) : exec (.spdmGetMeasurements vf (16 + j)) s =
    .next (s.answerMeasurement (16 + j) (Config.measureOf ((16 + j) :: (s.measured (s.vfTenant vf)).getD j []))) := by
  show execSpdmGetMeasurements vf (16 + j) s = _
  match j, hj with
  | 0, _ | 1, _ | 2, _ | 3, _ | 4, _ => simp only [execSpdmGetMeasurements, if_neg ht]

theorem exec_spdmGetMeasurements_foreign {k : Nat} (ht : s.vfTenant vf = 0) (hk : 16 ≤ k) :
    exec (.spdmGetMeasurements vf k) s = .next (s.send .refused) := by
  show execSpdmGetMeasurements vf k s = _
  unfold execSpdmGetMeasurements
  split
  case h_1 | h_2 | h_3 | h_4 | h_5 | h_6 => omega
  case h_7 | h_8 | h_9 | h_10 | h_11 => exact congrArg Host.Outcome.next (if_pos ht)
  case h_12 => rfl

end

/-! ### Sensors, firmware and TDISP (R299, R354) -/

section
variable {s : State} {vf : Nat}

theorem exec_pldmSensorRead_temps {k : Nat} {v : Int} (h1 : 64 ≤ k) (h2 : k < 128) (hv : vote (s.bulkhead (k - 64)).temps = some v) :
    exec (.pldmSensorRead k) s = .next (s.send (.sensor v)) := by
  have h : s.pldmSensor k = some v := by
    rw [← hv, State.pldmSensor, if_neg (by omega), if_neg (by omega), if_neg (by omega), if_pos ⟨h1, h2⟩]
  show execPldmSensorRead k s = _
  simp only [execPldmSensorRead, h]

theorem exec_pldmFirmwareUpdate (m : FirmwareImage) (s : State) : exec (.pldmFirmwareUpdate m) s = .next (if s.verifies m then
    { s with package := { s.package with nextImages := m :: s.package.nextImages.filter fun x => decide (x.kind ≠ m.kind) } }.send (.pldmFirmware true)
    else s.send (.pldmFirmware false)) := rfl

theorem exec_tdispRequest_refused (h : s.confidential (s.vfTenant vf) = false) (m : TdispMsg) :
    exec (.tdispRequest vf m) s = .next (s.send .refused) :=
  congrArg Host.Outcome.next (if_pos (by simp [h]))

/-- What a TDISP message that leads to a state, or to none, is answered with. -/
def State.tdispAnswer (s : State) (vf : Nat) (r : Option Tdi) : State :=
  match r with
  | some x => (s.setTdi vf x).send (.tdisp x)
  | none => s.send .refused

theorem exec_tdispRequest {r : Option Tdi} {m : TdispMsg} (h : s.confidential (s.vfTenant vf) = true)
    (hr : tdiNext (s.vf vf).tdi m = r) : exec (.tdispRequest vf m) s = .next (s.tdispAnswer vf r) := by
  refine congrArg Host.Outcome.next ((if_neg (by simp [h])).trans ?_)
  cases r <;> simp only [hr, State.tdispAnswer]

theorem tdiNext_lock {b : Tdi} {r : Option Tdi}
    (h : (b, r) ∈ [(Tdi.unlocked, some Tdi.locked), (.locked, none), (.run, none), (.error, none)]) : tdiNext b .lock = r := by
  cases b <;> simp at h <;> exact h.symm

theorem tdiNext_stop (b : Tdi) : tdiNext b .stop = some .unlocked := by
  cases b <;> rfl

end

/-- Settles O58: each event and request by the lemmas about it. -/
theorem powerAndManagement : Obligations.PowerAndManagement := by
  unfold Obligations.PowerAndManagement
  refine ⟨fun s m => ⟨exec_capMessage_accepted, exec_capMessage_refused⟩,
    fun s => ⟨fun w e h => ⟨fun he => ?_, fun he => ?_⟩, exec_capHorizonExpiry_none⟩,
    fun s mv => ?_, sensorSample_parts, allowanceWindow_parts, fun s id i x hi hx _ => energyRefresh_parts hi hx,
    fun s id i hi => ⟨exec_rateWindowEnd_early hi, rateWindowEnd_parts hi⟩, fun s vf k m => ?_⟩
  · rw [exec_capHorizonExpiry_set h, if_pos he]
  · rw [exec_capHorizonExpiry_set h, if_neg (Nat.not_le.mpr he)]
  · obtain ⟨t, he, hm, ht⟩ := capScaleTick_parts s mv
    exact ⟨t, he, hm, fun n hn => ⟨fun hv => (ht n hn).trans (State.scaled_none mv n hv), fun a ha => (ht n hn).trans (State.scaled_some mv n ha)⟩⟩
  · exact ⟨fun j x => exec_spdmGetMeasurements_image, rfl, rfl, fun j hj ht => exec_spdmGetMeasurements_tenant hj ht,
      exec_spdmGetMeasurements_foreign, rfl, rfl, rfl, fun v => exec_pldmSensorRead_temps,
      fun h => (exec_pldmFirmwareUpdate m s).trans (congrArg _ (if_pos h)),
      fun h => (exec_pldmFirmwareUpdate m s).trans (congrArg _ (if_neg (by simp [h]))),
      fun h b r hr hb => exec_tdispRequest h (hb ▸ tdiNext_lock hr),
      fun h => ⟨fun hb => exec_tdispRequest (r := some .run) h (congrArg (tdiNext · .start) hb),
        exec_tdispRequest h (tdiNext_stop _)⟩, exec_tdispRequest_refused⟩

end Sys2Proof.Machine
end

section
/-! PROOF. A watchdog that has run out expires again while a rollback is under way (O60): the rollback of a forme that STALL has stopped
leaves the watchdog as it stands, and what is detected during a restore is not reported (R315). -/

namespace Sys2Proof.Machine

/-! ### The watchdog runs out (R257, R305, R315) -/

/-- A forme in which STALL has been detected. -/
def Inst.stall (i : Inst) : Inst := { i with stalled := true }

/-- The forme frozen for a report that was detected in a cycle. -/
def Inst.frozenFor (i : Inst) (r : Report) (cycle : Nat) : Inst := { i.queueReport r cycle with frozen := true, thawing := [] }

section
variable {s : State} {id : Nat} {i : Inst} (hi : aget? s.insts id = some i)
include hi

theorem State.report_queued (hr : i.restoring = false) (hh : s.noHandler i = false) (r : Report) :
    s.report id r = s.setInst id (i.frozenFor r s.cycle) := by
  simp only [State.report, hi, hr, hh, Bool.false_eq_true, if_false]
  rfl

/-- What is detected during a restore is neither queued nor freezes the forme. -/
theorem State.report_restoring (hr : i.restoring = true) (r : Report) : s.report id r = s := by
  simp only [State.report, hi, hr, if_true]

/-- An expiry detects STALL in the forme, which is stalled from now on. -/
theorem exec_watchdogExpiry_detects (hw : 2 ^ 20 ≤ i.watchdog) (hs : i.stalled = false) (hf : i.frozen = false) :
    ∃ r, exec (.watchdogExpiry id) s = .next ((s.setInst id i.stall).report id r) := by
  have hu : s.updInst id (fun i => { i with stalled := true }) = s.setInst id i.stall := by
    simp only [State.updInst, hi]
    rfl
  have hgo : ¬(i.watchdog < 2 ^ 20 ∨ i.stalled = true ∨ i.frozen = true) := fun h => by
    simp only [hs, hf, Bool.false_eq_true, or_false] at h
    omega
  show ∃ r, execWatchdogExpiry id s = _
  simp only [execWatchdogExpiry, hi, if_neg hgo, hu]
  exact ⟨_, rfl⟩

theorem exec_watchdogExpiry_stops (hw : 2 ^ 20 ≤ i.watchdog) (hs : i.stalled = false) (hf : i.frozen = false) (hr : i.restoring = false)
    (hh : s.noHandler i = false) : ∃ r, exec (.watchdogExpiry id) s =
      .next ((s.setInst id i.stall).setInst id (i.stall.frozenFor r s.cycle)) := by
  obtain ⟨r, he⟩ := exec_watchdogExpiry_detects hi hw hs hf
  exact ⟨r, he.trans (congrArg _ (State.report_queued (s := s.setInst id i.stall) (aget?_aset_same _ _ _) hr hh r))⟩

theorem exec_watchdogExpiry_restoring (hw : 2 ^ 20 ≤ i.watchdog) (hs : i.stalled = false) (hf : i.frozen = false) (hr : i.restoring = true) :
    exec (.watchdogExpiry id) s = .next (s.setInst id i.stall) := by
  obtain ⟨r, he⟩ := exec_watchdogExpiry_detects hi hw hs hf
  exact he.trans (congrArg _ (State.report_restoring (s := s.setInst id i.stall) (aget?_aset_same _ _ _) hr r))

end

/-! ### A rollback leaves the watchdog as it stands (R315) -/

theorem State.thread_dropOps (s : State) (ids : List Nat) (sheet ctx : Nat) : (s.dropOps ids).thread sheet ctx = s.thread sheet ctx :=
  State.foldl_same (fun s => s.thread sheet ctx) (fun s k => by rw [State.thread, State.sheet_freeRanges]; rfl) ids s

section
variable {s : State} {id : Nat} {i : Inst} (hi : aget? s.insts id = some i)
include hi

theorem State.beginRollback_eq (hr : i.restoring = false) (hc : i.cutsDone ≠ 0) (hb : i.rollbacks < 7) : s.beginRollback id =
    (s.dropOps (s.opsSinceCut id i.cutsDone)).setInst id { i with
      restoring := true, frozen := false, stalled := false, reports := [], openReport := none, thawing := [], held := [],
      heldLines := [], late := [], cutting := none, rollbacks := i.rollbacks + 1 } := by
  have hgo : ¬(i.cutsDone = 0 ∨ 7 ≤ i.rollbacks) := by omega
  simp only [State.beginRollback, hi, hr, hgo, Bool.false_eq_true, if_false]

/-- A parity error winds a forme back whether or not STALL has stopped it; its watchdog and its base thread are as they were. -/
theorem exec_tokenParityError_watchdog {site : FaultSite} (hl : s.lastingAt site false = false) (hr : i.restoring = false)
    (hc : i.cutsDone ≠ 0) (hb : i.rollbacks < 7) : ∃ t u, exec (.tokenParityError id site) s = .next t ∧ aget? t.insts id = some u ∧
      u.restoring = true ∧ u.stalled = false ∧ u.frozen = false ∧ u.watchdog = i.watchdog ∧ t.noHandler u = s.noHandler i := by
  let v := s.noteFault site false [id]
  have hexec : exec (.tokenParityError id site) s = .next (v.beginRollback id) := by
    show execTokenParityError id site s = _
    simp only [execTokenParityError, hi, Option.isSome_some, if_true, State.machineFault, hl, Bool.false_eq_true, if_false]
    rfl
  refine ⟨_, _, hexec.trans (congrArg _ (State.beginRollback_eq (s := v) hi hr hc hb)), aget?_aset_same _ _ _, rfl, rfl, rfl, rfl, ?_⟩
  exact congrArg (fun x : Thread => decide (x.tvec = 0) || decide (x.run ≠ .running)) (v.thread_dropOps _ i.base i.ctx)

end

/-! ### A forme whose watchdog runs out, and a parity error in it -/

/-- The image of a launch of one phase on one sheet. -/
def stallingImage : Image := { pinned := false, crossDie := false, needs := [], variants := [], bytes := 64 }

/-- Its one n. -/
def stallingVariant : ImageVariant :=
  { n := 1, w := 1, h := 1, packets := [], code := [0], actors := [], routes := [], regions := [] }

/-- The launch. -/
def stallingSlice : Slice :=
  sliceOf 0 1 [] { image := stallingImage, n := 1, params := [], rasBase := 0, rasLim := 0, die := 0 } 0 0

/-- Its forme on sheet 0, with one cut complete and the watchdog at 2^20. -/
def stallingInst : Inst := { instOf 2 stallingSlice stallingImage stallingVariant 0 0 0 0 with cutsDone := 1, watchdog := 2 ^ 20 }

/-- The device with that forme, whose base thread runs and has a handler. -/
def stallingState : State :=
  ({ State.reset with insts := [(1, stallingInst)] } : State).setThread 0 0 { Thread.reset with run := .running, tvec := 0xFF00000001300100 }

/-- Refutes O60: it asks that an expiry of the watchdog at 2^20 freezes a forme that is neither stalled nor frozen, also one that is being
restored. STALL stops the forme; a parity error then winds it back, its watchdog as it stands; and the next expiry freezes nothing, since
what is detected during a restore is not reported. -/
theorem not_recovery : ¬ Obligations.Recovery := by
  unfold Obligations.Recovery
  intro h
  obtain ⟨stall, -⟩ := exec_watchdogExpiry_stops (s := stallingState) (id := 1) (i := stallingInst) rfl (by decide) rfl rfl rfl rfl
  let stopped := (stallingState.setInst 1 stallingInst.stall).setInst 1 (stallingInst.stall.frozenFor stall stallingState.cycle)
  obtain ⟨s, i, -, hi, hr, hs, hf, hw, hh⟩ := exec_tokenParityError_watchdog (s := stopped) (id := 1)
    (site := .node ⟨.element, 0, 0, 0⟩) (aget?_aset_same _ _ _) rfl rfl Nat.one_ne_zero (show 0 < 7 by decide)
  have hw : 2 ^ 20 ≤ i.watchdog := hw ▸ Nat.le_refl _
  obtain ⟨-, -, -, -, -, -, -, -, -, hexpiry, -⟩ := h s 1 i hi
  obtain ⟨t, u, r, he, hu, hfrozen, -⟩ := (hexpiry hw hs hf).2 (hh.trans rfl)
  rw [exec_watchdogExpiry_restoring hi hw hs hf hr] at he
  cases he
  cases (aget?_aset_same _ _ _).symm.trans hu
  exact Bool.false_ne_true (hf.symm.trans hfrozen)

end Sys2Proof.Machine
end

section
/-! PROOF. The tables of the drover that the hypervisor writes, and the plain registers (O55). -/

namespace Sys2Proof.Machine

/-! ### Bits of entries (R273, R280, R282) -/

/-- The low bits of an entry, as a number and as a bit vector. -/
theorem bitsOf_low {n : Nat} (e : BitVec n) (w : Nat) : bitsOf e.toNat 0 w = (e.extractLsb' 0 w).toNat := by
  rw [bitsOf_zero, BitVec.extractLsb'_toNat, Nat.shiftRight_zero]

theorem tagOf_eq_iff (e v : Byte) : bitsOf e.toNat 0 7 = bitsOf v.toNat 0 7 ↔ e.extractLsb' 0 7 = v.extractLsb' 0 7 := by
  rw [bitsOf_low, bitsOf_low, BitVec.toNat_inj]

theorem tagOf_eq_zero_iff (e : Byte) : bitsOf e.toNat 0 7 = 0 ↔ e.extractLsb' 0 7 = 0 := by
  rw [bitsOf_low, ← BitVec.toNat_inj]
  rfl

/-- The bits of a window entry that are stored hold its valid bit. -/
theorem windowBits_valid (v : BitVec 16) : (v &&& 0xFF80).getLsbD 15 = v.getLsbD 15 := by
  rw [BitVec.getLsbD_and]
  simp

theorem overlay_allOnes (r v : BitVec 512) : overlay r (BitVec.allOnes 512) v = v := by
  rw [overlay, BitVec.and_allOnes, BitVec.not_allOnes, BitVec.and_zero, BitVec.zero_or]

/-- A write of all bits of a record begins at its first byte (R335). -/
theorem recordWriteOff_allOnes (tag : Nat) : recordWriteOff tag (BitVec.allOnes 512) = 0x1000 + 64 * tag := by
  have h : ((List.range 64).find? fun k => decide (bitsOf (BitVec.allOnes 512).toNat (8 * k) 8 ≠ 0)) = some 0 := by
    rw [List.range_succ_eq_map]
    exact List.find?_cons_of_pos (by decide +kernel)
  rw [recordWriteOff, h]
  rfl

/-! ### A phase boundary (R273, R282) -/

section
variable {l : List (Nat × BitVec 512 × BitVec 512)} {tag : Nat} (h : ∀ p ∈ l, p.1 ≠ tag)
include h

theorem filter_ofTenant : (l.filter fun p => decide (p.1 = tag)) = [] :=
  List.filter_eq_nil_iff.mpr fun p hp => by simp [h p hp]

theorem filter_ofOthers : (l.filter fun p => decide (p.1 ≠ tag)) = l :=
  List.filter_eq_self.mpr fun p hp => decide_eq_true (h p hp)

/-- Of a tenant for which no write waits, a write is the only one that does. -/
theorem mergeWrite_fresh (v : BitVec 512) :
    mergeWrite l tag (BitVec.allOnes 512) v = l ++ [(tag, BitVec.allOnes 512, v)] := by
  have hf : (l.find? fun p => decide (p.1 = tag)) = none := List.find?_eq_none.mpr fun p hp => by simp [h p hp]
  rw [mergeWrite, hf, filter_ofOthers h]
  show l ++ [(tag, 0#512 ||| BitVec.allOnes 512, overlay 0 _ v)] = _
  rw [overlay_allOnes, BitVec.zero_or]

end

/-- The windows that wait on a tenant's banks take effect. -/
def State.openWindows (s : State) (tenant : Nat) : State :=
  { s with bulkheads := amap s.bulkheads fun _ b => if b.tag.toNat = tenant then b.applyWindows else b }

/-- What waits of a tenant without a phase is looked at, and its windows take effect. -/
theorem State.boundary_ready {s : State} {tag : Nat} (hp : s.phaseRuns tag = false) {mine rest : List (Nat × BitVec 512 × BitVec 512)}
    (hm : (s.drover.recordWrites.filter fun p => decide (p.1 = tag)) = mine)
    (hr : (s.drover.recordWrites.filter fun p => decide (p.1 ≠ tag)) = rest) :
    s.boundary tag = (mine.foldl State.applyWrite (s.updDrover fun d => { d with recordWrites := rest })).openWindows tag := by
  rw [State.boundary, hp, ← hm, ← hr]
  rfl

/-- Where no record write waits, the windows are all. -/
theorem State.boundary_windows {s : State} {tag : Nat} (hp : s.phaseRuns tag = false) (hw : ∀ p ∈ s.drover.recordWrites, p.1 ≠ tag) :
    s.boundary tag = s.openWindows tag :=
  State.boundary_ready hp (filter_ofTenant hw) (filter_ofOthers hw)

/-! ### Tenant records (R272, R273) -/

/-- A record that takes effect is the tenant's from then on. -/
theorem State.records_applyRecord (s : State) (tenant : Nat) (r : BitVec 512) :
    (s.applyRecord tenant r).drover.records = aset s.drover.records tenant r := by
  unfold State.applyRecord
  extract_lets old u w
  have hw : w.drover.records = aset s.drover.records tenant r := by unfold w; rw [State.askBulkheads_eq]; rfl
  split <;> exact hw

/-- A write of all bits of a tenant's record waits behind the others. -/
def State.awaitRecord (s : State) (tag : Nat) (r : BitVec 512) : State :=
  s.updDrover fun d => { d with recordWrites := d.recordWrites ++ [(tag, BitVec.allOnes 512, r)] }

section
variable {s : State} (hq : ∀ t, s.tdiRuns t = false) {tag : Nat} {r : BitVec 512}

theorem exec_tenantRecordWrite_ignored (h : tag = 0 ∨ 127 ≤ tag) : exec (.tenantRecordWrite tag r) s = .next s :=
  congrArg Host.Outcome.next (if_pos h)

theorem exec_tenantRecordWrite_refused (h0 : 0 < tag) (h127 : tag < 127) (hr : s.recordOk tag r = false) :
    exec (.tenantRecordWrite tag r) s = .next (s.refusePf (0x1000 + 64 * tag)) := by
  have htag : ¬(tag = 0 ∨ 127 ≤ tag) := by omega
  show Host.Outcome.next (s.writeRecordOf tag (BitVec.allOnes 512) r) = _
  simp only [State.writeRecordOf, overlay_allOnes, recordWriteOff_allOnes, htag, hr, if_false, Bool.not_false, if_true]

variable (hw : ∀ p ∈ s.drover.recordWrites, p.1 ≠ tag)
include hw

/-- Of a tenant without a phase, the one write that waits is looked at. -/
theorem State.boundary_awaitRecord (hp : s.phaseRuns tag = false) :
    (s.awaitRecord tag r).boundary tag = (s.applyWrite (tag, BitVec.allOnes 512, r)).openWindows tag := by
  refine (State.boundary_ready (s := s.awaitRecord tag r) hp (mine := [(tag, BitVec.allOnes 512, r)]) (rest := s.drover.recordWrites)
    ?_ ?_).trans rfl
  · show (s.drover.recordWrites ++ _).filter _ = _
    rw [List.filter_append, filter_ofTenant hw, List.nil_append]
    exact List.filter_cons_of_pos (decide_eq_true rfl)
  · show (s.drover.recordWrites ++ _).filter _ = _
    rw [List.filter_append, filter_ofOthers hw, List.filter_cons_of_neg (by simp)]
    exact List.append_nil _

include hq

theorem exec_tenantRecordWrite_taken (h0 : 0 < tag) (h127 : tag < 127) (hr : s.recordOk tag r = true) :
    exec (.tenantRecordWrite tag r) s = .next ((s.awaitRecord tag r).boundary tag) := by
  have htag : ¬(tag = 0 ∨ 127 ≤ tag) := by omega
  show Host.Outcome.next (s.writeRecordOf tag (BitVec.allOnes 512) r) = _
  simp only [State.writeRecordOf, overlay_allOnes, htag, hr, State.attestedChange_untrusted (hq tag), ite_self, Bool.not_true,
    Bool.false_eq_true, if_false, State.updDrover, mergeWrite_fresh hw]
  rfl

/-- A record that no phase and no VF keeps waiting takes effect at once. -/
theorem tenantRecordWrite_effective (h0 : 0 < tag) (h127 : tag < 127) (hr : s.recordOk tag r = true) (hp : s.phaseRuns tag = false)
    (hv : s.vfMoves tag r = false) :
    ∃ t, exec (.tenantRecordWrite tag r) s = .next t ∧ aget? t.drover.records tag = some r ∧ t.mem = s.mem := by
  have hc : s.vfClash tag r = false := by
    simp only [State.recordOk, Bool.and_eq_true, Bool.not_eq_true'] at hr
    exact hr.2
  have ha : s.applyWrite (tag, BitVec.allOnes 512, r) = s.applyRecord tag r := by
    simp only [State.applyWrite, overlay_allOnes, hv, hc, Bool.false_eq_true, if_false]
  refine ⟨_, (exec_tenantRecordWrite_taken hq hw h0 h127 hr).trans (congrArg _ (State.boundary_awaitRecord hw hp)), ?_, State.applyWrite_mem _ _⟩
  show aget? (s.applyWrite _).drover.records tag = _
  rw [ha, State.records_applyRecord, aget?_aset_same]

/-- A record waits for the phases of its tenant, and for the launches of VFs that change hands. -/
theorem tenantRecordWrite_waits (h0 : 0 < tag) (h127 : tag < 127) (hr : s.recordOk tag r = true)
    (h : s.phaseRuns tag = true ∨ s.vfMoves tag r = true) : ∃ t, exec (.tenantRecordWrite tag r) s = .next t ∧
      t.drover.records = s.drover.records ∧ (tag, BitVec.allOnes 512, r) ∈ t.drover.recordWrites ∧ t.mem = s.mem := by
  have he := exec_tenantRecordWrite_taken hq hw h0 h127 hr
  have hlast : (tag, BitVec.allOnes 512, r) ∈ (s.awaitRecord tag r).drover.recordWrites := List.mem_append_right _ List.mem_cons_self
  by_cases hp : s.phaseRuns tag = true
  · exact ⟨_, he.trans (congrArg _ (if_pos hp)), rfl, hlast, rfl⟩
  · have ha : s.applyWrite (tag, BitVec.allOnes 512, r) = s.awaitRecord tag r := by
      simp only [State.applyWrite, overlay_allOnes, h.resolve_left hp, if_true]
      rfl
    rw [State.boundary_awaitRecord hw (Bool.eq_false_iff.mpr hp), ha] at he
    exact ⟨_, he, rfl, hlast, rfl⟩

end

/-! ### Frames (R280) -/

/-- Where the bytes of a frame begin. -/
def frameBase (f : Nat) : Nat := if f < 1024 then f * 2 ^ 30 else 2 ^ 40 + (f - 1024) * 2 ^ 30

/-- A frame filled with zeros reads zero. -/
theorem State.get_zeroFrame (s : State) {f a : Nat} (h1 : frameBase f ≤ a) (h2 : a < frameBase f + 2 ^ 30) : (s.zeroFrame f).mem.get a = 0 :=
  Memory.get_filter_out (p := fun a => decide (frameBase f ≤ a) && decide (a < frameBase f + 2 ^ 30))
    (by rw [decide_eq_true h1, decide_eq_true h2]; rfl)

section
variable {s : State} {f : Nat} {v old : Byte} (hold : agetD s.drover.frames f 0 = old)

theorem exec_frameTableWrite_absent (h : s.hasFrame f = false) : exec (.frameTableWrite f v) s = .next (s.refusePf (0x10000 + f)) :=
  congrArg Host.Outcome.next (if_pos (by rw [h]; rfl))

include hold

/-- A valid frame does not go from one owner to another. -/
theorem exec_frameTableWrite_owned (ho : old.getLsbD 7 = true) (hv : v.getLsbD 7 = true) (h0 : old.extractLsb' 0 7 ≠ 0)
    (hne : old.extractLsb' 0 7 ≠ v.extractLsb' 0 7) : exec (.frameTableWrite f v) s = .next (s.refusePf (0x10000 + f)) := by
  show Host.Outcome.next (s.writeFrame f v) = _
  simp only [State.writeFrame, hold, ho, hv, ne_eq, tagOf_eq_zero_iff, tagOf_eq_iff, h0, hne, not_false_eq_true, decide_true, Bool.and_self,
    if_true, ite_self]

/-- Any other entry is written; a frame that becomes valid, or another owner's, is filled with zeros first. -/
theorem exec_frameTableWrite_taken (hq : ∀ t, s.tdiRuns t = false) (hf : s.hasFrame f = true) (h : old.getLsbD 7 = false ∨
      v.getLsbD 7 = false ∨ old.extractLsb' 0 7 = 0 ∨ old.extractLsb' 0 7 = v.extractLsb' 0 7) :
    exec (.frameTableWrite f v) s = .next ((if v.getLsbD 7 = true ∧ (old.getLsbD 7 = false ∨ old.extractLsb' 0 7 ≠ v.extractLsb' 0 7)
      then s.zeroFrame f else s).updDrover fun d => { d with frames := aset d.frames f v }) := by
  have hgo : ¬(((old.getLsbD 7 = true ∧ v.getLsbD 7 = true) ∧ old.extractLsb' 0 7 ≠ 0) ∧ old.extractLsb' 0 7 ≠ v.extractLsb' 0 7) := by
    rintro ⟨⟨⟨ho, hv⟩, h0⟩, hne⟩
    simp only [ho, hv, Bool.true_eq_false, false_or] at h
    exact h.elim h0 hne
  show Host.Outcome.next (s.writeFrame f v) = _
  simp only [State.writeFrame, hold, hf, State.attestedChange_untrusted (hq _), ite_self, Bool.not_true, Bool.false_eq_true, if_false, ne_eq,
    tagOf_eq_iff, tagOf_eq_zero_iff, Bool.and_eq_true, Bool.or_eq_true, Bool.not_eq_true', decide_not, decide_eq_false_iff_not]
  rw [if_neg hgo]

end

/-! ### Filters (R292, R293) -/

theorem exec_filterEntryWrite_refused (s : State) (e : Nat) {v : BitVec 128} (h : filterOk v = false) :
    exec (.filterEntryWrite e v) s = .next (s.refusePf (0x6000 + 16 * e)) :=
  congrArg Host.Outcome.next (if_pos (by rw [h]; rfl))

theorem exec_filterEntryWrite_taken {s : State} (hq : ∀ t, s.tdiRuns t = false) (e : Nat) {v : BitVec 128} (h : filterOk v = true) :
    exec (.filterEntryWrite e v) s =
      .next (s.updDrover fun d => { d with filters := aset d.filters e v, buckets := adel d.buckets e }) := by
  show Host.Outcome.next (s.writeFilter e v _) = _
  simp only [State.writeFilter, h, Bool.not_true, Bool.false_eq_true, if_false, State.foldl_attestedChange fun n _ => hq n]

/-! ### Windows (R282, R284) -/

/-- A write of a window entry waits behind the others of its bank. -/
def Bulkhead.awaitWindow (b : Bulkhead) (e : Nat) (v : BitVec 16) : Bulkhead := { b with windowWrites := b.windowWrites ++ [(e, v)] }

section
variable {s : State} {bank e : Nat} {v : BitVec 16}

theorem exec_windowEntryWrite_refused (hv : v.getLsbD 15 = true) (h : s.windowOk bank e (v &&& 0xFF80) = false) :
    exec (.windowEntryWrite bank e v) s = .next (s.refusePf (windowOff bank e)) :=
  congrArg Host.Outcome.next (if_pos (by rw [windowBits_valid, hv, h]; rfl))

theorem exec_windowEntryWrite_taken (hq : ∀ t, s.tdiRuns t = false)
    (h : v.getLsbD 15 = false ∨ s.windowOk bank e (v &&& 0xFF80) = true) : exec (.windowEntryWrite bank e v) s =
      .next ((s.setBulkhead bank ((s.bulkhead bank).awaitWindow e (v &&& 0xFF80))).boundary (s.bulkhead bank).tag.toNat) := by
  have hgo : ((v &&& 0xFF80).getLsbD 15 && !(s.windowOk bank e (v &&& 0xFF80))) = false := by
    rw [windowBits_valid]
    obtain h | h := h
    · rw [h, Bool.false_and]
    · rw [h, Bool.not_true, Bool.and_false]
  show Host.Outcome.next (s.writeWindow bank e v _) = _
  simp only [State.writeWindow, hgo, Bool.false_eq_true, if_false, State.attestedChange_untrusted (hq _), ite_self]
  rfl

/-- The windows that wait on a bank of the tenant take effect. -/
theorem State.bulkhead_openWindows (s : State) (n : Nat) (b : Bulkhead) :
    ((s.setBulkhead n b).openWindows b.tag.toNat).bulkhead n = b.applyWindows := by
  have hb : aget? (s.setBulkhead n b).bulkheads n = some b := aget?_aset_same s.bulkheads n b
  simp only [State.bulkhead, State.openWindows, agetD, aget?_amap, hb, Option.map_some, Option.getD_some, if_true]

/-- Of the entries written to a bank, the last is in force where it is written. -/
theorem getElem?_foldl_set (l : List (Nat × BitVec 16)) (w : List (BitVec 16)) {e : Nat} (he : e < w.length) (v : BitVec 16) :
    ((l ++ [(e, v)]).foldl (fun w p => w.set p.1 p.2) w)[e]? = some v := by
  have hl : (l.foldl (fun w p => w.set p.1 p.2) w).length = w.length := by
    induction l generalizing w with
    | nil => rfl
    | cons p r ih => exact (ih _ (by simpa using he)).trans (List.length_set ..)
  rw [List.foldl_append, List.foldl_cons, List.foldl_nil]
  exact List.getElem?_set_self (hl ▸ he)

end

/-! ### Ring sizes (R338) -/

theorem ringSizeOk_iff (v : Word) : ringSizeOk v = true ↔ v ∈ [0x10#64, 0x20, 0x40, 0x80, 0x100, 0x200, 0x400, 0x800, 0x1000] := by
  simp [ringSizeOk, List.range_succ, ← BitVec.toNat_inj]

/-- A launch ring takes a size with which it lies on pinned pages, once it has a base (R337). -/
theorem State.sizeFits_iff (s : State) (vf : Nat) (v : Word) : s.sizeFits vf (s.vf vf).lrBase v 64 = true ↔
    v ∈ [0x10#64, 0x20, 0x40, 0x80, 0x100, 0x200, 0x400, 0x800, 0x1000] ∧
      ((s.vf vf).lrBase = 0 ∨ s.ringBaseOk vf (s.vf vf).lrBase (64 * v.toNat) = true) := by
  rw [State.sizeFits, Bool.and_eq_true, Bool.or_eq_true, decide_eq_true_eq, ringSizeOk_iff]

/-- A ring size is taken with the base there is, or there is no change. -/
theorem exec_registerWrite_lrSize {s : State} {vf : Nat} (h : s.vfBusy vf = false) (v : Word) :
    exec (.registerWrite (vf + 1) 0x008 v) s = .next (s.setVf vf
      (if s.sizeFits vf (s.vf vf).lrBase v 64 then { s.vf vf with lrSize := v } else s.vf vf)) :=
  congrArg Host.Outcome.next (State.writeRing_idle h _)

/-- Settles O55: each table by the lemmas about its writes. -/
theorem droverTables : Obligations.DroverTables := by
  unfold Obligations.DroverTables
  intro s hq
  refine ⟨fun tag r => ⟨exec_tenantRecordWrite_ignored, fun h0 h127 hr => ?_, fun h0 h127 hr hw =>
      ⟨tenantRecordWrite_effective hq hw h0 h127 hr, tenantRecordWrite_waits hq hw h0 h127 hr⟩⟩,
    fun f v => ?_, fun e v => ⟨fun h => ?_, fun h => ?_⟩, fun bank e v => ?_, fun vf v => ?_⟩
  · exact ⟨_, exec_tenantRecordWrite_refused h0 h127 hr, rfl, rfl, congrArg (BitVec.ofNat 64) (Nat.add_assoc _ _ _).symm, rfl⟩
  · refine ⟨fun h => ?_, fun ho hv h0 hne => ?_, fun hf h => ?_⟩
    · exact ⟨_, exec_frameTableWrite_absent h, rfl, rfl, congrArg (BitVec.ofNat 64) (Nat.add_assoc _ _ _).symm⟩
    · exact ⟨_, exec_frameTableWrite_owned rfl ho hv h0 hne, rfl, rfl⟩
    · refine ⟨_, exec_frameTableWrite_taken rfl hq hf h, aget?_aset_same _ _ _, fun hv => ?_, fun hv hfresh _ a h1 h2 => ?_⟩
      · rw [if_neg fun hc => Bool.false_ne_true (hv.symm.trans hc.1)]
        rfl
      · rw [if_pos ⟨hv, hfresh⟩]
        exact s.get_zeroFrame h1 h2
  · exact ⟨_, exec_filterEntryWrite_refused s e h, rfl, rfl⟩
  · exact ⟨_, exec_filterEntryWrite_taken hq e h, aget?_aset_same _ _ _, aget?_adel_same _ _, rfl⟩
  · refine ⟨fun hv h => ⟨_, exec_windowEntryWrite_refused hv h, rfl, rfl⟩, fun h => ⟨fun hp => ?_, fun hp hw he => ?_⟩⟩
    · refine ⟨_, exec_windowEntryWrite_taken hq h, ?_, State.boundary_mem _ _⟩
      exact (congrArg (State.bulkhead · bank) (if_pos hp)).trans (State.bulkhead_setBulkhead s bank _)
    · have ht := s.bulkhead_openWindows bank ((s.bulkhead bank).awaitWindow e (v &&& 0xFF80))
      refine ⟨_, (exec_windowEntryWrite_taken hq h).trans (congrArg _ (State.boundary_windows hp hw)), ?_, ?_, rfl⟩
      · exact (congrArg (·.windows[e]?) ht).trans (getElem?_foldl_set _ _ he _)
      · exact congrArg Bulkhead.windowWrites ht
  · refine ⟨rfl, rfl, fun h hs hl => ?_, fun h hn => ?_, fun h => congrArg Host.Outcome.next (State.writeRing_busy h _)⟩
    · rw [exec_registerWrite_lrSize h, if_pos ((State.sizeFits_iff s vf v).mpr ⟨hs, hl⟩)]
    · rw [exec_registerWrite_lrSize h, if_neg fun hc => ?_]
      obtain ⟨hs, hl⟩ := (State.sizeFits_iff s vf v).mp hc
      exact hn.elim (fun h => h hs) (fun h => h hl)

end Sys2Proof.Machine
end

section
/-! PROOF. The states of a bulkhead (O56): each instruction does what its rule gives, and only the memory beside a bulkhead that parks its
holder depends on the canonical form. -/

namespace Sys2Proof.Machine

/-! ### Clocks, zeroisation and the memory beside it (R3, R281, R285) -/

theorem aset_aset {κ α : Type} [DecidableEq κ] (l : Assoc κ α) (k : κ) (v w : α) : aset (aset l k v) k w = aset l k w := by
  induction l with
  | nil => simp [aset]
  | cons p r ih =>
    obtain ⟨j, x⟩ := p
    by_cases h : k = j <;> simp [aset, h, ih]

@[simp] theorem State.setBulkhead_setBulkhead (s : State) (n : Nat) (v w : Bulkhead) :
    (s.setBulkhead n v).setBulkhead n w = s.setBulkhead n w := by
  simp only [State.setBulkhead, aset_aset]

/-- The bulkhead with another flag for its PLL (R285). -/
def Bulkhead.withRelocking (b : Bulkhead) (r : Bool) : Bulkhead := { b with relocking := r }

theorem State.bulkhead_retune (s : State) (n : Nat) : ∃ r, s.retune.bulkhead n = (s.bulkhead n).withRelocking r := by
  unfold State.retune
  split
  · exact ⟨_, rfl⟩
  · split
    · exact ⟨_, rfl⟩
    · next b _ =>
      by_cases h : n = b
      · subst h
        exact ⟨true, State.bulkhead_setBulkhead _ _ _⟩
      · exact ⟨_, State.bulkhead_setBulkhead_other s _ h⟩

theorem State.drover_retune (s : State) : s.retune.drover = s.drover := by
  unfold State.retune
  split
  · rfl
  · split <;> rfl

section
variable {β : Type} {f : Bulkhead → β} (hf : ∀ b r, f (b.withRelocking r) = f b)
include hf

/-- Whatever of a bulkhead does not turn on its PLL's flag is the same when the clocks follow R3. -/
theorem State.retune_setBulkhead (s : State) (n : Nat) (b : Bulkhead) : f ((s.setBulkhead n b).retune.bulkhead n) = f b := by
  obtain ⟨r, hr⟩ := (s.setBulkhead n b).bulkhead_retune n
  rw [hr, State.bulkhead_setBulkhead, hf]

theorem State.rebalance_setBulkhead (s : State) (n : Nat) (b : Bulkhead) : f ((s.setBulkhead n b).rebalance.bulkhead n) = f b := by
  obtain ⟨r, hr⟩ := ({ s.setBulkhead n b with drover := _, free := _ } : State).bulkhead_retune n
  exact (congrArg f hr).trans ((hf _ r).trans (congrArg f (s.bulkhead_setBulkhead n b)))

end

theorem State.records_rebalance (s : State) : s.rebalance.drover.records = s.drover.records :=
  (congrArg Drover.records (State.drover_retune _)).trans rfl

/-- Every byte of the scratch of a bulkhead is zero. -/
def State.clean (s : State) (bh : Nat) : Prop := ∀ a, inScratch bh a = true → s.mem.get a = 0

theorem State.clean_beginZeroise (s : State) (bh : Nat) (next : BitVec 7) (st : BhState) (busy : BhBusy) :
    (s.beginZeroise bh next st busy).clean bh :=
  fun _ ha => Memory.get_filter_out ha

theorem State.bulkhead_beginZeroise (s : State) (bh : Nat) (next : BitVec 7) (st : BhState) (busy : BhBusy) :
    (s.beginZeroise bh next st busy).bulkhead bh =
      { s.bulkhead bh with state := st, nextTag := next, busy := busy, windows := [0, 0, 0, 0], windowWrites := [] } :=
  State.bulkhead_setBulkhead _ _ _

/-- What is taken out of canonical memory leaves the rest as it was. -/
theorem Memory.get_filter_kept {p : Nat → Bool} {a : Nat} (ha : p a = false) {m : Memory} {lo : Nat} (h : Memory.wfFrom lo m = true) :
    Memory.get (m.filter fun c => !(p c.1)) a = m.get a := by
  induction m generalizing lo with
  | nil => rfl
  | cons c r ih =>
    obtain ⟨b, v⟩ := c
    simp only [Memory.wfFrom, Bool.and_eq_true] at h
    obtain ⟨-, hr⟩ := h
    cases hb : p b with
    | true =>
      have hab : a ≠ b := fun e => by rw [e, hb] at ha; cases ha
      rw [List.filter_cons_of_neg (by simp [hb]), ih hr, Memory.get, if_neg hab]
      split
      · next hlt => exact Memory.get_below hr (Nat.lt_succ_of_lt hlt)
      · rfl
    | false => rw [List.filter_cons_of_pos (by simp [hb]), Memory.get, Memory.get, ih hr]

/-! ### What is asked of a bulkhead (R276) -/

section
variable {s : State} {bh : Nat} {a : BhAsk}

theorem State.askBh_retired (h : (s.bulkhead bh).state = .retired) : s.askBh bh a = s := if_pos h

/-- The one thing asked of a bulkhead waits where its state does not allow it. -/
theorem State.askBh_waits (hs : (s.bulkhead bh).state ≠ .retired) (hn : (s.bulkhead bh).asks = []) (ha : (s.bulkhead bh).allows a = false) :
    s.askBh bh a = s.setBulkhead bh { s.bulkhead bh with asks := [a] } := by
  have ha' : ({ s.bulkhead bh with asks := [a] } : Bulkhead).allows a = false := ha
  rw [State.askBh, if_neg hs, hn, List.nil_append, List.length_nil, Nat.zero_add]
  simp only [State.serveBh, State.bulkhead_setBulkhead, List.find?_cons, ha', List.find?_nil]

/-- The state with a bulkhead listed that may have been at its reset values. -/
def State.listed (s : State) (bh : Nat) : State := s.setBulkhead bh (s.bulkhead bh)

@[simp] theorem State.bulkhead_listed (s : State) (bh n : Nat) : (s.listed bh).bulkhead n = s.bulkhead n := by
  by_cases h : n = bh
  · subst h
    exact State.bulkhead_setBulkhead _ _ _
  · exact State.bulkhead_setBulkhead_other s _ h

/-- The one thing asked of a bulkhead is done where its state allows it. -/
theorem State.askBh_served (hs : (s.bulkhead bh).state ≠ .retired) (hn : (s.bulkhead bh).asks = []) (ha : (s.bulkhead bh).allows a = true) :
    s.askBh bh a = (s.listed bh).serveAsk bh a := by
  have ha' : ({ s.bulkhead bh with asks := [a] } : Bulkhead).allows a = true := ha
  have hb : ({ s.bulkhead bh with asks := [] } : Bulkhead) = s.bulkhead bh := by rw [← hn]
  rw [State.askBh, if_neg hs, hn, List.nil_append, List.length_nil, Nat.zero_add]
  simp only [State.serveBh, State.bulkhead_setBulkhead, List.find?_cons, ha', List.erase_cons_head, State.setBulkhead_setBulkhead, hb]
  rfl

end

/-- An instruction that asks something of a bulkhead. -/
theorem exec_asks {bh : Nat} {i : Instr} {a : BhAsk} (h : (i, a) ∈ [(Instr.bulkheadRelease bh, BhAsk.release),
      (.bulkheadReset bh true, .reset true), (.bulkheadReset bh false, .reset false)] ∨ ∃ tag, i = .bulkheadAssign bh tag ∧ a = .assign tag) (s : State) :
    exec i s = .next (s.askBh bh a) := by
  obtain h | ⟨tag, rfl, rfl⟩ := h
  · simp only [List.mem_cons, Prod.mk.injEq, List.not_mem_nil, or_false] at h
    obtain ⟨rfl, rfl⟩ | ⟨rfl, rfl⟩ | ⟨rfl, rfl⟩ := h <;> rfl
  · rfl

/-! ### Assignment (R276, R281, R287) -/

section
variable {s t : State} (hm : t.mem = s.mem) (hd : t.drover = s.drover)

include hd in
/-- Which frames are a tenant's depends on what the drover keeps. -/
theorem State.frameOk_congr (tenant p : Nat) : t.frameOk tenant p = s.frameOk tenant p := by
  unfold State.frameOk
  rw [hd]

include hm hd

/-- The leaves of a table depend on memory and on what the drover keeps. -/
theorem State.leaves_congr (tenant table : Nat) (levels : List (Nat × Nat × Nat × Nat)) :
    t.leaves tenant table levels = s.leaves tenant table levels := by
  induction levels generalizing table with
  | nil => rfl
  | cons l r ih => simp only [State.leaves, State.frameOk_congr hd, hm, ih]

theorem State.pinnedRc_congr (tenant p n : Nat) : t.pinnedRc tenant p n = s.pinnedRc tenant p n := by
  have hr : t.ptroot tenant = s.ptroot tenant := by unfold State.ptroot; rw [hd]
  simp only [State.pinnedRc, State.leaves_congr hm hd, State.frameOk_congr hd, hr]

/-- Whether a park area is in place depends, besides, on who holds the bulkheads. -/
theorem State.parkOk_congr (hb : ∀ n, t.bulkhead n = s.bulkhead n) (tenant bh : Nat) : t.parkOk tenant bh = s.parkOk tenant bh := by
  have hp : t.parkBase tenant bh = s.parkBase tenant bh := by simp only [State.parkBase, State.record, hb, hd]
  rw [State.parkOk, State.parkOk, hp, State.pinnedRc_congr hm hd]

end

theorem State.mayShare_listed (s : State) (bh tag : Nat) : (s.listed bh).mayShare bh tag = s.mayShare bh tag := by
  simp only [State.mayShare, State.bulkhead_listed, State.parkOk_congr (s := s) (t := s.listed bh) rfl rfl (s.bulkhead_listed bh)]

/-- A tenant given a bulkhead has the bulkhead's bit in its set (R273). -/
theorem State.record_setMask (s : State) (tag : Nat) {bh : Nat} (h : bh < 64) :
    ((s.setMask tag bh true).record tag).getLsbD (448 + bh) = true := by
  have hr : (s.setMask tag bh true).record tag = s.record tag ||| (1#512 <<< (448 + bh)) := agetD_aset_same _ _ _ _
  have hlt : 448 + bh < 512 := by omega
  rw [hr, BitVec.getLsbD_or, BitVec.getLsbD_shiftLeft]
  simp [hlt]

section
variable {s : State} {bh tag : Nat} (h0 : 0 < tag) (h127 : tag < 127) (ht : s.activeTenant tag = true)
include h0 h127 ht

theorem State.assignBh_free (hf : (s.bulkhead bh).state = .free) : s.assignBh bh tag =
    ((s.attestedChange tag).setMask tag bh true).beginZeroise bh (BitVec.ofNat 7 tag) .free .zeroising := by
  have htag : ¬(tag = 0 ∨ 127 ≤ tag) := by omega
  simp only [State.assignBh, hf, ht, htag, if_false, if_true, reduceCtorEq, false_and, Bool.true_eq_false]

theorem State.assignBh_active (ha : (s.bulkhead bh).state = .active) (hh : (s.bulkhead bh).holders.contains tag = false)
    (hm : s.mayShare bh tag = true) : s.assignBh bh tag = s.shareBh bh tag := by
  have htag : ¬(tag = 0 ∨ 127 ≤ tag) := by omega
  simp only [State.assignBh, ha, hh, hm, ht, htag, if_false, if_true, reduceCtorEq, Bool.false_eq_true, and_false, Bool.true_eq_false]

variable (hn : (s.bulkhead bh).asks = []) (hb : (s.bulkhead bh).busy = .no)
include hn hb

/-- A FREE bulkhead is zeroised for the tenant. -/
theorem bulkheadAssign_free (hf : (s.bulkhead bh).state = .free) (hs : (s.bulkhead bh).started = true) :
    ∃ t, exec (.bulkheadAssign bh tag) s = .next t ∧ (t.bulkhead bh).busy = .zeroising ∧ (t.bulkhead bh).nextTag = BitVec.ofNat 7 tag ∧
      (t.bulkhead bh).state = .free ∧ t.clean bh ∧ (bh < 64 → (t.record tag).getLsbD (448 + bh) = true) := by
  have ha : (s.bulkhead bh).allows (.assign tag) = true := by simp [Bulkhead.allows, hf, hs, hb]
  have he : exec (.bulkheadAssign bh tag) s = .next (s.askBh bh (.assign tag)) := rfl
  rw [State.askBh_served (by rw [hf]; decide) hn ha, State.serveAsk,
    State.assignBh_free (s := s.listed bh) h0 h127 ht ((congrArg _ (s.bulkhead_listed bh bh)).trans hf)] at he
  refine ⟨_, he, ?_, ?_, ?_, State.clean_beginZeroise _ _ _ _ _, State.record_setMask _ tag⟩ <;> rw [State.bulkhead_beginZeroise]

/-- One in use that may be shared gets the tenant at the end of its rotation list. -/
theorem bulkheadAssign_shared (hq : ∀ t, s.tdiRuns t = false) (ha : (s.bulkhead bh).state = .active)
    (hh : (s.bulkhead bh).holders.contains tag = false) (hm : s.mayShare bh tag = true) :
    ∃ t, exec (.bulkheadAssign bh tag) s = .next t ∧ (t.bulkhead bh).rotation = (s.bulkhead bh).rotation ++ [tag] ∧
      (t.bulkhead bh).shared = true ∧ (t.bulkhead bh).tag = (s.bulkhead bh).tag ∧ t.mem = s.mem := by
  have hal : (s.bulkhead bh).allows (.assign tag) = true := by simp [Bulkhead.allows, ha, hb]
  have hq' (t : Nat) : (s.listed bh).tdiRuns t = false := hq t
  have he : exec (.bulkheadAssign bh tag) s = .next (s.askBh bh (.assign tag)) := rfl
  rw [State.askBh_served (by rw [ha]; decide) hn hal, State.serveAsk, State.assignBh_active (s := s.listed bh) h0 h127 ht
      (by rw [State.bulkhead_listed, ha]) (by rw [State.bulkhead_listed, hh]) (by rw [State.mayShare_listed, hm]),
    State.shareBh, State.attestedChange_untrusted (hq' _), State.foldl_attestedChange fun t _ => hq' t, State.bulkhead_listed] at he
  exact ⟨_, he, State.rebalance_setBulkhead (f := Bulkhead.rotation) (fun _ _ => rfl) _ _ _,
    State.rebalance_setBulkhead (f := Bulkhead.shared) (fun _ _ => rfl) _ _ _,
    State.rebalance_setBulkhead (f := Bulkhead.tag) (fun _ _ => rfl) _ _ _, State.rebalance_mem _⟩

end

/-! ### Zeroisation is done (R276, R281, R322) -/

section
variable {s : State} {bh : Nat}

theorem zeroisationDone_active (hb : (s.bulkhead bh).busy = .zeroising) (hn : (s.bulkhead bh).nextTag ≠ 0) :
    ∃ t, exec (.zeroisationDone bh false) s = .next t ∧ (t.bulkhead bh).state = .active ∧ (t.bulkhead bh).tag = (s.bulkhead bh).nextTag ∧
      (t.bulkhead bh).busy = .no ∧ t.mem = s.mem := by
  have he : exec (.zeroisationDone bh false) s = .next (s.finishZeroise bh).rebalance := congrArg Host.Outcome.next (if_pos hb)
  rw [State.finishZeroise, if_neg hn] at he
  exact ⟨_, he, State.rebalance_setBulkhead (f := Bulkhead.state) (fun _ _ => rfl) _ _ _,
    State.rebalance_setBulkhead (f := Bulkhead.tag) (fun _ _ => rfl) _ _ _,
    State.rebalance_setBulkhead (f := Bulkhead.busy) (fun _ _ => rfl) _ _ _, State.rebalance_mem _⟩

theorem zeroisationDone_free (hb : (s.bulkhead bh).busy = .zeroising) (hn : (s.bulkhead bh).nextTag = 0) :
    ∃ t, exec (.zeroisationDone bh false) s = .next t ∧ (t.bulkhead bh).state = .free ∧ (t.bulkhead bh).tag = 0 ∧
      (t.bulkhead bh).rotation = [] ∧ t.mem = s.mem := by
  have he : exec (.zeroisationDone bh false) s = .next (s.finishZeroise bh).rebalance := congrArg Host.Outcome.next (if_pos hb)
  rw [State.finishZeroise, if_pos hn] at he
  exact ⟨_, he, State.rebalance_setBulkhead (f := Bulkhead.state) (fun _ _ => rfl) _ _ _,
    State.rebalance_setBulkhead (f := Bulkhead.tag) (fun _ _ => rfl) _ _ _,
    State.rebalance_setBulkhead (f := Bulkhead.rotation) (fun _ _ => rfl) _ _ _, State.rebalance_mem _⟩

/-- In a switch the next tenant's image is restored now (R288). -/
theorem exec_zeroisationDone_next (hb : (s.bulkhead bh).busy = .zeroisingNext) : exec (.zeroisationDone bh false) s =
    .next (s.setBulkhead bh { s.bulkhead bh with tag := (s.bulkhead bh).nextTag, busy := .restoring }) := by
  have hz : (s.bulkhead bh).busy ≠ .zeroising := by rw [hb]; decide
  exact congrArg Host.Outcome.next ((if_neg hz).trans (if_pos hb))

/-- A line whose read-back fails retires the bulkhead. -/
theorem exec_zeroisationDone_fails (hb : (s.bulkhead bh).busy = .zeroising ∨ (s.bulkhead bh).busy = .zeroisingNext) :
    exec (.zeroisationDone bh true) s = .next (s.retireBh bh) := by
  obtain hb | hb := hb
  · exact congrArg Host.Outcome.next (if_pos hb)
  · have hz : (s.bulkhead bh).busy ≠ .zeroising := by rw [hb]; decide
    exact congrArg Host.Outcome.next ((if_neg hz).trans (if_pos hb))

/-- A bulkhead that is zeroised once more and never used again. -/
def State.putOut (s : State) (bh : Nat) : State :=
  let s := s.beginZeroise bh 0 .retired .no
  (s.setBulkhead bh { s.bulkhead bh with
    tag := 0, shared := false, rotation := [], parked := [], relocking := false, mhz := 700, rail := 0, asks := [] }).rebalance.updPackage
      fun p => { p with replace := true, retired := p.retired ++ [bh] }

theorem State.retireBh_eq (hs : (s.bulkhead bh).state ≠ .retired) : ∃ u : State, s.retireBh bh = u.putOut bh :=
  ⟨_, if_neg hs⟩

theorem State.putOut_parts (s : State) (bh : Nat) : ((s.putOut bh).bulkhead bh).state = .retired ∧ ((s.putOut bh).bulkhead bh).mhz = 700 ∧
    ((s.putOut bh).bulkhead bh).rail = 0 ∧ (s.putOut bh).package.replace = true ∧ bh ∈ (s.putOut bh).package.retired ∧
    (s.putOut bh).clean bh := by
  refine ⟨(State.rebalance_setBulkhead (f := Bulkhead.state) (fun _ _ => rfl) _ _ _).trans
      (congrArg Bulkhead.state (s.bulkhead_beginZeroise bh 0 .retired .no)),
    State.rebalance_setBulkhead (f := Bulkhead.mhz) (fun _ _ => rfl) _ _ _,
    State.rebalance_setBulkhead (f := Bulkhead.rail) (fun _ _ => rfl) _ _ _, rfl, List.mem_append_right _ List.mem_cons_self, fun a ha => ?_⟩
  exact (congrArg (Memory.get · a) (State.rebalance_mem _)).trans (s.clean_beginZeroise bh 0 .retired .no a ha)

end

/-! ### Relocking (R285) -/

section
variable {s : State} {bh : Nat}

theorem pllRelockDone_relocks (h : (s.bulkhead bh).relocking = true) :
    ∃ t, exec (.pllRelockDone bh) s = .next t ∧ (t.bulkhead bh).mhz = s.targetMhz bh ∧
      (t.bulkhead bh).rail = railFor bh (s.targetMhz bh) ∧ (t.bulkhead bh).state = (s.bulkhead bh).state ∧ t.mem = s.mem :=
  ⟨_, congrArg Host.Outcome.next (if_pos h), State.retune_setBulkhead (f := Bulkhead.mhz) (fun _ _ => rfl) _ _ _,
    State.retune_setBulkhead (f := Bulkhead.rail) (fun _ _ => rfl) _ _ _,
    State.retune_setBulkhead (f := Bulkhead.state) (fun _ _ => rfl) _ _ _, State.retune_mem _⟩

theorem exec_pllRelockDone_none (h : (s.bulkhead bh).relocking = false) : exec (.pllRelockDone bh) s = .next s :=
  congrArg Host.Outcome.next (if_neg (by rw [h]; decide))

/-! ### Release (R276) -/

theorem bulkheadRelease_taken (ha : (s.bulkhead bh).state = .active) (hb : (s.bulkhead bh).busy = .no) (hn : (s.bulkhead bh).asks = []) :
    ∃ t, exec (.bulkheadRelease bh) s = .next t ∧ t.bulkhead bh = { s.bulkhead bh with busy := .releasing } ∧ t.mem = s.mem := by
  have hal : (s.bulkhead bh).allows .release = true := by simp [Bulkhead.allows, ha, hb]
  refine ⟨_, congrArg Host.Outcome.next (State.askBh_served (by rw [ha]; decide) hn hal), ?_, rfl⟩
  rw [State.serveAsk, State.bulkhead_setBulkhead, State.bulkhead_listed]

theorem exec_bulkheadReleaseDone_waits (h : s.instsOn bh ≠ []) : exec (.bulkheadReleaseDone bh) s = .next s :=
  congrArg Host.Outcome.next (if_neg fun hc => h hc.2.2)

theorem bulkheadReleaseDone_zeroises (ha : (s.bulkhead bh).state = .active) (hb : (s.bulkhead bh).busy = .releasing) (hi : s.instsOn bh = []) :
    ∃ t, exec (.bulkheadReleaseDone bh) s = .next t ∧ (t.bulkhead bh).state = .switching ∧ (t.bulkhead bh).busy = .zeroising ∧
      (t.bulkhead bh).nextTag = 0 ∧ t.clean bh := by
  refine ⟨_, congrArg Host.Outcome.next (if_pos ⟨ha, hb, hi⟩), ?_, ?_, ?_, State.clean_beginZeroise _ _ _ _ _⟩ <;>
    rw [State.bulkhead_beginZeroise]

/-! ### Time slices (R287, R288) -/

theorem exec_timeSliceExpiry_due (hs : (s.bulkhead bh).shared = true) (ha : (s.bulkhead bh).state = .active)
    (hb : (s.bulkhead bh).busy = .no) (h : (s.bulkhead bh).sliceEnd ≤ s.time) :
    exec (.timeSliceExpiry bh) s = .next (s.setBulkhead bh { s.bulkhead bh with busy := .sliceEnded }) :=
  congrArg Host.Outcome.next (if_pos (by simp [hs, ha, hb, h]))

theorem exec_timeSliceExpiry_early (h : s.time < (s.bulkhead bh).sliceEnd) : exec (.timeSliceExpiry bh) s = .next s :=
  congrArg Host.Outcome.next (if_neg (by simp [h]))

end

/-! ### Overrun (R273, R288) -/

/-- Bits that a bit vector made of a number has room for. -/
theorem bitsOf_ofNat (v : Nat) {n lo w : Nat} (h : lo + w ≤ n) : bitsOf (BitVec.ofNat n v).toNat lo w = bitsOf v lo w := by
  obtain ⟨k, rfl⟩ := Nat.exists_eq_add_of_le h
  rw [BitVec.toNat_ofNat, bitsOf, Nat.add_assoc, Nat.pow_add, Nat.mod_mul_right_div_self]
  exact Nat.mod_mod_of_dvd _ (Nat.pow_dvd_pow 2 (Nat.le_add_right w k))

/-- The overrun of a record is what was put there, as far as its 32 bits reach. -/
theorem recField_withOverrun (r : BitVec 512) (v : Nat) : recField (withOverrun r v) 128 32 = min v (2 ^ 32 - 1) := by
  rw [recField, withOverrun, bitsOf_ofNat _ (by decide), recField]
  unfold bitsOf
  omega

theorem State.overrun_setOverrun (s : State) (t v : Nat) : (s.setOverrun t v).overrun t = min v (2 ^ 32 - 1) := by
  have h : (s.setOverrun t v).record t = withOverrun (s.record t) v := agetD_aset_same _ _ _ _
  rw [State.overrun, h, recField_withOverrun]

theorem State.overrun_lt (s : State) (t : Nat) : s.overrun t < 2 ^ 32 := Nat.mod_lt _ (by decide)

section
variable {s : State} {bh : Nat}

theorem exec_bulkheadSwitch_waits (h : s.instsOn bh ≠ []) : exec (.bulkheadSwitch bh) s = .next s :=
  congrArg Host.Outcome.next (if_neg fun hc => h hc.2.2)

theorem bulkheadSwitch_begins (hq : ∀ t, s.tdiRuns t = false) (ha : (s.bulkhead bh).state = .active) (hb : (s.bulkhead bh).busy = .sliceEnded)
    (hi : s.instsOn bh = []) : ∃ t, exec (.bulkheadSwitch bh) s = .next t ∧ (t.bulkhead bh).state = .switching ∧
      (t.bulkhead bh).busy = .parking ∧ t.mem = s.mem ∧ t.overrun (s.bulkhead bh).tag.toNat =
        min (s.overrun (s.bulkhead bh).tag.toNat + ((s.bulkhead bh).phaseEnded - (s.bulkhead bh).sliceEnd) / 1000) (2 ^ 32 - 1) := by
  have he : exec (.bulkheadSwitch bh) s = .next _ := congrArg Host.Outcome.next (if_pos ⟨ha, hb, hi⟩)
  simp only [State.attestedChange_untrusted (hq _)] at he
  exact ⟨_, he, congrArg Bulkhead.state (State.bulkhead_setBulkhead _ _ _), congrArg Bulkhead.busy (State.bulkhead_setBulkhead _ _ _), rfl,
    s.overrun_setOverrun _ _⟩

/-! ### Parking and restoring (R288, R289) -/

/-- The image is its holder's, and lies in the holder's park area. -/
theorem State.holder_parkImage (s : State) (bh : Nat) : (s.parkImage bh).2.tenant = (s.bulkhead bh).tag.toNat ∧
    (s.parkImage bh).2.base = s.parkBase (s.bulkhead bh).tag.toNat bh := by
  unfold State.parkImage
  extract_lets t base p cells m
  split <;> exact ⟨rfl, rfl⟩

/-- The bulkhead with a tenant's image parked beside those of others. -/
def Bulkhead.park (b : Bulkhead) (p : Park) : Bulkhead :=
  { b with parked := p :: b.parked.filter fun p => decide (p.tenant ≠ b.tag.toNat) }

/-- The bulkhead once its image is written: the image is with it, and it is zeroised for the next of its rotation. -/
theorem exec_parkComplete {t : State} {p : Park} (ha : (s.bulkhead bh).state = .switching) (hb : (s.bulkhead bh).busy = .parking)
    (hp : s.parkImage bh = (t, p)) : exec (.parkComplete bh) s = .next ((t.setBulkhead bh ((s.bulkhead bh).park p)).beginZeroise bh
      (BitVec.ofNat 7 (nextHolder (s.bulkhead bh).rotation (s.bulkhead bh).tag.toNat)) .switching .zeroisingNext) := by
  refine congrArg Host.Outcome.next ((if_pos ⟨ha, hb⟩).trans ?_)
  rw [hp]
  rfl

theorem parkComplete_parks (ha : (s.bulkhead bh).state = .switching) (hb : (s.bulkhead bh).busy = .parking) :
    ∃ t, exec (.parkComplete bh) s = .next t ∧ (t.bulkhead bh).state = .switching ∧ (t.bulkhead bh).busy = .zeroisingNext ∧
      (t.bulkhead bh).rotation = (s.bulkhead bh).rotation ∧ (s.parkImage bh).2 ∈ (t.bulkhead bh).parked ∧
      (t.bulkhead bh).nextTag = BitVec.ofNat 7 (nextHolder (s.bulkhead bh).rotation (s.bulkhead bh).tag.toNat) ∧ t.clean bh ∧
      t.mem = ((s.parkImage bh).1.zeroise bh).mem := by
  cases hp : s.parkImage bh with
  | mk u p =>
    refine ⟨_, exec_parkComplete ha hb hp, ?_, ?_, ?_, ?_, ?_, State.clean_beginZeroise _ _ _ _ _, rfl⟩ <;>
      rw [State.bulkhead_beginZeroise, State.bulkhead_setBulkhead]
    · rfl
    · exact List.mem_cons_self

/-- What is zeroised once a park image is written leaves the rest of memory as the image left it. -/
def State.parkKeeps (s : State) (bh : Nat) : Prop :=
  ∀ a, inScratch bh a = false → ((s.parkImage bh).1.zeroise bh).mem.get a = (s.parkImage bh).1.mem.get a

theorem State.parkKeeps_of_wf (h : s.mem.wf = true) : s.parkKeeps bh := fun _ ha => Memory.get_filter_kept ha (State.parkImage_wf s bh h)

/-- The queues of a sheet as an image has them. -/
def State.putQueues (s : State) (q : Nat × Assoc Nat Queue) : State := s.setSheet q.1 { s.sheet q.1 with queues := q.2 }

/-- A park image put back changes nothing that the drover keeps, and takes no time. -/
theorem State.drover_restorePark (s : State) (bh : Nat) (p : Park) :
    (s.restorePark bh p).drover = s.drover ∧ (s.restorePark bh p).time = s.time := by
  unfold State.restorePark
  split
  · exact ⟨State.foldl_same State.drover (f := State.putQueues) (fun _ _ => rfl) _ _,
      State.foldl_same State.time (f := State.putQueues) (fun _ _ => rfl) _ _⟩
  · exact ⟨rfl, rfl⟩

/-- The bulkhead with the image of its holder, if it has one, put back. -/
def State.unpark (s : State) (bh : Nat) : State :=
  match (s.bulkhead bh).parked.find? fun p => decide (p.tenant = (s.bulkhead bh).tag.toNat) with
  | some p => s.restorePark bh p
  | none => s

theorem State.unpark_some {p : Park} (h : (s.bulkhead bh).parked.find? (fun p => decide (p.tenant = (s.bulkhead bh).tag.toNat)) = some p) :
    s.unpark bh = s.restorePark bh p := by
  rw [State.unpark, h]

theorem State.unpark_none (h : (s.bulkhead bh).parked.find? (fun p => decide (p.tenant = (s.bulkhead bh).tag.toNat)) = none) :
    s.unpark bh = s := by
  rw [State.unpark, h]

theorem State.drover_unpark (s : State) (bh : Nat) : (s.unpark bh).drover = s.drover ∧ (s.unpark bh).time = s.time := by
  unfold State.unpark
  split
  · exact s.drover_restorePark bh _
  · exact ⟨rfl, rfl⟩

/-- The bulkhead is ACTIVE for its holder again, the slice shortened by what the holder owes (R288). -/
def State.resume (s : State) (bh : Nat) (b : Bulkhead) : State :=
  let t := b.tag.toNat
  let len := s.sliceNs t / 1000
  let owed := min len (s.overrun t)
  ((s.setOverrun t (s.overrun t - owed)).setBulkhead bh { b with
    state := .active, busy := .no, parked := b.parked.filter fun p => decide (p.tenant ≠ t), sliceEnd := s.time + 1000 * (len - owed) }).rebalance

theorem restoreComplete_resumes (ha : (s.bulkhead bh).state = .switching) (hb : (s.bulkhead bh).busy = .restoring) :
    let w := s.overrun (s.bulkhead bh).tag.toNat
    let len := recField (s.record (s.bulkhead bh).tag.toNat) 160 32
    ∃ t, exec (.restoreComplete bh) s = .next t ∧ (t.bulkhead bh).state = .active ∧ (t.bulkhead bh).busy = .no ∧
      (t.bulkhead bh).sliceEnd = s.time + 1000 * (len - min len w) ∧ t.overrun (s.bulkhead bh).tag.toNat = w - min len w ∧
      t.mem = (s.unpark bh).mem := by
  intro w len
  obtain ⟨hd, ht⟩ := s.drover_unpark bh
  have hover : (s.unpark bh).overrun (s.bulkhead bh).tag.toNat = w := by rw [State.overrun, State.record, hd]; rfl
  have hlen : (s.unpark bh).sliceNs (s.bulkhead bh).tag.toNat / 1000 = len := by
    rw [State.sliceNs, State.record, hd]
    exact Nat.mul_div_cancel_left _ (by decide)
  have he : exec (.restoreComplete bh) s = .next ((s.unpark bh).resume bh (s.bulkhead bh)) :=
    congrArg Host.Outcome.next (if_pos ⟨ha, hb⟩)
  have hw : w < 2 ^ 32 := s.overrun_lt _
  rw [State.resume, hover, hlen, ht] at he
  refine ⟨_, he, State.rebalance_setBulkhead (f := Bulkhead.state) (fun _ _ => rfl) _ _ _,
    State.rebalance_setBulkhead (f := Bulkhead.busy) (fun _ _ => rfl) _ _ _,
    State.rebalance_setBulkhead (f := Bulkhead.sliceEnd) (fun _ _ => rfl) _ _ _, ?_, State.rebalance_mem _⟩
  rw [State.overrun, State.record, State.records_rebalance]
  refine ((s.unpark bh).overrun_setOverrun _ _).trans (Nat.min_eq_left ?_)
  omega

end

/-! ### Reset (R294) -/

theorem resetLineRelease_zeroises {s : State} {bh : Nat} (ha : (s.bulkhead bh).state = .reset) (hb : (s.bulkhead bh).busy = .resetLine) :
    ∃ t, exec (.resetLineRelease bh) s = .next t ∧ (t.bulkhead bh).state = .reset ∧ (t.bulkhead bh).busy = .zeroising ∧
      (t.bulkhead bh).nextTag = (s.bulkhead bh).nextTag ∧ t.clean bh := by
  refine ⟨_, congrArg Host.Outcome.next (if_pos ⟨ha, hb⟩), ?_, ?_, ?_, State.clean_beginZeroise _ _ _ _ _⟩ <;>
    rw [State.bulkhead_beginZeroise]

/-- Where a bulkhead stands between its states, and whom it is zeroised for. -/
def Bulkhead.stage (b : Bulkhead) : BhState × BhBusy × BitVec 7 := (b.state, b.busy, b.nextTag)

/-- From `s` to `t` no bulkhead moves on, and no operation is added. -/
structure KeepsStages (s t : State) : Prop where
  stages : ∀ n, (t.bulkhead n).stage = (s.bulkhead n).stage
  ops : t.ops ⊆ s.ops

theorem KeepsStages.of_eq {s t : State} (hb : t.bulkheads = s.bulkheads) (ho : t.ops = s.ops) : KeepsStages s t :=
  ⟨fun n => congrArg (fun l => (agetD l n Bulkhead.reset).stage) hb, ho ▸ List.Subset.refl _⟩

theorem KeepsStages.refl (s : State) : KeepsStages s s := .of_eq rfl rfl

theorem KeepsStages.trans {s t u : State} (h : KeepsStages s t) (h' : KeepsStages t u) : KeepsStages s u :=
  ⟨fun n => (h'.stages n).trans (h.stages n), List.Subset.trans h'.ops h.ops⟩

/-- A fold of steps each of which keeps the stages. -/
theorem KeepsStages.foldl {β : Type} {f : State → β → State} (h : ∀ s x, KeepsStages s (f s x)) (l : List β) (s : State) :
    KeepsStages s (l.foldl f s) := by
  induction l generalizing s with
  | nil => exact .refl s
  | cons x r ih => exact (h s x).trans (ih _)

/-- A change of the bulkheads that moves none on. -/
theorem KeepsStages.of_amap {s t : State} {f : Nat → Bulkhead → Bulkhead} (ht : t.bulkheads = amap s.bulkheads f)
    (hf : ∀ n b, (f n b).stage = b.stage) (ho : t.ops = s.ops) : KeepsStages s t := by
  refine ⟨fun n => ?_, ho ▸ List.Subset.refl _⟩
  rw [State.bulkhead, ht, State.bulkhead, agetD, agetD, aget?_amap]
  cases aget? s.bulkheads n with
  | none => rfl
  | some b => exact hf n b

theorem State.keepsStages_setBulkhead (s : State) {n : Nat} {b : Bulkhead} (h : b.stage = (s.bulkhead n).stage) :
    KeepsStages s (s.setBulkhead n b) := by
  refine ⟨fun m => ?_, List.Subset.refl _⟩
  by_cases hm : m = n
  · subst hm
    rw [State.bulkhead_setBulkhead, h]
  · rw [State.bulkhead_setBulkhead_other _ _ hm]

theorem State.keepsStages_askBulkheads (s : State) (tenant : Nat) (old new : BitVec 512) : KeepsStages s (s.askBulkheads tenant old new) := by
  refine KeepsStages.foldl (fun u n => ?_) _ s
  split
  · exact .refl u
  · exact u.keepsStages_setBulkhead rfl

theorem State.keepsStages_applyRecord (s : State) (tenant : Nat) (r : BitVec 512) : KeepsStages s (s.applyRecord tenant r) := by
  unfold State.applyRecord
  extract_lets old u w
  have hu : KeepsStages s u := .of_eq rfl rfl
  have hw : KeepsStages s w := hu.trans (u.keepsStages_askBulkheads tenant old r)
  split
  · exact hw
  · exact hw.trans (.of_amap (f := fun _ b => b.dropGrants tenant) rfl (fun _ _ => rfl) rfl)

theorem State.keepsStages_applyWrite (s : State) (p : Nat × BitVec 512 × BitVec 512) : KeepsStages s (s.applyWrite p) := by
  unfold State.applyWrite
  extract_lets r
  split
  · exact .of_eq rfl rfl
  · split
    · exact .of_eq rfl rfl
    · exact s.keepsStages_applyRecord _ _

theorem State.keepsStages_boundary (s : State) (tenant : Nat) : KeepsStages s (s.boundary tenant) := by
  unfold State.boundary
  split
  · exact .refl s
  · extract_lets mine u v
    have hu : KeepsStages s u := .of_eq rfl rfl
    have hv : KeepsStages s v := hu.trans (.foldl State.keepsStages_applyWrite mine u)
    refine hv.trans (.of_amap (f := fun _ b => if b.tag.toNat = tenant then b.applyWindows else b) rfl (fun _ b => ?_) rfl)
    split <;> rfl

theorem State.keepsStages_updSlice (s : State) (id : Nat) (f : Slice → Slice) : KeepsStages s (s.updSlice id f) := by
  rw [State.updSlice_eq]
  exact .of_eq rfl rfl

theorem State.keepsStages_dropOps (s : State) (ids : List Nat) : KeepsStages s (s.dropOps ids) := by
  rw [State.dropOps, State.foldl_freeRanges]
  exact ⟨fun _ => rfl, List.filter_sublist.subset⟩

theorem State.keepsStages_payEnergy (s : State) (i : Inst) (now : Bool) : KeepsStages s (s.payEnergy i now) := by
  unfold State.payEnergy
  extract_lets e u
  have hu : KeepsStages s u := .of_eq rfl rfl
  exact hu.trans (u.keepsStages_updSlice i.slice _)

theorem State.keepsStages_freeChase (s : State) (id : Nat) (i : Inst) : KeepsStages s (s.freeChase id i) := by
  unfold State.freeChase
  extract_lets shs u d v
  have hv : KeepsStages u v :=
    .of_amap (f := fun n b => if i.bulkheads.contains n then { b with phaseEnded := u.time } else b) rfl (fun _ b => by split <;> rfl) rfl
  exact ((s.keepsStages_payEnergy i true).trans hv).trans (v.keepsStages_boundary _)

theorem State.keepsStages_removeInst (s : State) (id : Nat) : KeepsStages s (s.removeInst id) := by
  unfold State.removeInst
  split
  · exact .refl s
  · next i _ =>
    have hd (u : State) : KeepsStages u (u.updDrover fun d => d.endReplay id) := .of_eq rfl rfl
    exact (((s.keepsStages_dropOps _).trans (hd _)).trans (State.keepsStages_updSlice _ i.slice _)).trans (State.keepsStages_freeChase _ id i)

theorem State.keepsStages_endSlice (s : State) (k : Nat) (status : BitVec 4) (reason kind : BitVec 8) (code : BitVec 16) :
    KeepsStages s (s.endSlice k status reason kind code) := by
  unfold State.endSlice
  split
  · exact .refl s
  · extract_lets u y
    have hu : KeepsStages s u := by
      unfold u
      split
      · exact s.keepsStages_removeInst _
      · exact .refl s
    exact hu.trans (.of_eq rfl rfl)

theorem State.keepsStages_endLaunch (s : State) (id : Nat) (kind : BitVec 8) (code : BitVec 16) : KeepsStages s (s.endLaunch id kind code) := by
  unfold State.endLaunch
  split
  · exact .refl s
  · split
    · exact s.keepsStages_endSlice _ _ _ _ _
    · exact s.keepsStages_removeInst _

/-! ### Operations that a reset cancels (R294) -/

theorem State.writeCancelled_parts (s : State) (o : EngineOp) :
    (s.writeCancelled o).bulkheads = s.bulkheads ∧ (s.writeCancelled o).ops = s.ops := by
  have hb := congrArg State.bulkheads (s.translate_frame o.tenant (msgReply o.header).toNat)
  have ho := congrArg State.ops (s.translate_frame o.tenant (msgReply o.header).toNat)
  unfold State.writeCancelled
  extract_lets word
  split
  · next u leaf p hu =>
    rw [hu] at hb ho
    split
    · rw [State.writeThrough, State.updInst_eq]
      exact ⟨hb, ho⟩
    · exact ⟨hb, ho⟩
  · next hu =>
    rw [hu] at hb ho
    exact ⟨hb, ho⟩

theorem State.keepsStages_cancelOps (s : State) (bh : Nat) : KeepsStages s (s.cancelOps bh) :=
  (KeepsStages.foldl (fun s (p : Nat × EngineOp) => .of_eq (s.writeCancelled_parts p.2).1 (s.writeCancelled_parts p.2).2) _ s).trans
    (State.keepsStages_dropOps _ _)

/-- Of the operations that the sheets of the bulkhead have issued none is left. -/
theorem State.ops_cancelOps {s : State} {bh : Nat} {p : Nat × EngineOp} (h : p ∈ (s.cancelOps bh).ops) :
    (bhSheets bh).contains p.2.sheet = false := by
  have hops : ((s.opsFrom bh).foldl (fun s p => s.writeCancelled p.2) s).ops = s.ops :=
    State.foldl_same State.ops (f := fun s (p : Nat × EngineOp) => s.writeCancelled p.2) (fun s p => (s.writeCancelled_parts p.2).2) _ s
  rw [State.cancelOps, State.ops_dropOps, hops, List.mem_filter] at h
  obtain ⟨hp, hout⟩ := h
  refine Bool.eq_false_iff.mpr fun hc => ?_
  have hin : p.1 ∈ (s.opsFrom bh).map Prod.fst := List.mem_map_of_mem (List.mem_filter.mpr ⟨hp, hc⟩)
  simp [hin] at hout

theorem State.keepsStages_endLaunches (s : State) (l : List Nat) (kind : BitVec 8) : KeepsStages s (s.endLaunches l kind) :=
  .foldl (fun s id => s.keepsStages_endLaunch id kind 0) l s

theorem State.resetBh_parts {s : State} {bh : Nat}
    (ha : (s.bulkhead bh).state = .active ∨ (s.bulkhead bh).state = .switching) (release : Bool) :
    ((s.resetBh bh release).bulkhead bh).stage =
      (.reset, .resetLine, if release || (s.bulkhead bh).releasing then 0 else (s.bulkhead bh).tag) ∧
    ∀ p ∈ (s.resetBh bh release).ops, (bhSheets bh).contains p.2.sheet = false := by
  unfold State.resetBh
  extract_lets b free u r v w x
  rw [if_pos ha]
  have hv : (v.bulkhead bh).stage = (.reset, .resetLine, if free then 0 else b.tag) :=
    congrArg Bulkhead.stage (State.bulkhead_setBulkhead u bh _)
  have hw : KeepsStages v w := by
    unfold w
    split
    · obtain ⟨d, hd⟩ := State.foldl_setMask b.holders bh false v
      rw [hd]
      exact .of_eq rfl rfl
    · exact .refl v
  have hx : KeepsStages w x := w.keepsStages_cancelOps bh
  have ht := x.keepsStages_endLaunches (x.instsOn bh) kReset
  exact ⟨(((hw.trans hx).trans ht).stages bh).trans hv, fun p hp => State.ops_cancelOps (s := w) (ht.ops hp)⟩

theorem bulkheadReset_resets {s : State} {bh : Nat} (r : Bool)
    (ha : (s.bulkhead bh).state = .active ∨ (s.bulkhead bh).state = .switching)
    (hn : (s.bulkhead bh).asks = []) : ∃ t, exec (.bulkheadReset bh r) s = .next t ∧ (t.bulkhead bh).state = .reset ∧
      (t.bulkhead bh).busy = .resetLine ∧ (t.bulkhead bh).nextTag = (if r || (s.bulkhead bh).releasing then 0 else (s.bulkhead bh).tag) ∧
      ∀ k o, aget? t.ops k = some o → (bhSheets bh).contains o.sheet = false := by
  have hal : (s.bulkhead bh).allows (.reset r) = true := by obtain ha | ha := ha <;> simp [Bulkhead.allows, ha]
  have hne : (s.bulkhead bh).state ≠ .retired := by obtain ha | ha := ha <;> rw [ha] <;> decide
  obtain ⟨hstage, hops⟩ := State.resetBh_parts (s := s.listed bh) (bh := bh) (by rwa [State.bulkhead_listed]) r
  rw [State.bulkhead_listed] at hstage
  obtain ⟨hst, hbusy, htag⟩ : _ ∧ _ ∧ _ := by simpa only [Bulkhead.stage, Prod.mk.injEq] using hstage
  exact ⟨_, congrArg Host.Outcome.next (State.askBh_served hne hn hal), hst, hbusy, htag, fun k o h => hops (k, o) (mem_of_aget? h)⟩

/-! ### What O56 comes to -/

/-- All else that O56 asks holds of every state, so it comes to one thing: that what is zeroised after a park image leaves the memory
outside the scratch alone. -/
theorem bulkheads_iff : Obligations.Bulkheads ↔ ∀ (s : State) (bh : Nat), (∀ t, s.tdiRuns t = false) →
    (s.bulkhead bh).state = .switching → (s.bulkhead bh).busy = .parking → s.parkKeeps bh := by
  unfold Obligations.Bulkheads
  refine ⟨fun h s bh hq ha hb => ?_, fun h s bh hq => ?_⟩
  · obtain ⟨-, -, -, -, -, -, -, -, -, -, -, -, -, -, hpark, -⟩ := h s bh hq
    obtain ⟨-, -, t, he, -, -, -, -, -, -, hmem⟩ := hpark ha hb
    obtain ⟨u, he', -, -, -, -, -, -, hu⟩ := parkComplete_parks ha hb
    cases he.symm.trans he'
    exact fun a hout => (congrArg (Memory.get · a) hu).symm.trans (hmem a hout)
  · intro b clean
    refine ⟨fun i a hi => ⟨fun hr => ?_, fun hr hn hal => ?_⟩, fun tag hn h0 h127 ht hb =>
        ⟨bulkheadAssign_free h0 h127 ht hn hb, bulkheadAssign_shared h0 h127 ht hn hb hq⟩,
      zeroisationDone_active, zeroisationDone_free, exec_zeroisationDone_next, fun hb hr => ?_, pllRelockDone_relocks, exec_pllRelockDone_none,
      bulkheadRelease_taken, fun ha hb => ⟨exec_bulkheadReleaseDone_waits, bulkheadReleaseDone_zeroises ha hb⟩, bulkheadReset_resets,
      resetLineRelease_zeroises, fun hs ha hb => ⟨exec_timeSliceExpiry_due hs ha hb, exec_timeSliceExpiry_early⟩,
      fun ha hb => ⟨exec_bulkheadSwitch_waits, bulkheadSwitch_begins hq ha hb⟩, fun ha hb => ?_, fun ha hb => ?_⟩
    · rw [exec_asks hi, State.askBh_retired hr]
    · exact ⟨_, (exec_asks hi s).trans (congrArg _ (State.askBh_waits hr hn hal)), State.bulkhead_setBulkhead _ _ _, rfl⟩
    · obtain ⟨u, hu⟩ := State.retireBh_eq hr
      exact ⟨_, (exec_zeroisationDone_fails hb).trans (congrArg _ hu), u.putOut_parts bh⟩
    · obtain ⟨t, he, hst, hbusy, hrot, hparked, hnext, hclean, hmem⟩ := parkComplete_parks ha hb
      exact ⟨(s.holder_parkImage bh).1, (s.holder_parkImage bh).2, t, he, hst, hbusy, hrot, hparked, hnext, hclean,
        fun a hout => (congrArg (Memory.get · a) hmem).trans (h s bh hq ha hb a hout)⟩
    · obtain ⟨t, he, hst, hbusy, hend, hover, hmem⟩ := restoreComplete_resumes ha hb
      exact ⟨t, he, hst, hbusy, hend, hover, fun p hp => hmem.trans (congrArg State.mem (State.unpark_some hp)),
        fun hp => hmem.trans (congrArg State.mem (State.unpark_none hp))⟩

/-! ### A park in memory out of order -/

/-- A bulkhead that parks its holder, in memory whose first cell lies in the scratch and hides the next one, of a lower location. -/
def outOfOrder : State :=
  { State.reset with
    mem := [(dsLoc 0 0, 1), (0, 1)]
    bulkheads := [(0, { Bulkhead.reset with state := .switching, busy := .parking, tag := 1, rotation := [1, 2], shared := true })] }

/-- Refutes O56: of `parkComplete` it asks, of any memory, that the zeroisation after the park image changes no byte outside the scratch. In
memory that is not in canonical form, to which no run from reset comes (O5), a cell of the scratch hides one of a lower location; once it is gone,
location 0 reads 1 where it read 0. In canonical memory what it asks holds (`State.parkKeeps_of_wf`), and so does all else (`bulkheads_iff`). -/
theorem not_bulkheads : ¬ Obligations.Bulkheads := by
  rw [bulkheads_iff]
  intro h
  have hq (t : Nat) : outOfOrder.tdiRuns t = false := by
    have hr : recordReset.getLsbD 343 = false := by decide +kernel
    rw [State.tdiRuns, State.confidential, State.activeTenant, show outOfOrder.record t = recordReset from rfl, hr]
    rfl
  exact absurd (h outOfOrder 0 hq rfl rfl 0 (by decide)) (by decide +kernel)

end Sys2Proof.Machine
end

section
/-! PROOF. The end of a launch that meets no handler (O14), and the report that the base thread closes (O16). -/

namespace Sys2Proof.Machine

/-! ### What the end of a forme leaves of the launches (R303) -/

/-- The formes, the slices and the VFs. -/
def State.launches (s : State) : Assoc Nat Inst × Assoc Nat Slice × Assoc Nat Vf := (s.insts, s.slices, s.vfs)

theorem State.launches_eq {s t : State} (h : t.launches = s.launches) : t.insts = s.insts ∧ t.slices = s.slices ∧ t.vfs = s.vfs := by
  simpa only [State.launches, Prod.mk.injEq] using h

theorem State.launches_applyWrite (s : State) (p : Nat × BitVec 512 × BitVec 512) : (s.applyWrite p).launches = s.launches := by
  unfold State.applyWrite
  extract_lets r
  split
  · rfl
  · split
    · rfl
    · unfold State.applyRecord
      extract_lets old u w
      have hw : w.launches = s.launches := (congrArg State.launches (u.askBulkheads_eq p.1 old r)).trans rfl
      split <;> exact hw

theorem State.launches_boundary (s : State) (tenant : Nat) : (s.boundary tenant).launches = s.launches := by
  unfold State.boundary
  split
  · rfl
  · extract_lets mine u v
    exact State.foldl_same State.launches State.launches_applyWrite mine u

/-- From `s` to `t` the forme goes; every slice keeps its VF, and no VF changes. -/
structure Removed (id : Nat) (s t : State) : Prop where
  insts : t.insts = adel s.insts id
  slices : ∀ k, (aget? t.slices k).map Slice.vf = (aget? s.slices k).map Slice.vf
  vfs : t.vfs = s.vfs

/-- What goes after a change that keeps the tenancy and the formes has gone from before it. -/
theorem SameTenancy.removed {id : Nat} {s t u : State} (h : SameTenancy s t) (hi : t.insts = s.insts) (hr : Removed id t u) :
    Removed id s u where
  insts := hr.insts.trans (congrArg (adel · id) hi)
  slices k := (hr.slices k).trans (h.slices k)
  vfs := hr.vfs.trans h.vfs

theorem State.removed_freeChase (s : State) (id : Nat) (i : Inst) : Removed id s (s.freeChase id i) := by
  have hp := s.sameTenancy_payEnergy i true
  unfold State.freeChase
  extract_lets shs u d v
  obtain ⟨hins, hslices, hvfs⟩ := State.launches_eq (v.launches_boundary i.tenant)
  exact hp.removed (s.insts_payEnergy i true) ⟨hins, fun k => congrArg (fun l => (aget? l k).map Slice.vf) hslices, hvfs⟩

theorem State.removed_removeInst {s : State} {id : Nat} {i : Inst} (hi : aget? s.insts id = some i) : Removed id s (s.removeInst id) := by
  rw [State.removeInst, hi]
  have hd := s.sameTenancy_dropOps (s.opsSinceCut id i.cutsDone)
  have he (u : State) : SameTenancy u (u.updDrover fun d => d.endReplay id) :=
    ⟨rfl, rfl, rfl, fun _ => rfl, List.Subset.refl _, fun _ => rfl⟩
  have hc (u : State) : SameTenancy u (u.updSlice i.slice fun x => { x with lastCut := i.lastCut }) :=
    u.sameTenancy_updSlice i.slice fun _ => rfl
  refine ((hd.trans (he _)).trans (hc _)).removed ?_ (State.removed_freeChase _ id i)
  rw [State.updSlice_eq]
  exact s.insts_dropOps _

/-- A launch that ends with a kind leaves neither forme nor slice, and its VF one completion record more (R303, R343). -/
theorem State.endLaunch_completes {s : State} {id : Nat} {i : Inst} {x : Slice} (kind : BitVec 8) (code : BitVec 16)
    (hi : aget? s.insts id = some i) (hx : aget? s.slices i.slice = some x) (hid : x.inst = some id) :
    aget? (s.endLaunch id kind code).insts id = none ∧ aget? (s.endLaunch id kind code).slices i.slice = none ∧
    ∃ c, ((s.endLaunch id kind code).vf x.vf).completions = (s.vf x.vf).completions ++ [c] ∧
      c.status = 2 ∧ c.kind = kind ∧ c.code = code := by
  obtain ⟨hins, hslices, hvfs⟩ := State.removed_removeInst hi
  let r := s.removeInst id
  obtain ⟨y, hy, hyv⟩ : ∃ y, aget? r.slices i.slice = some y ∧ y.vf = x.vf :=
    Option.map_eq_some_iff.mp ((hslices i.slice).trans (congrArg (Option.map Slice.vf) hx))
  have hend : s.endLaunch id kind code =
      ({ r with slices := adel r.slices i.slice } : State).postCompletion x.vf (y.completion r.time 2 0 kind code) := by
    simp only [State.endLaunch, hi, hx, State.endSlice, hid, agetD, hy, Option.getD_some, hyv, r]
  have hvf : r.vf x.vf = s.vf x.vf := congrArg (agetD · x.vf Vf.reset) hvfs
  rw [hend]
  refine ⟨?_, aget?_adel_same _ _, y.completion r.time 2 0 kind code, ?_, rfl, rfl, rfl⟩
  · exact (congrArg (aget? · id) hins).trans (aget?_adel_same _ _)
  · exact (State.completions_postCompletion _ _ _).trans (congrArg (·.completions ++ _) hvf)

/-! ### A trap that has no handler (R303) -/

/-- The state in which a trap finds the thread: its instruction has given its unit back and its issue group has ended (R84, R98). -/
def State.atTrap (s : State) : State := s.giveBack.endGroupOf s.curSheet s.curCtx

theorem State.launches_endGroupOf (s : State) (sheet ctx : Nat) : (s.endGroupOf sheet ctx).launches = s.launches := by
  unfold State.endGroupOf
  simp only []
  split <;> rfl

theorem State.actor_endGroupOf (s : State) (sheet ctx : Nat) :
    (s.endGroupOf sheet ctx).curSheet = s.curSheet ∧ (s.endGroupOf sheet ctx).curCtx = s.curCtx := by
  unfold State.endGroupOf
  simp only []
  split <;> exact ⟨rfl, rfl⟩

theorem State.launches_atTrap (s : State) : s.atTrap.launches = s.launches := s.giveBack.launches_endGroupOf s.curSheet s.curCtx

theorem State.tvec_atTrap (s : State) : s.atTrap.cur.tvec = s.cur.tvec := by
  obtain ⟨hs, hc⟩ := s.giveBack.actor_endGroupOf s.curSheet s.curCtx
  have ht := congrArg Thread.tvec (s.giveBack.thread_endGroupOf s.curSheet s.curCtx)
  rw [State.cur, State.atTrap, hs, hc]
  exact ht.trans (show s.giveBack.cur.tvec = s.cur.tvec from congrArg Thread.tvec s.giveBack_cur)

theorem State.curInst_atTrap (s : State) : s.atTrap.curInst = s.curInst := by
  obtain ⟨hs, hc⟩ := s.giveBack.actor_endGroupOf s.curSheet s.curCtx
  obtain ⟨hins, -, -⟩ := State.launches_eq s.launches_atTrap
  rw [State.curInst, State.instAt, hins, State.atTrap, hs, hc]
  rfl

theorem State.trapCode_ends {s : State} {id : Nat} {i : Inst} (kind : BitVec 8) (tval : Word) (code : BitVec 16) (h : s.cur.tvec = 0)
    (hi : s.curInst = some (id, i)) : s.trapCode kind tval code = s.atTrap.endLaunch id kind code := by
  unfold State.trapCode
  extract_lets u
  have ht : u.cur.tvec = 0 := s.tvec_atTrap.trans h
  have hu : u.curInst = some (id, i) := s.curInst_atTrap.trans hi
  rw [if_pos ht, hu]
  rfl

/-- Settles O14: the trap ends the launch, whatever record writes wait for the phase boundary that its end is. -/
theorem trapWithoutHandlerEndsLaunch : Obligations.TrapWithoutHandlerEndsLaunch := by
  unfold Obligations.TrapWithoutHandlerEndsLaunch
  intro s id i x kind tval code htv hci hi hx hid
  obtain ⟨hins, hslices, hvfs⟩ := State.launches_eq s.launches_atTrap
  have hvf : s.atTrap.vf x.vf = s.vf x.vf := congrArg (agetD · x.vf Vf.reset) hvfs
  rw [State.trapCode_ends kind tval code htv hci, ← hvf]
  exact State.endLaunch_completes kind code (hins ▸ hi) (hslices ▸ hx) hid

/-! ### The report that is closed (R305) -/

section
variable {s : State} {id : Nat} {i : Inst} {r : Report} (hci : s.curInst = some (id, i)) (ho : i.openReport = some r)
  (hb : i.base = s.curSheet)
include hci ho hb

theorem State.insts_closeReport_last (hq : i.reports = []) : aget? s.closeReport.insts id =
    some { i with openReport := none, frozen := false, stalled := false, thawing := i.sheets, watchdog := 0 } := by
  simp [State.closeReport, hci, ho, hb, hq, State.unstopInst, State.setInst]

theorem State.insts_closeReport_more (hq : i.reports ≠ []) :
    aget? s.closeReport.insts id = some { i with openReport := none } := by
  simp [State.closeReport, hci, ho, hb, hq, State.setInst]

end

/-- Settles O16: what `closeReport` writes back of the forme, by whether a report is queued. -/
theorem eretClosesReport : Obligations.EretClosesReport := by
  unfold Obligations.EretClosesReport
  intro s id i r hci _ ho hb
  exact ⟨s.exceptionReturn, rfl, s.cur_exceptionReturn,
    fun hq => ⟨_, State.insts_closeReport_last (s := s.goto s.cur.epc) hci ho hb hq, rfl, rfl, rfl⟩,
    fun hq => ⟨_, State.insts_closeReport_more (s := s.goto s.cur.epc) hci ho hb hq, rfl, rfl, rfl⟩⟩

end Sys2Proof.Machine
end
